-- ==== Sys2Proof/Word.lean ====
section
/-! DEFINITION. The word types of the LX7300 and their plainest arithmetic. Everything a test could show
wrong (decoding, byte order, sign extension, field extraction) stands under Sys2Proof/Machine. -/

namespace Sys2Proof

/-- A 64-bit register value (R239). -/
abbrev Word := BitVec 64

/-- One byte of memory. -/
abbrev Byte := BitVec 8

/-- A 32-bit register of a register page (R471) or a 32-bit syllable (R221). -/
abbrev Reg32 := BitVec 32

/-- The 32 bytes of a segment descriptor (R324), as one number, byte 0 lowest. -/
abbrev Desc256 := BitVec 256

/-- The 128 bytes of a submission entry (R369), as one number, byte 0 lowest. -/
abbrev Entry1024 := BitVec 1024

end Sys2Proof
end

