-- ==== Sys2Proof/Syntax.lean ====
section
/-! DEFINITION. The commands of the LX7300 block, one constructor per row of spec/opcode_table.json, and the
types of their operands. A Frayx instruction (R221 to R235) is one syllable: its command carries the fields
of the syllable and, where the encoding has one, of its X syllable. -/

namespace Sys2Proof

/-- Who makes a register access (R471): a function's host driver, Thaid on the management core, or J9. -/
inductive Agent where
  /-- The host driver of function f: 0 the PF, 1 to 63 a VF. -/
  | host (f : Fin 64)
  /-- The management core. -/
  | fw
  /-- The debug path (R489). -/
  | j9
  deriving DecidableEq, Repr

/-- One page-0 instance with a common header (R470, R483). -/
inductive PageId where
  | glb | pwr | evr | evc | hlk | rqe | dau | csc
  | lmc (n : Fin 12)
  | xpt (p : Fin 6)
  | map
  | pipe (n : Fin 8)
  | seq (n : Fin 16)
  | dir | lms | fab
  deriving DecidableEq, Repr

/-- The sleep state of an island (R458). -/
inductive IslState where
  | run | clkstop | retain | off
  deriving DecidableEq, Repr

/-- The place of a syllable: its sequencer, and its STOP bit (R221, R222). -/
structure Syl where
  seq : Fin 16
  stop : Bool
  deriving DecidableEq, Repr

/-- The place of an I-slot syllable; i1 says that it stands in I1 (R228). -/
structure ISyl where
  seq : Fin 16
  stop : Bool
  i1 : Bool
  deriving DecidableEq, Repr

/-- An immediate of format II (R226): IMM12 alone, or extended to 32 bits by an X syllable. -/
inductive Imm where
  | short (v : BitVec 12)
  | long (v : BitVec 32)
  deriving DecidableEq, Repr

/-- A displacement of format MA (R226): DISP8, scaled, or 32 bits in bytes with an X syllable. -/
inductive Disp where
  | short (v : BitVec 8)
  | long (v : BitVec 32)
  deriving DecidableEq, Repr

/-- A displacement of format BC (R226): DISP17, or 32 bits with an X syllable, both times 4. -/
inductive BDisp where
  | short (v : BitVec 17)
  | long (v : BitVec 32)
  deriving DecidableEq, Repr

/-- The memory operand of the M slot (R230). -/
structure MemOp where
  seg : Fin 16
  rb : Fin 32
  disp : Disp
  deriving DecidableEq, Repr

/-- The operand extension of an F syllable (R233). -/
structure FExt where
  km : Fin 8
  mz : Bool
  bs : Bool
  sc : Bool
  mbz : BitVec 6
  aux : BitVec 16
  deriving DecidableEq, Repr

/-- The fields of an F syllable below GRP and OP6 (R232), and its X syllable. -/
structure FArgs where
  vd : Fin 32
  va : Fin 32
  vb : Fin 32
  ty : BitVec 4
  ext : Option FExt
  deriving DecidableEq, Repr

/-- A host write posted before a doorbell write (R50, R356). A write to queue memory carries the IDE stream
that its TLP came in, if any (R378); 8 is the link stream. -/
inductive Posted where
  /-- A byte of queue memory, by its offset in the 16 MiB (R353). -/
  | qmem (off : Fin 16777216) (b : Byte) (ide : Option (Fin 9))
  /-- A byte of host memory. -/
  | host (addr : BitVec 56) (b : Byte)
  deriving DecidableEq, Repr

/-- A place in the BAR2 of a function (R353). -/
structure Bar2 where
  f : Fin 64
  off : BitVec 25
  deriving DecidableEq, Repr

/-- What a read of a function's configuration space names (R350, R352, R361, R468). -/
inductive CapWord where
  /-- The highest link speed and the width in lanes, by their codes. -/
  | speed | width
  /-- Link power states beyond L0 and L0p: bit 0 L0s, bit 1 L1; device power states beyond D0: bit 0 D1, bit 1 D2, bit 2 D3hot. -/
  | aspm | devicePower
  /-- Max payload size, max read request size and tag size: the code, the code, and the number of bits. -/
  | payload | readRequest | tags
  /-- The completion timeout ranges supported: bits 0 to 3 are A to D. -/
  | timeouts
  /-- Whether an extended capability is there: AER, SR-IOV, ARI, Resizable BAR, DOE, IDE, Readiness Time Reporting, Device Serial
  Number, the crash capability; and ATS, PASID, PRI, TDISP, INTx, MSI. -/
  | extended (c : Fin 15)
  /-- The number of MSI-X vectors; and of VFs that may be enabled. -/
  | vectors | totalVfs
  /-- The sizes that BAR4 takes: bit n is 2^n GiB. -/
  | bar4Sizes
  /-- Reset time and FLR time in milliseconds. -/
  | resetTime | flrTime
  /-- The two words of the Device Serial Number. -/
  | serial (hi : Bool)
  /-- A word of the crash capability. -/
  | crash (w : Fin 9)
  /-- AER's uncorrectable error status. -/
  | aer
  /-- Command, power state, Device Control, Device Control 2, link control, BAR4 size and SR-IOV control, as their writes lay them out. -/
  | command | power | device | device2 | link | bar4 | sriov
  deriving DecidableEq, Repr

/-- A byte-granular access of the host through BAR4, or of J9 to the fabric. -/
inductive BarAccess where
  | read (off : BitVec 57) (len : Fin 513)
  | write (off : BitVec 57) (bytes : List Byte)
  deriving DecidableEq, Repr

/-- Which master of the module waits for a memory response. -/
inductive Waiter where
  /-- The oldest outstanding long load of a sequencer (R252). -/
  | load (q : Fin 16)
  /-- A stream in a pipe's stream table. -/
  | stream (p : Fin 8) (e : Fin 64)
  /-- The host DMA (R377). -/
  | dma
  /-- The oldest store in flight of a sequencer (R285). -/
  | store (q : Fin 16)
  /-- The bundle that a sequencer forms or executes: its code fetch, gather or scatter, directory instruction, table or save-area
  access (R13, R98, R164, R280). -/
  | bundle (q : Fin 16)
  /-- The CSC's transfer of a bank of a sequencer (R307). -/
  | bank (q : Fin 16)
  /-- The queue engine's fetch of the next entry (R366). -/
  | fetch
  deriving DecidableEq, Repr

/-- How the host answers a request of the module that it does not perform (R30). -/
inductive HostFail where
  | unsupported | abort | timeout
  deriving DecidableEq, Repr

/-- An access of a master to host memory and how the host answers it (R30). -/
structure HostMiss where
  how : HostFail
  w : Waiter
  deriving DecidableEq, Repr

/-- A received request that the interface does not define (R352). -/
inductive BadRequest where
  | nonPosted (f : Fin 64)
  | postedUndefined
  | postedPoisoned
  /-- A poisoned completion to a read of a master. -/
  | completionPoisoned (w : Waiter) (ga : BitVec 57)
  deriving DecidableEq, Repr

/-- A request for a lifecycle transition (R462): the state asked for, which key signed it (owner, or
Zynnor), the authorisation object, and whether it came in an SPDM secured session. -/
structure LcRequest where
  target : Fin 5
  owner : Bool
  auth : BitVec 768
  session : Option Nat
  deriving DecidableEq, Repr

/-- How an FM link changed (R41): it went down, or retrained to a speed code of XPT_LINK.SPEED or to a
width in lanes. -/
inductive LinkChange where
  | down
  | speed (code : Fin 4)
  | width (lanes : Fin 17)
  deriving DecidableEq, Repr

/-- What enumeration of an FM port found (R38, R39, R45). -/
structure Enumeration where
  trained : Bool
  speed : Fin 4
  width : Fin 17
  flit : Bool
  /-- Supported expanders found. -/
  count : Fin 17
  switch : Bool
  /-- Capacity found behind the port, in GiB, before the 32 TiB limit. -/
  capGiB : Nat
  /-- A device or option outside the table of R38 or R39: device number and reason 1, 2 or 3. -/
  rejected : Option (BitVec 32 × Fin 4)
  deriving DecidableEq, Repr

/-- What a read found in one protected word or sector (R51, R414). -/
inductive CodeWord where
  | clean | corrected | uncorrectable
  deriving DecidableEq, Repr

/-- An access to a scratchpad bank in one Q-cycle (R407), a read with what the memory finds in its units (R414). -/
inductive PortAccess where
  | read (off : Fin 1048576) (len : Fin 65) (found : List (BitVec 57 × CodeWord))
  | write (off : Fin 1048576) (bytes : List Byte)
  deriving DecidableEq, Repr

/-- The data of the i-th outstanding load of a sequencer, with what the memory finds in the units read (R51, R52, R252). -/
structure LoadArrival where
  i : Fin 8
  found : List (BitVec 57 × CodeWord)
  deriving DecidableEq, Repr

/-- An entry of a sequencer's store buffer. -/
structure StoreRef where
  q : Fin 16
  i : Fin 8
  deriving DecidableEq, Repr

/-- A wave of a pipe, with what the memory finds in the units that its elements read (R51, R52). -/
structure WaveRead where
  p : Fin 8
  found : List (BitVec 57 × CodeWord)
  deriving DecidableEq, Repr

/-- What a step of a qualification measured, and the writes of its load that took effect: port-local address and data (R43). -/
structure QualStep where
  worstNs : BitVec 16
  writes : List (Nat × BitVec 512)
  deriving DecidableEq, Repr

/-- A grant at a port, with what the memory finds in the units that a granted READ reads (R51, R414). -/
structure PortTurn where
  port : Fin 64
  found : List (BitVec 57 × CodeWord)
  deriving DecidableEq, Repr

/-- One transaction on a crossing link (R430 to R433): the five header words that carry fields, the data
bytes, its channel, and what the receiver's code finds. -/
structure Crossing where
  w0 : Reg32
  w1 : Reg32
  w2 : Reg32
  w3 : Reg32
  w4 : Reg32
  rest : BitVec 352
  data : List Byte
  xvc : Fin 4
  /-- Words with a single-bit error. -/
  singles : Nat
  /-- A word with a double-bit error, or an XCTLP error. -/
  double : Bool
  /-- The waiting access of a master of this model that the transaction, or the response in it, belongs to, and its GA (R16). -/
  own : Option (Waiter × BitVec 57)
  deriving DecidableEq, Repr

/-- A record as Thaid offers it to the EVR (R436, R440). For FM_DEVICE_EVENT sev is the severity of the CXL event record: 0 informational,
1 warning, 2 failure, 3 fatal (R446). -/
structure RecordOffer where
  code : BitVec 16
  sev : Fin 5
  src : Fin 34
  p0 : BitVec 32
  p1 : BitVec 32
  p2 : BitVec 16
  deriving DecidableEq, Repr

/-- One 10 us measurement of the PWR block (R450) with its temperatures (R460, R464). -/
structure Measurement where
  /-- Input voltage, mV, at the sense contacts and inside the module (R488). -/
  mv : BitVec 16
  mvInside : BitVec 16
  /-- Input current, units of 10 mA. -/
  ma10 : BitVec 16
  /-- Input power, W. -/
  w : BitVec 12
  /-- Every best-effort cycle is already withheld and the draw is still above P(V). -/
  beExhausted : Bool
  /-- Hottest junction, hottest stack and cold plate, 0.1 degree Celsius, signed. -/
  jmax : BitVec 16
  smax : BitVec 16
  cplate : BitVec 16
  deriving DecidableEq, Repr

/-- A temperature sensor, by its number (R460). -/
inductive TempSensor where
  | junction (n : BitVec 32)
  | stack (n : BitVec 32)
  deriving DecidableEq, Repr

/-- What a selective IDE stream selects (R360): functions by their number, as the requester ID names them, and host addresses, each
from a first to a last. -/
structure IdeSelect where
  en : Bool
  fnLo : Fin 64
  fnHi : Fin 64
  lo : BitVec 56
  hi : BitVec 56
  deriving DecidableEq, Repr

/-- The register a write names. -/
inductive RegTarget where
  /-- A BAR0 offset, 4-byte aligned. -/
  | bar0 (off : BitVec 26)
  /-- A BAR0 offset, 8-byte aligned: the value goes to the low register, hi to the next one (R355). -/
  | bar0Pair (off : BitVec 26) (hi : Reg32)
  /-- Bytes at an offset of the agent's own BAR2, by one request, and the IDE stream that carried it; the value is not used (R353,
  R355). -/
  | bar2 (off : BitVec 25) (bytes : List Byte) (ide : Option (Fin 9))
  /-- Memory Space Enable in the Command register of a function. -/
  | memSpace (f : Fin 64)
  /-- The power state of a function: bits 1 to 0, 0 for D0 and 3 for D3hot (R350). -/
  | power (f : Fin 64)
  /-- Device Control of a function: max payload size in bits 7 to 5, max read request size in bits 14 to 12 (R350, R351). -/
  | device (f : Fin 64)
  /-- Device Control 2 of a function: the completion timeout range in bits 3 to 0 (R352). -/
  | device2 (f : Fin 64)
  /-- ASPM control of the link: bit 1 enables L1 (R350). -/
  | link
  /-- A selective IDE stream's registers; the value is not used (R360). -/
  | ideStream (i : Fin 8) (sel : IdeSelect)
  /-- AER's uncorrectable error status: bits written with 1 clear. -/
  | aer
  /-- VF Enable in bit 31 and NumVFs in bits 5 to 0 of the PF's SR-IOV capability. -/
  | sriov
  deriving DecidableEq, Repr

/-- The register a read names. -/
inductive ReadTarget where
  /-- A BAR0 offset, 4-byte aligned. -/
  | bar0 (off : BitVec 26)
  /-- A BAR0 offset, 8-byte aligned: two registers, the low one first (R355). -/
  | bar0Pair (off : BitVec 26)
  /-- Bytes at an offset of the agent's own BAR2 (R353, R355). -/
  | bar2 (off : BitVec 25) (len : Fin 513)
  /-- A word of a function's configuration space. -/
  | config (f : Fin 64) (w : CapWord)
  deriving DecidableEq, Repr

/-- The write that port B of a scratchpad answers COLLIDED (R409): a store-buffer entry of a sequencer, in flight, or the next write
of another master to the line of a GA. -/
inductive Collided where
  | store (q : Fin 16) (i : Fin 8)
  | write (ga : BitVec 57)
  deriving DecidableEq, Repr

/-- The commands of the block: one constructor per row of spec/opcode_table.json, in its order. Each
docstring gives the row's mnemonic and the rule that governs it. -/
inductive Instr where
  /-- JOB_SUBMIT (R173). A fetched JOB_SUBMIT entry reaches the DAU, which checks it, then accepts it (reserving capacity and allocating a context) or refuses it with a code. -/
  | jobSubmit
  /-- JOB_CANCEL (R374). Cancels the earliest matching job of a queue of the issuing function, or completes with NOT_FOUND. -/
  | jobCancel
  /-- MEM_COPY (R375). Host DMA copies LEN bytes between two segments in the best-effort class, copying poison and reporting DATA_ERROR. -/
  | memCopy
  /-- MEM_FILL (R375). Host DMA fills a destination range with an 8-byte pattern. -/
  | memFill
  /-- PROGRAM_LOAD (R376). Copies code into a code segment and records entry, TSBP and EDTB under a new program handle, or unloads a handle. -/
  | programLoad
  /-- SEG_CREATE (R375). Checks a segment descriptor against the function's regions and assigns a segment handle. -/
  | segCreate
  /-- SEG_DESTROY (R375). Frees a segment handle at once; accepted jobs keep their copies. -/
  | segDestroy
  /-- DIR_CREATE (R138). Checks directory parameters, assigns the lowest free handle and starts the zero-fill in state CREATING. -/
  | dirCreate
  /-- DIR_CREATE_FILL_DONE (R138). The zero-fill of a new directory ends; counters are set, the directory becomes READY and its completion is posted. -/
  | dirCreateFillDone (h : Fin 1024)
  /-- DIR_DESTROY (R140). Frees a directory's ranges and handle unless it is free, foreign or named by an uncompleted job. -/
  | dirDestroy
  /-- KEY_INSTALL (R378). Allocates, replaces or erases a vault key slot, only for entries carried in a Secure IDE stream. -/
  | keyInstall
  /-- DOE_KEY_INSTALL (R378). A Zynnor vendor-defined request in an SPDM secured session carries a KEY_INSTALL entry for a named function. -/
  | doeKeyInstall (session : Nat) (fn : Fin 64) (entry : Entry1024)
  /-- QUEUE_CREATE (R379). Checks and creates a queue pair, leaving it ACTIVE with heads, tails 0 and phase 1. -/
  | queueCreate
  /-- QUEUE_DELETE (R379). Moves a queue pair with no outstanding entries to OFF and discards unfetched entries. -/
  | queueDelete
  /-- STATUS_READ (R380). Writes a 256-byte block of sampled admission and resource registers to a segment. -/
  | statusRead
  /-- LOG_READ (R445). Flushes the event recorder buffer, copies the requested records and optionally clears the log. -/
  | logRead
  /-- SQ_TAIL_DOORBELL (R365). A write to a submission-tail doorbell sets the tail, or puts the pair into ERROR if invalid. -/
  | sqTailDoorbell (g : Bar2) (value : Word) (posted : List Posted)
  /-- CQ_HEAD_DOORBELL (R365). A write to a completion-head doorbell frees CQ slots, or puts the pair into ERROR if invalid. -/
  | cqHeadDoorbell (g : Bar2) (value : Word)
  /-- RQE_ENTRY_FETCH (R366). The RQE fetches one submission entry when the pair is ACTIVE, the CQ has a free slot, its round-robin turn comes and the DAU is ready. -/
  | rqeEntryFetch
  /-- ADMIN_QUEUE_ENABLE (R379). Setting QP_CTRL.EN of an admin queue runs the queue checks and activates it or records the refusal reason. -/
  | adminQueueEnable (f : Fin 64)
  /-- ADMIN_QUEUE_DRAIN (R379). Clearing QP_CTRL.EN of an admin queue stops fetching and puts the pair in DRAINING. -/
  | adminQueueDrain (f : Fin 64)
  /-- QUEUE_DRAIN_COMPLETE (R379). A draining admin queue with no outstanding entry goes OFF. -/
  | queueDrainComplete (f : Fin 64)
  /-- COMPLETION_ENTRY_WRITE (R368). The HL island writes a 32-byte completion entry to the CQ and, if enabled, sends an MSI-X message. -/
  | completionEntryWrite
  /-- MSIX_VECTOR_UNMASK (R368). Unmasking a vector with its pending bit set sends the held MSI-X message. -/
  | msixVectorUnmask (f : Fin 64) (v : Fin 2048)
  /-- BAR4_ACCESS (R354). A host access through BAR4 is performed as an LM, FM or on-die access at HLK_APER plus the offset. -/
  | bar4Access (a : BarAccess)
  /-- BAR4_RESIZE (R354). The host resizes BAR4 while Memory Space Enable is 0. -/
  | bar4Resize (log2GiB : Fin 7)
  /-- UNDEFINED_BAR_REQUEST (R352). A request to an undefined offset, of a forbidden width or with poisoned data is completed with UR or dropped and counted. -/
  | undefinedBarRequest (r : BadRequest)
  /-- HOST_WINDOW_COMPLETION_TIMEOUT (R30). A module read of host memory times out and returns an error response treated as an uncorrectable error. -/
  | hostWindowCompletionTimeout (m : HostMiss) (ga : BitVec 57)
  /-- HOST_LINK_LOSS (R363). The data link goes down; admission closes, every job ends GUARANTEE_VOID and every function is reset. -/
  | hostLinkLoss (cause : Fin 3)
  /-- PERST_ASSERT (R456). PERST# assertion resets the HL island and configuration space and acts as host-link loss. -/
  | perstAssert
  /-- PERST_DEASSERT (R361). PERST# deassertion starts host-link training toward readiness. -/
  | perstDeassert
  /-- HOST_LINK_READY (R361). The module reaches readiness with LM trained and FM enumerated and completes configuration requests normally. -/
  | hostLinkReady (speed : Fin 7) (width : Fin 17) (flit : Bool)
  /-- FLR (R362). A Function Level Reset stops fetching, cancels the function's jobs without entries, destroys its objects and returns its queues to OFF. -/
  | flr (f : Fin 64)
  /-- VF_DISABLE (R358). Clearing VF Enable acts as an FLR of every VF. -/
  | vfDisable
  /-- IDE_INTEGRITY_FAIL (R360). An IDE stream fails an integrity check, goes Insecure and an event record is written. -/
  | ideIntegrityFail (stream : Fin 9)
  /-- GET_VERSION (R359). SPDM GET_VERSION request on the PF's DOE mailbox. -/
  | getVersion
  /-- GET_CAPABILITIES (R359). SPDM GET_CAPABILITIES request. -/
  | getCapabilities
  /-- NEGOTIATE_ALGORITHMS (R359). SPDM NEGOTIATE_ALGORITHMS request. -/
  | negotiateAlgorithms (supported : Bool)
  /-- GET_DIGESTS (R359). SPDM GET_DIGESTS request. -/
  | getDigests
  /-- GET_CERTIFICATE (R359). SPDM GET_CERTIFICATE request for the slot 0 chain. -/
  | getCertificate (slot : BitVec 8)
  /-- CHALLENGE (R359). SPDM CHALLENGE request. -/
  | challenge (slot : BitVec 8)
  /-- GET_MEASUREMENTS (R359). SPDM GET_MEASUREMENTS request covering the Thaid images and runtime. -/
  | getMeasurements
  /-- KEY_EXCHANGE (R359). SPDM KEY_EXCHANGE opens a session, failing with SessionLimitExceeded beyond 4. -/
  | keyExchange
  /-- FINISH (R359). SPDM FINISH request completing session establishment. -/
  | finish (session : Nat)
  /-- KEY_UPDATE (R359). SPDM KEY_UPDATE request. -/
  | keyUpdate (session : Nat)
  /-- HEARTBEAT (R359). SPDM HEARTBEAT request. -/
  | heartbeat (session : Nat)
  /-- END_SESSION (R359). SPDM END_SESSION request. -/
  | endSession (session : Nat)
  /-- LIFECYCLE_TRANSITION (R463). An authorised transition request closes admission, voids jobs, programs fuses, wipes the vault and warm-resets the module. -/
  | lifecycleTransition (r : LcRequest)
  /-- SIDEBAND_MODULE_RESET (R457). An MCTP vendor message on the J1 SMBus makes the MG island reset the module without Thaid. -/
  | sidebandModuleReset (cold : Bool)
  /-- ADD (R239). RD := RA + RB modulo 2^64. -/
  | add (u : ISyl) (rd ra rb : Fin 32)
  /-- SUB (R239). RD := RA - RB modulo 2^64. -/
  | sub (u : ISyl) (rd ra rb : Fin 32)
  /-- AND (R239). Bitwise AND of RA and RB. -/
  | and (u : ISyl) (rd ra rb : Fin 32)
  /-- OR (R239). Bitwise OR of RA and RB. -/
  | or (u : ISyl) (rd ra rb : Fin 32)
  /-- XOR (R239). Bitwise XOR of RA and RB. -/
  | xor (u : ISyl) (rd ra rb : Fin 32)
  /-- ANDN (R239). RA AND NOT RB. -/
  | andn (u : ISyl) (rd ra rb : Fin 32)
  /-- SHL (R239). Shift RA left by RB, 0 when the count is 64 or more. -/
  | shl (u : ISyl) (rd ra rb : Fin 32)
  /-- SHR (R239). Logical right shift of RA by RB. -/
  | shr (u : ISyl) (rd ra rb : Fin 32)
  /-- SRA (R239). Arithmetic right shift of RA by RB. -/
  | sra (u : ISyl) (rd ra rb : Fin 32)
  /-- MIN (R239). Signed minimum of RA and RB. -/
  | min (u : ISyl) (rd ra rb : Fin 32)
  /-- MAX (R239). Signed maximum of RA and RB. -/
  | max (u : ISyl) (rd ra rb : Fin 32)
  /-- MINU (R239). Unsigned minimum of RA and RB. -/
  | minu (u : ISyl) (rd ra rb : Fin 32)
  /-- MAXU (R239). Unsigned maximum of RA and RB. -/
  | maxu (u : ISyl) (rd ra rb : Fin 32)
  /-- CMPEQ (R239). RD := 1 if RA equals RB, else 0. -/
  | cmpeq (u : ISyl) (rd ra rb : Fin 32)
  /-- CMPLT (R239). RD := 1 if RA < RB signed. -/
  | cmplt (u : ISyl) (rd ra rb : Fin 32)
  /-- CMPLTU (R239). RD := 1 if RA < RB unsigned. -/
  | cmpltu (u : ISyl) (rd ra rb : Fin 32)
  /-- CLZ (R242). Count of leading zeros of RA, 64 if zero. -/
  | clz (u : ISyl) (rd ra : Fin 32)
  /-- CTZ (R242). Count of trailing zeros of RA, 64 if zero. -/
  | ctz (u : ISyl) (rd ra : Fin 32)
  /-- POPC (R242). Count of ones in RA. -/
  | popc (u : ISyl) (rd ra : Fin 32)
  /-- PERMB (R243). Byte permute of RA under the control word in RB. -/
  | permb (u : ISyl) (rd ra rb : Fin 32)
  /-- MUL (R244). Low 64 bits of the product with the signed early-out timing rule. -/
  | mul (u : ISyl) (rd ra rb : Fin 32)
  /-- MULU (R244). Low 64 bits of the product with the unsigned early-out timing rule. -/
  | mulu (u : ISyl) (rd ra rb : Fin 32)
  /-- MULH (R244). Upper 64 bits of the signed product. -/
  | mulh (u : ISyl) (rd ra rb : Fin 32)
  /-- MULHU (R244). Upper 64 bits of the unsigned product. -/
  | mulhu (u : ISyl) (rd ra rb : Fin 32)
  /-- DIV (R244). Signed radix-4 divide, setting FCSR.IDZ on division by zero. -/
  | div (u : ISyl) (rd ra rb : Fin 32)
  /-- DIVU (R244). Unsigned divide. -/
  | divu (u : ISyl) (rd ra rb : Fin 32)
  /-- REM (R244). Signed remainder. -/
  | rem (u : ISyl) (rd ra rb : Fin 32)
  /-- REMU (R244). Unsigned remainder. -/
  | remu (u : ISyl) (rd ra rb : Fin 32)
  /-- MULDIV_COMPLETE (R282). The sequencer multiply-divide unit finishes its passes or cycles and makes the result available. -/
  | muldivComplete (q : Fin 16)
  /-- ADDI (R239). RD := RA + sign-extended immediate. -/
  | addi (u : ISyl) (rd ra : Fin 32) (imm : Imm)
  /-- ANDI (R239). RD := RA AND immediate. -/
  | andi (u : ISyl) (rd ra : Fin 32) (imm : Imm)
  /-- ORI (R239). RD := RA OR immediate. -/
  | ori (u : ISyl) (rd ra : Fin 32) (imm : Imm)
  /-- XORI (R239). RD := RA XOR immediate. -/
  | xori (u : ISyl) (rd ra : Fin 32) (imm : Imm)
  /-- SHLI (R239). Shift RA left by IMM12. -/
  | shli (u : ISyl) (rd ra : Fin 32) (n : BitVec 12)
  /-- SHRI (R239). Logical right shift of RA by IMM12. -/
  | shri (u : ISyl) (rd ra : Fin 32) (n : BitVec 12)
  /-- SRAI (R239). Arithmetic right shift of RA by IMM12. -/
  | srai (u : ISyl) (rd ra : Fin 32) (n : BitVec 12)
  /-- CMPEQI (R239). RD := 1 if RA equals the immediate. -/
  | cmpeqi (u : ISyl) (rd ra : Fin 32) (imm : Imm)
  /-- CMPLTI (R239). RD := 1 if RA < immediate signed. -/
  | cmplti (u : ISyl) (rd ra : Fin 32) (imm : Imm)
  /-- CMPLTUI (R239). RD := 1 if RA < sign-extended immediate, compared unsigned. -/
  | cmpltui (u : ISyl) (rd ra : Fin 32) (imm : Imm)
  /-- LI (R239). RD := sign-extended immediate. -/
  | li (u : ISyl) (rd : Fin 32) (imm : Imm)
  /-- LIH (R240). RD[63:32] := immediate[31:0], keeping RD[31:0]. -/
  | lih (u : ISyl) (rd : Fin 32) (imm : Imm)
  /-- BFX (R241). Extracts an unsigned bit field of RA. -/
  | bfx (u : ISyl) (rd ra : Fin 32) (lsb wm1 : BitVec 6)
  /-- BFXS (R241). Extracts a bit field of RA and sign-extends it. -/
  | bfxs (u : ISyl) (rd ra : Fin 32) (lsb wm1 : BitVec 6)
  /-- BFI (R241). Inserts RA's low bits into a bit field of RD. -/
  | bfi (u : ISyl) (rd ra : Fin 32) (lsb wm1 : BitVec 6)
  /-- MFC (R245). Copies a control register to RD, subject to level permissions. -/
  | mfc (u : ISyl) (rd cr : Fin 32)
  /-- MTC (R245). Copies RA to a control register, refusing reserved values. -/
  | mtc (u : ISyl) (cr ra : Fin 32)
  /-- LDB (R247). Loads one byte zero-extended after segment checks. -/
  | ldb (u : Syl) (rd : Fin 32) (m : MemOp)
  /-- LDH (R247). Loads two bytes zero-extended. -/
  | ldh (u : Syl) (rd : Fin 32) (m : MemOp)
  /-- LDW (R247). Loads four bytes zero-extended. -/
  | ldw (u : Syl) (rd : Fin 32) (m : MemOp)
  /-- LDD (R247). Loads eight bytes. -/
  | ldd (u : Syl) (rd : Fin 32) (m : MemOp)
  /-- LDBS (R247). Loads one byte sign-extended. -/
  | ldbs (u : Syl) (rd : Fin 32) (m : MemOp)
  /-- LDHS (R247). Loads two bytes sign-extended. -/
  | ldhs (u : Syl) (rd : Fin 32) (m : MemOp)
  /-- LDWS (R247). Loads four bytes sign-extended. -/
  | ldws (u : Syl) (rd : Fin 32) (m : MemOp)
  /-- STB (R247). Stores one byte. -/
  | stb (u : Syl) (rd : Fin 32) (m : MemOp)
  /-- STH (R247). Stores two bytes. -/
  | sth (u : Syl) (rd : Fin 32) (m : MemOp)
  /-- STW (R247). Stores four bytes. -/
  | stw (u : Syl) (rd : Fin 32) (m : MemOp)
  /-- STD (R247). Stores eight bytes. -/
  | std (u : Syl) (rd : Fin 32) (m : MemOp)
  /-- LDF (R247). Loads 64 bits into an f register. -/
  | ldf (u : Syl) (rd : Fin 32) (m : MemOp)
  /-- LDFS (R247). Loads a binary32 value into an f register. -/
  | ldfs (u : Syl) (rd : Fin 32) (m : MemOp)
  /-- STF (R247). Stores an f register's 64 bits. -/
  | stf (u : Syl) (rd : Fin 32) (m : MemOp)
  /-- STFS (R247). Stores an f register's low 32 bits. -/
  | stfs (u : Syl) (rd : Fin 32) (m : MemOp)
  /-- SLD (R254). Loads a segment register from a 32-byte descriptor after format and narrowing checks. -/
  | sld (u : Syl) (sn : Fin 16) (m : MemOp)
  /-- SST (R254). Stores a segment register's descriptor. -/
  | sst (u : Syl) (sn : Fin 16) (m : MemOp)
  /-- SAVEL (R270). Writes the lower-half state record into save areas of a segment. -/
  | savel (u : Syl) (m : MemOp)
  /-- SAVEH (R271). Writes the upper-half vector state and vector fix-up list into save areas. -/
  | saveh (u : Syl) (m : MemOp)
  /-- RESTL (R270). Checks and restores the lower-half record. -/
  | restl (u : Syl) (m : MemOp)
  /-- RESTH (R271). Restores the upper-half record. -/
  | resth (u : Syl) (m : MemOp)
  /-- MFENCE (R274). Waits until earlier scalar accesses complete and their writes are visible. -/
  | mfence (u : Syl)
  /-- ISYNC (R273). Makes the sequencer discard and refetch code of a range. -/
  | isync (u : Syl) (rd rb : Fin 32) (seg : Fin 16)
  /-- SPILLW (R267). Writes the oldest window in use to memory below WSP. -/
  | spillw (u : Syl)
  /-- FILLW (R267). Reads a window record from WSP into the window below the oldest in use. -/
  | fillw (u : Syl)
  /-- BR (R258). Unconditional relative branch. -/
  | br (u : Syl) (d : BDisp)
  /-- BEQZ (R258). Branches when RA is zero. -/
  | beqz (u : Syl) (ra : Fin 32) (d : BDisp)
  /-- BNEZ (R258). Branches when RA is nonzero. -/
  | bnez (u : Syl) (ra : Fin 32) (d : BDisp)
  /-- BLTZ (R258). Branches when RA is negative. -/
  | bltz (u : Syl) (ra : Fin 32) (d : BDisp)
  /-- BGEZ (R258). Branches when RA is zero or positive. -/
  | bgez (u : Syl) (ra : Fin 32) (d : BDisp)
  /-- BGTZ (R258). Branches when RA is positive. -/
  | bgtz (u : Syl) (ra : Fin 32) (d : BDisp)
  /-- BLEZ (R258). Branches when RA is zero or negative. -/
  | blez (u : Syl) (ra : Fin 32) (d : BDisp)
  /-- JR (R258). Branches to the address in RA. -/
  | jr (u : Syl) (ra : Fin 32)
  /-- LOOP (R260). Opens a hardware loop level, or skips the body when the count is 0. -/
  | loop (u : Syl) (ra : Fin 32) (d : BDisp)
  /-- CALL (R264). Saves masked g registers, opens a new window and branches. -/
  | call (u : Syl) (mask : BitVec 16) (disp : BitVec 28)
  /-- CALLR (R264). As CALL with the target in a register. -/
  | callr (u : Syl) (mask : BitVec 16) (ra : Fin 32)
  /-- RET (R265). Restores saved g registers, closes the window and returns to RPC. -/
  | ret (u : Syl)
  /-- RETX (R339). Checks and restores a TSB or escalation frame and re-executes the saved bundle. -/
  | retx (u : Syl)
  /-- JEND (R276). Ends the job once no ticket, store, F-slot operation or FP trap is outstanding. -/
  | jend (u : Syl)
  /-- TRAP (R277). Raises TRAP instruction with CODE in the fault record. -/
  | trap (u : Syl) (code : BitVec 16)
  /-- BRK (R277). Raises Breakpoint at the BRK bundle. -/
  | brk (u : Syl)
  /-- STRM (R71). Checks the stream block, waits for a table entry and returns a ticket. -/
  | strm (u : Syl) (rd ra : Fin 32) (seg : Fin 16)
  /-- STWAIT (R75). Waits for a stream to end, then writes its status word or raises its fault and frees the ticket. -/
  | stwait (u : Syl) (rd ra : Fin 32)
  /-- STTEST (R75). As STWAIT if the stream has ended, otherwise writes zero at once. -/
  | sttest (u : Syl) (rd ra : Fin 32)
  /-- FSYNC (R274). Waits for outstanding F-slot operations and delivers a pending FP trap. -/
  | fsync (u : Syl)
  /-- VGATHER (R98). Gathers elements into a vector register with per-element checks, completing before the next bundle. -/
  | vgather (u : Syl) (a : FArgs)
  /-- VSCATTER (R98). Scatters vector elements to memory in ascending order. -/
  | vscatter (u : Syl) (a : FArgs)
  /-- MTF (R234). Moves an integer register into an f register. -/
  | mtf (u : Syl) (vd va : Fin 32) (ty : BitVec 4)
  /-- MFF (R234). Moves an f register into an integer register. -/
  | mff (u : Syl) (vd va : Fin 32) (ty : BitVec 4)
  /-- VMOV (R112). Register-form MOV, also KMOV on mask registers. -/
  | vmov (u : Syl) (a : FArgs)
  /-- VADD (R112). Element-wise integer add. -/
  | vadd (u : Syl) (a : FArgs)
  /-- VSUB (R112). Element-wise integer subtract. -/
  | vsub (u : Syl) (a : FArgs)
  /-- VADDSAT (R112). Element-wise saturating add. -/
  | vaddsat (u : Syl) (a : FArgs)
  /-- VSUBSAT (R112). Element-wise saturating subtract. -/
  | vsubsat (u : Syl) (a : FArgs)
  /-- VMIN (R112). Element-wise integer minimum. -/
  | vmin (u : Syl) (a : FArgs)
  /-- VMAX (R112). Element-wise integer maximum. -/
  | vmax (u : Syl) (a : FArgs)
  /-- VABS (R112). Element-wise saturating absolute value. -/
  | vabs (u : Syl) (a : FArgs)
  /-- VNEG (R112). Element-wise negation. -/
  | vneg (u : Syl) (a : FArgs)
  /-- VAND (R112). Element-wise AND, also KAND. -/
  | vand (u : Syl) (a : FArgs)
  /-- VOR (R112). Element-wise OR, also KOR. -/
  | vor (u : Syl) (a : FArgs)
  /-- VXOR (R112). Element-wise XOR, also KXOR. -/
  | vxor (u : Syl) (a : FArgs)
  /-- VANDN (R112). Element-wise AND NOT, also KANDN. -/
  | vandn (u : Syl) (a : FArgs)
  /-- VNOT (R112). Element-wise NOT, also KNOT. -/
  | vnot (u : Syl) (a : FArgs)
  /-- VSHL (R112). Element-wise shift left by operand b. -/
  | vshl (u : Syl) (a : FArgs)
  /-- VSHR (R112). Element-wise logical right shift. -/
  | vshr (u : Syl) (a : FArgs)
  /-- VSRA (R112). Element-wise arithmetic right shift. -/
  | vsra (u : Syl) (a : FArgs)
  /-- VSHLI (R112). Element-wise shift left by an immediate. -/
  | vshli (u : Syl) (a : FArgs)
  /-- VSHRI (R112). Element-wise logical right shift by an immediate. -/
  | vshri (u : Syl) (a : FArgs)
  /-- VSRAI (R112). Element-wise arithmetic right shift by an immediate. -/
  | vsrai (u : Syl) (a : FArgs)
  /-- VBFX (R112). Element-wise bit-field extract. -/
  | vbfx (u : Syl) (a : FArgs)
  /-- VBFXS (R112). Element-wise signed bit-field extract. -/
  | vbfxs (u : Syl) (a : FArgs)
  /-- VBFI (R112). Element-wise bit-field insert. -/
  | vbfi (u : Syl) (a : FArgs)
  /-- VCLZ (R112). Element-wise leading-zero count. -/
  | vclz (u : Syl) (a : FArgs)
  /-- VCTZ (R112). Element-wise trailing-zero count. -/
  | vctz (u : Syl) (a : FArgs)
  /-- VPOPC (R112). Element-wise population count. -/
  | vpopc (u : Syl) (a : FArgs)
  /-- VCMPEQ (R112). Integer compare equal into a mask. -/
  | vcmpeq (u : Syl) (a : FArgs)
  /-- VCMPNE (R112). Integer compare not equal into a mask. -/
  | vcmpne (u : Syl) (a : FArgs)
  /-- VCMPLT (R112). Integer compare less than into a mask. -/
  | vcmplt (u : Syl) (a : FArgs)
  /-- VCMPLE (R112). Integer compare less or equal into a mask. -/
  | vcmple (u : Syl) (a : FArgs)
  /-- VCMPGT (R112). Integer compare greater than into a mask. -/
  | vcmpgt (u : Syl) (a : FArgs)
  /-- VCMPGE (R112). Integer compare greater or equal into a mask. -/
  | vcmpge (u : Syl) (a : FArgs)
  /-- VCVT (R112). Integer width conversion by extension or truncation. -/
  | vcvt (u : Syl) (a : FArgs)
  /-- VCVTSAT (R112). Integer width conversion with clamping. -/
  | vcvtsat (u : Syl) (a : FArgs)
  /-- VRSUM (R116). Whole-register integer sum into vd element 0. -/
  | vrsum (u : Syl) (a : FArgs)
  /-- VRMIN (R116). Whole-register integer minimum. -/
  | vrmin (u : Syl) (a : FArgs)
  /-- VRMAX (R116). Whole-register integer maximum. -/
  | vrmax (u : Syl) (a : FArgs)
  /-- VRCNT (R116). Counts set mask bits taken in. -/
  | vrcnt (u : Syl) (a : FArgs)
  /-- VRAND (R116). Whole-register AND reduction. -/
  | vrand (u : Syl) (a : FArgs)
  /-- VROR (R116). Whole-register OR reduction. -/
  | vror (u : Syl) (a : FArgs)
  /-- VRXOR (R116). Whole-register XOR reduction. -/
  | vrxor (u : Syl) (a : FArgs)
  /-- VSSUM (R118). Segmented sum with end flags from a mask register. -/
  | vssum (u : Syl) (a : FArgs)
  /-- VSMIN (R118). Segmented minimum. -/
  | vsmin (u : Syl) (a : FArgs)
  /-- VSMAX (R118). Segmented maximum. -/
  | vsmax (u : Syl) (a : FArgs)
  /-- VSCNT (R118). Segmented count. -/
  | vscnt (u : Syl) (a : FArgs)
  /-- VSAND (R118). Segmented AND. -/
  | vsand (u : Syl) (a : FArgs)
  /-- VSOR (R118). Segmented OR. -/
  | vsor (u : Syl) (a : FArgs)
  /-- VSXOR (R118). Segmented XOR. -/
  | vsxor (u : Syl) (a : FArgs)
  /-- VPSUM (R119). Inclusive prefix sum. -/
  | vpsum (u : Syl) (a : FArgs)
  /-- VPSUMX (R119). Exclusive prefix sum. -/
  | vpsumx (u : Syl) (a : FArgs)
  /-- VMUL (R120). Element-wise multiply, low half. -/
  | vmul (u : Syl) (a : FArgs)
  /-- VMULH (R120). Element-wise multiply, high half. -/
  | vmulh (u : Syl) (a : FArgs)
  /-- VMULSAT (R120). Element-wise saturating multiply. -/
  | vmulsat (u : Syl) (a : FArgs)
  /-- VDIV (R120). Element-wise integer divide without traps. -/
  | vdiv (u : Syl) (a : FArgs)
  /-- VREM (R120). Element-wise integer remainder. -/
  | vrem (u : Syl) (a : FArgs)
  /-- VFDIV (R120). Element-wise FP divide. -/
  | vfdiv (u : Syl) (a : FArgs)
  /-- VFSQRT (R120). Element-wise FP square root. -/
  | vfsqrt (u : Syl) (a : FArgs)
  /-- VFADD (R122). Element-wise FP add. -/
  | vfadd (u : Syl) (a : FArgs)
  /-- VFSUB (R122). Element-wise FP subtract. -/
  | vfsub (u : Syl) (a : FArgs)
  /-- VFMUL (R122). Element-wise FP multiply. -/
  | vfmul (u : Syl) (a : FArgs)
  /-- VFMA (R122). Fused multiply-add, rounded once. -/
  | vfma (u : Syl) (a : FArgs)
  /-- VFMS (R122). Fused multiply-subtract. -/
  | vfms (u : Syl) (a : FArgs)
  /-- VFNMA (R122). Fused negated multiply-add. -/
  | vfnma (u : Syl) (a : FArgs)
  /-- VFMIN (R122). Element-wise minimumNumber. -/
  | vfmin (u : Syl) (a : FArgs)
  /-- VFMAX (R122). Element-wise maximumNumber. -/
  | vfmax (u : Syl) (a : FArgs)
  /-- VFABS (R122). Clears sign bits. -/
  | vfabs (u : Syl) (a : FArgs)
  /-- VFNEG (R122). Inverts sign bits. -/
  | vfneg (u : Syl) (a : FArgs)
  /-- VFCMPEQ (R122). FP compare equal into a mask. -/
  | vfcmpeq (u : Syl) (a : FArgs)
  /-- VFCMPNE (R122). FP compare not equal or unordered into a mask. -/
  | vfcmpne (u : Syl) (a : FArgs)
  /-- VFCMPLT (R122). FP compare less than. -/
  | vfcmplt (u : Syl) (a : FArgs)
  /-- VFCMPLE (R122). FP compare less or equal. -/
  | vfcmple (u : Syl) (a : FArgs)
  /-- VFCMPGT (R122). FP compare greater than. -/
  | vfcmpgt (u : Syl) (a : FArgs)
  /-- VFCMPGE (R122). FP compare greater or equal. -/
  | vfcmpge (u : Syl) (a : FArgs)
  /-- VFCVT (R122). Conversion involving FP types, rounded by RM. -/
  | vfcvt (u : Syl) (a : FArgs)
  /-- VFCVTZ (R122). FP to integer conversion rounded toward zero. -/
  | vfcvtz (u : Syl) (a : FArgs)
  /-- VFRSUM (R117). Whole-register FP sum in the fixed tree order. -/
  | vfrsum (u : Syl) (a : FArgs)
  /-- VFRMIN (R122). Whole-register FP minimum. -/
  | vfrmin (u : Syl) (a : FArgs)
  /-- VFRMAX (R122). Whole-register FP maximum. -/
  | vfrmax (u : Syl) (a : FArgs)
  /-- VPERMB (R125). Element-wise byte permute. -/
  | vpermb (u : Syl) (a : FArgs)
  /-- VEXPD (R126). Expands packed elements into active positions. -/
  | vexpd (u : Syl) (a : FArgs)
  /-- VCMPR (R127). Compresses active elements to the bottom of vd. -/
  | vcmpr (u : Syl) (a : FArgs)
  /-- VPERM (R127). Element permute by an index vector. -/
  | vperm (u : Syl) (a : FArgs)
  /-- VKPOPC (R127). Counts set mask bits below VL into an integer register. -/
  | vkpopc (u : Syl) (a : FArgs)
  /-- VHASH (R130). Element-wise ZH64 hash with a seed. -/
  | vhash (u : Syl) (a : FArgs)
  /-- DPROBE (R150). Register-form directory probe. -/
  | dprobe (u : Syl) (a : FArgs)
  /-- DINS (R150). Register-form directory insert, exchange or sequence. -/
  | dins (u : Syl) (a : FArgs)
  /-- DAGG (R151). Register-form directory aggregation. -/
  | dagg (u : Syl) (a : FArgs)
  /-- DDEL (R150). Register-form directory delete. -/
  | ddel (u : Syl) (a : FArgs)
  /-- F_SLOT_OP_COMPLETE (R204). An F-slot operation finishes in the pipe, writes its result and ORs its flags into FCSR. -/
  | fSlotOpComplete (q : Fin 16)
  /-- LONG_LOAD_DATA_ARRIVAL (R252). A long load's data or error arrives; poison or error raises Memory Uncorrectable and discards later bundles. -/
  | longLoadDataArrival (q : Fin 16) (a : LoadArrival)
  /-- STORE_BUFFER_SEND (R285). The store buffer sends its next entry in program order. -/
  | storeBufferSend (q : Fin 16)
  /-- STORE_WRITE_ACK (R285). A store entry's acknowledgement arrives and it drains, or its error raises a deferred Memory Uncorrectable. -/
  | storeWriteAck (e : StoreRef)
  /-- PORT_B_COLLIDED_ANSWER (R409). A COLLIDED answer makes the master resend the write, failing after the fourth. -/
  | portBCollidedAnswer (w : Collided)
  /-- IBUF_LINE_FILL (R290). A demand-fetched or prefetched code line arrives in the bank's instruction-buffer partition. -/
  | ibufLineFill (q : Fin 16) (bank : Fin 8) (ga : BitVec 57)
  /-- SEQUENCER_INTERRUPT_TAKE (R394). At a bundle boundary of an unmasked context the sequencer claims from the EVC and enters the interrupt class. -/
  | sequencerInterruptTake (q : Fin 16)
  /-- MASK_OVERRUN (R342). MASKQ reaches MASK_LIMIT and Mask Overrun is raised, escalated or locks the sequencer. -/
  | maskOverrun (q : Fin 16)
  /-- WATCHDOG_EXPIRY (R293). The sequencer watchdog reaches SEQ_WDOG.MS and the sequencer goes LOCKED. -/
  | watchdogExpiry (q : Fin 16)
  /-- STREAM_TABLE_GRANT (R72). A pipe grants a stream-table entry to the first waiting STRM in order. -/
  | streamTableGrant (p : Fin 8)
  /-- STREAM_START (R80). The pipe reads the stream block and checks descriptors, chain and affine extents, ending at once on failure. -/
  | streamStart (p : Fin 8) (e : Fin 64)
  /-- STREAM_ACTIVATE (R78). A stream is chosen to run in a buffer partition, displacing a lower-order stream at its strip boundary. -/
  | streamActivate (p : Fin 8) (e : Fin 64)
  /-- STREAM_WAVE (R70). In a P-cycle a unit accepts a wave of the selected stream and passes it through the chain. -/
  | streamWave (w : WaveRead)
  /-- STRIP_COMMIT (R85). Every write of a strip's active elements has been accepted and the strip commits. -/
  | stripCommit (p : Fin 8) (e : Fin 64)
  /-- STREAM_END (R60). The stream's status and fix-up write completes and the ticket notice reaches the context. -/
  | streamEnd (p : Fin 8) (e : Fin 64)
  /-- PIPE_LANE_FAIL (R92). A lane fails self-check; uncommitted strips are discarded and streams restart on a spare, or end with Memory Uncorrectable. -/
  | pipeLaneFail (p : Fin 8) (lane : Fin 66)
  /-- DIR_OP_RETIRE (R153). A Scarab engine retires a directory operation in element order, updating bucket, filter and counts. -/
  | dirOpRetire (p : Fin 8)
  /-- ADMISSION_SLOT_ADVANCE (R166). The DAU slot clock advances by one 1 µs slot. -/
  | admissionSlotAdvance
  /-- DEADLINE_DEMOTION (R317). At its deadline slot a non-ending guaranteed context is demoted to best-effort and its reservation removed. -/
  | deadlineDemotion
  /-- RELEASE_SLOT_REACHED (R318). A best-effort context waiting on its release slot becomes READY. -/
  | releaseSlotReached (c : Fin 4194304)
  /-- METER_REPORT (R178). Every 16 µs of residence the CSC reports metered use and the DAU lowers remaining demand. -/
  | meterReport (c : Fin 4194304)
  /-- DAU_DEMAND_CREDIT (R178). A credit of demand is applied through the tree's second port after any running decision. -/
  | dauDemandCredit
  /-- BUDGET_OVERRUN (R179). A meter exceeds its budget; the job is demoted, reservations released and Budget Overrun made pending. -/
  | budgetOverrun (c : Fin 4194304)
  /-- BE_SLICE_EXPIRY (R316). A best-effort context's slice expires and it moves to the FIFO tail when another admitted one is READY. -/
  | beSliceExpiry (q : Fin 16)
  /-- CSC_PLACEMENT (R314). The CSC places a READY non-resident context on a sequencer, choosing a free bank or a victim, and starts its transfer. -/
  | cscPlacement
  /-- CONTEXT_TRANSFER_COMPLETE (R307). A transfer engine finishes a load or eviction and the loaded context enters selection. -/
  | contextTransferComplete (q : Fin 16)
  /-- BANK_SWITCH (R306). Once the outgoing context has no long load or F-slot operation outstanding, the sequencer switches banks and takes pending items. -/
  | bankSwitch (q : Fin 16)
  /-- CONTEXT_ENDING (R320). A cancelled context whose streams stopped and stores drained enters ENDING and requests its completion entry. -/
  | contextEnding (c : Fin 4194304)
  /-- FM_LINK_DOWN (R41). An FM port's link goes down or retrains lower; the port is withdrawn and requests fail. -/
  | fmLinkDown (p : Fin 6) (why : LinkChange)
  /-- FM_VIRAL (R38). Viral on an FM port is treated as link loss and the port is withdrawn. -/
  | fmViral (p : Fin 6)
  /-- FM_RESPONSE_LIMIT_EXPIRY (R42). An FM request unanswered within its limit completes with an error response. -/
  | fmResponseLimitExpiry (p : Fin 6) (w : Waiter) (ga : BitVec 57)
  /-- XPT_QUAL_START (R43). A write of XPT_QUAL_CTRL.START clears the latency monitor and starts the load steps. -/
  | xptQualStart (p : Fin 6)
  /-- FM_QUAL_STEP_END (R44). A 50 ms qualification step ends; the run continues or stops and sets STEP, BW, LAT and QUALIFIED. -/
  | fmQualStepEnd (p : Fin 6) (r : QualStep)
  /-- PERST_XP_END (R45). After 100 ms of PERST_XP# the port is trained, enumerated and re-enabled or left withdrawn. -/
  | perstXpEnd (p : Fin 6) (r : Enumeration)
  /-- PRSNT_XP_REMOVAL (R492). PRSNT_XP# rises for over 1 µs and the port is withdrawn within 10 µs. -/
  | prsntXpRemoval (p : Fin 6) (pulseNs : Nat)
  /-- PRSNT_XP_INSERT (R494). PRSNT_XP# stays low for the 1 ms debounce and PERST_XP# is asserted for re-enumeration. -/
  | prsntXpInsert (p : Fin 6)
  /-- LM_FRAME_START (R33). Each PC starts a new 1 µs frame of 125 granule slots. -/
  | lmFrameStart (n : Fin 12)
  /-- LM_BE_AGING (R35). A best-effort LM request passes 4 µs and is served before newer best-effort requests. -/
  | lmBeAging (n : Fin 12) (i : Nat)
  /-- LM_CORRECTED_WRITEBACK (R51). The controller writes a corrected sector back in a maintenance slot. -/
  | lmCorrectedWriteback (n : Fin 12)
  /-- LM_PATROL_SCRUB (R53). Patrol scrub reads and checks the next LM sector in maintenance slots. -/
  | lmPatrolScrub (n : Fin 12) (found : CodeWord)
  /-- LM_ROW_RETIRE_SWITCH (R54). A retired row's copy completes and the controller switches its mapping between two requests. -/
  | lmRowRetireSwitch (n : Fin 12)
  /-- SCRATCHPAD_BANK_CYCLE (R408). A scratchpad bank serves one port-A and one port-B access, dropping a colliding port-B write. -/
  | scratchpadBankCycle (sp : Fin 16) (bank : Fin 16) (a b : Option PortAccess)
  /-- SRAM_CORRECTED_WRITEBACK (R414). A corrected on-die word is written back in the bank's next free port-B cycle. -/
  | sramCorrectedWriteback (m : Fin 27)
  /-- SRAM_SCRUB (R416). Background scrub reads and checks the next on-die word. -/
  | sramScrub (m : Fin 27) (found : CodeWord)
  /-- TERMITE_WIPE_COMPLETE (R412). A Termite wipe's write and read-back pass ends, setting LMS_VAULT.FAIL on a failed word. -/
  | termiteWipeComplete (bad : Option (Fin 4096))
  /-- CROSSING_TRANSACTION_RECEIVE (R433). A receiving island checks and delivers a transaction from a crossing, correcting or dropping bad words. -/
  | crossingTransactionReceive (dst : Fin 34) (link : Fin 256) (t : Crossing)
  /-- CROSSING_CREDIT_RETURN (R430). A returned channel credit becomes usable at the sender. -/
  | crossingCreditReturn (src dst : Fin 34) (link : Fin 256) (ch : Fin 4)
  /-- XRST_N (R431). XRST_N low empties both link buffers and restores full credit counts. -/
  | xrstN (isl : Fin 34)
  /-- CROSSBAR_ARBITRATION (R423). A crossbar target port grants the waiting request with the highest QoS. -/
  | crossbarArbitration (isl : Fin 34) (t : PortTurn)
  /-- QOS_AGING_STEP (R423). A waiting best-effort request raises its QoS by 1 after FAB_CFG.AGE cycles. -/
  | qosAgingStep (isl : Fin 34) (port : Fin 64) (i : Nat)
  /-- FLOOR_GRANT (R424). A request below QoS 12 waiting FAB_CFG.FLOOR cycles wins the next arbitration. -/
  | floorGrant (isl : Fin 34) (t : PortTurn)
  /-- FABRIC_HOLDBACK_RELEASE (R428). An acknowledgement of a write or FENCE releases requests held back behind it. -/
  | fabricHoldbackRelease (isl : Fin 34) (tag : BitVec 12)
  /-- EVC_LEVEL_INPUT_CHANGE (R387). A level source's input asserts or deasserts and its pending state follows. -/
  | evcLevelInputChange (n : Fin 2048)
  /-- EVC_PULSE (R387). A hardware pulse makes an enabled pulse source pending. -/
  | evcPulse (n : Fin 2048)
  /-- EVC_PEND_SET (R387). A write sets PEND of pulse sources. -/
  | evcPendSet (w : Fin 64) (bits : Reg32)
  /-- EVC_PEND_CLR (R387). A write clears PEND of pulse sources. -/
  | evcPendClr (w : Fin 64) (bits : Reg32)
  /-- EVC_MASK_SET (R389). A write masks sources. -/
  | evcMaskSet (w : Fin 64) (bits : Reg32)
  /-- EVC_MASK_CLR (R389). A write unmasks sources. -/
  | evcMaskClr (w : Fin 64) (bits : Reg32)
  /-- EVC_PRESENTATION (R391). A target with a candidate is presented, sending MSI-X for the host target or waking a waiting context. -/
  | evcPresentation (t : Fin 18)
  /-- TGT_CLAIM (R392). A claim read returns the target's candidate, puts it in service and starts its group's hold-off. -/
  | tgtClaim (ag : Agent) (t : Fin 18)
  /-- TGT_COMPLETE (R388). A completion clears INSVC and re-samples a level input. -/
  | tgtComplete (ag : Agent) (t : Fin 18) (src : Fin 2048)
  /-- EVC_HOLDOFF_END (R398). A group's hold-off ends and its pending sources become presentable. -/
  | evcHoldoffEnd (g : Fin 128)
  /-- EVR_RECORD_OFFER (R440). Thaid offers a record, which is suppressed, dropped or stamped and buffered. -/
  | evrRecordOffer (r : RecordOffer)
  /-- EVR_TOKEN_REFILL (R439). A code's bucket gains one token after its refill interval. -/
  | evrTokenRefill (code : BitVec 16)
  /-- EVR_RECORD_PROGRAMMED (R441). The flush engine finishes programming the oldest buffered record into flash. -/
  | evrRecordProgrammed
  /-- EVR_CTRL_FLUSH (R441). A write of EVR_CTRL.FLUSH starts a flush pass. -/
  | evrCtrlFlush (ag : Agent)
  /-- OPT_TICK (R438). The operating-time count increments every 1/4096 hour. -/
  | optTick
  /-- EVR_PERSIST_COUNTS (R438). After every 256 OPT units the persistent counts are written to flash. -/
  | evrPersistCounts
  /-- POWER_FAIL_WARNING (R451). Input below 8.5 V or falling too fast closes admission, starts the flush and begins the grace. -/
  | powerFailWarning (mv : BitVec 16) (slope : Bool)
  /-- GRACE_EXPIRY (R451). At GRACE_US sequencers and pipes stop, no entries are written and the core rails go off. -/
  | graceExpiry
  /-- INPUT_RECOVERY (R452). The input returns to 9.5 V while MG is powered and a warm reset follows the flush. -/
  | inputRecovery (mv : BitVec 16)
  /-- PWR_MEASUREMENT (R450). Every 10 µs the PWR block measures input and raises the throttle level when power exceeds P(V). -/
  | pwrMeasurement (m : Measurement)
  /-- THROTTLE_LOWER (R450). After 100 µs below 95 % of P(V) the throttle level drops by 1. -/
  | throttleLower
  /-- GUARANTEE_FLOOR_CROSSING (R187). The guarantee floor is crossed and GOPEN is cleared with CLOSE_CAUSE 2. -/
  | guaranteeFloorCrossing
  /-- THERMAL_TRIP (R460). A sensor reaches its trip point and the core rails go off within 1 ms. -/
  | thermalTrip (sensor : TempSensor) (tenths : BitVec 32)
  /-- TAMPER (R465). A tamper source fires; wipes start, admission closes, jobs are voided and the module is LOCKED. -/
  | tamper (src : Fin 4)
  /-- PWR_HB_BEAT (R455). Thaid writes the heartbeat bit. -/
  | pwrHbBeat
  /-- HEARTBEAT_LOST (R455). Three missed heartbeats restart the management core and write HEARTBEAT_LOST. -/
  | heartbeatLost
  /-- FW_IMAGE_FALLBACK (R454). The active image fails its check or first heartbeat within 500 ms and the other image boots. -/
  | fwImageFallback
  /-- COLD_RESET (R456). MG power-up or a cold sideband reset resets everything and bring-up runs from the start. -/
  | coldReset (mgLost : Option (BitVec 16))
  /-- WARM_RESET (R456). All core islands, functions and vault slots are reset and bring-up runs from the core rails. -/
  | warmReset
  /-- ISLAND_RESET (R456). PWR_ISL_CTRL.RST isolates and resets the selected island. -/
  | islandReset (isl : Fin 34)
  /-- SEQUENCER_RESET (R456). Thaid resets a LOCKED sequencer, completing its in-service EVC sources. -/
  | sequencerReset (q : Fin 16)
  /-- PIPE_RESET (R456). Thaid resets a pipe, ending its table's streams with ABORTED and making updated directories SUSPECT. -/
  | pipeReset (p : Fin 8)
  /-- ISLAND_STATE_REQUEST (R459). PWR_ISL_CTRL.REQ moves an island to another sleep state if permitted. -/
  | islandStateRequest (isl : Fin 34) (st : IslState)
  /-- ISLAND_WAKE_COMPLETE (R458). An island finishes waking to RUN, with the epoch check of retained domains. -/
  | islandWakeComplete (isl : Fin 34)
  /-- PAGE_ENABLE (R476). Writing EN 0 to 1 runs the consistency check and activates the staging copies. -/
  | pageEnable (ag : Agent) (pg : PageId)
  /-- PAGE_DISABLE (R476). Writing EN 1 to 0 makes the block stop at its next safe point. -/
  | pageDisable (ag : Agent) (pg : PageId)
  /-- BLOCK_STOP (R476). A disabled block reaches its safe point and EN reads 0. -/
  | blockStop (pg : PageId)
  /-- PAGE_COMMIT (R477). A COMMIT write samples the staging copies and runs the check. -/
  | pageCommit (ag : Agent) (pg : PageId)
  /-- COMMIT_APPLY (R477). Checked staged values are applied together at the block's safe point and COMMIT clears. -/
  | commitApply (pg : PageId)
  /-- PAGE_SOFT_RESET (R481). SRST copies active values to staging copies and clears status fields. -/
  | pageSoftReset (ag : Agent) (pg : PageId)
  /-- QUIESCE_SET (R482). Setting QUIESCE makes the block hold at its next safe point. -/
  | quiesceSet (ag : Agent) (pg : PageId)
  /-- QUIESCE_CLEAR (R482). Clearing QUIESCE resumes the block. -/
  | quiesceClear (ag : Agent) (pg : PageId)
  /-- PG_IRQ_SET (R472). A write sets page interrupt pending bits. -/
  | pgIrqSet (ag : Agent) (pg : PageId) (bits : Reg32)
  /-- PG_IRQ_CLR (R472). A write clears page interrupt pending bits. -/
  | pgIrqClr (ag : Agent) (pg : PageId) (bits : Reg32)
  /-- PG_IRQ_MSK_SET (R472). A write masks page interrupt conditions. -/
  | pgIrqMskSet (ag : Agent) (pg : PageId) (bits : Reg32)
  /-- PG_IRQ_MSK_CLR (R472). A write unmasks page interrupt conditions. -/
  | pgIrqMskClr (ag : Agent) (pg : PageId) (bits : Reg32)
  /-- LO_REGISTER_READ (R471). A read of the LO half of a pair latches the HI half for that agent. -/
  | loRegisterRead (ag : Agent) (t : ReadTarget)
  /-- DAU_OPEN_WRITE (R461). A write of GOPEN or BOPEN opens admission or is refused by the lifecycle state. -/
  | dauOpenWrite (ag : Agent) (g b : Bool)
  /-- REGISTER_WRITE (R473). A write to any other register field takes effect by its access type. -/
  | registerWrite (ag : Agent) (t : RegTarget) (value : Reg32)
  /-- ILLEGAL_INSTRUCTION (R238). A bundle holding a reserved slot, opcode or field, or breaking the bundle rules, raises Illegal Instruction precisely at issue. -/
  | illegalInstruction (q : Fin 16) (words : List Reg32)
  /-- LM_TRAINING_COMPLETE (R453). LM training ends during bring-up and LMC_STAT.TRAINED and GLB_STATE.LMOK become 1. -/
  | lmTrainingComplete
  /-- CORE_RAILS_GOOD (R453). The core rails finish sequencing, PWR_STAT.CORE becomes 1, the core islands leave reset and CLKREQ# is driven low. -/
  | coreRailsGood
  /-- LM_STACK_TEMP_CHANGE (R37). A stack temperature crosses 85 °C, so refresh switches to twice the normal rate, LMC_STAT.THERM changes and an LM_THERM record is offered. -/
  | lmStackTempChange (n : Fin 12) (tenths : BitVec 16)
  /-- MG_POWER_LOSS (R442). Hold-up energy runs out and the MG island loses power, losing buffered records, the vault and the volatile state. -/
  | mgPowerLoss
  /-- HOST_LINK_L0_ENTRY (R397). The host link returns to L0 or L0p, from ASPM L1 or after retraining, and still-presentable EVC sources send their MSI-X messages. -/
  | hostLinkL0Entry
  /-- IDE_KM_REQUEST (R360). An IDE_KM message in an SPDM secured session programs or starts an IDE stream's keys, making the stream Secure. -/
  | ideKmRequest (session : Nat) (stream : Fin 9) (start : Bool)
  /-- DOE_DISCOVERY (R359). A DOE Discovery request on the PF's DOE mailbox returns the supported data-object types. -/
  | doeDiscovery (index : BitVec 8)
  /-- HOST_DMA_COMPLETE (R377). A MEM_COPY, MEM_FILL or PROGRAM_LOAD copy in the host DMA finishes and its completion is posted. -/
  | hostDmaComplete
  /-- LM_ROW_RETIRE_START (R54). Firmware starts retiring a row, using post-package repair or a spare row, and the controller begins the copy with writes going to both rows. -/
  | lmRowRetireStart (n : Fin 12) (pc : Fin 32) (bank : Fin 48) (row : Nat)
  /-- SRAM_REDUNDANCY_REMAP (R419). Firmware remaps SRAM redundancy, a repair action that increments the global epoch. -/
  | sramRedundancyRemap (m : Fin 27)
  /-- J9_DEBUG_ACCESS (R489). An IEEE 1149.1 access through J9 reaches the fabric at QoS 0 when the lifecycle state enables J9, and is ignored otherwise. -/
  | j9DebugAccess (a : BarAccess)
  /-- SENSE_CONTACT_CHANGE (R488). SENSE_P or SENSE_N makes or breaks; the inrush limiter is allowed to start or voltage measurement moves inside the module. -/
  | senseContactChange (p n : Bool)
  deriving DecidableEq, Repr

end Sys2Proof
end

