-- ==== Sys2Proof/Decode.lean ====
section
/-! DEFINITION. The decoder of table words. spec/opcode_table.json gives none of its rows bits, so no word
spells a command. The syllables of a bundle are decoded in Machine/Syllables.lean and checked in Machine/Encoding.lean, from the words that
ILLEGAL_INSTRUCTION carries. -/

namespace Sys2Proof

/-- The command a word of the table spells: none, because no row of the table has bits. -/
def decodeTableWord (_nbits _w : Nat) : Option Instr := none

end Sys2Proof
end

