-- ==== Sys2Proof/Config.lean ====
section
/-! DEFINITION. What one module of silicon fixes and the manual does not state, and the free values: values
the manual leaves open after an operation that goes on. Every one is an opaque constant, so no proof can see
a value of it. -/

namespace Sys2Proof.Config

/-- The module serial number held in fuses (R484, GLB_SERIAL). Log entry 7. -/
opaque serial : Word

/-- The value the MG entropy source gives the global epoch at a cold reset (R419), by the running count of
free values (the field free of the state). Log entry 9. -/
opaque entropy : Nat → Word

/-- A byte the manual calls undefined (R47, R375, R503): the count of free values taken so far and the
position of the byte. Log entry 10. -/
opaque freeByte : Nat → Nat → Byte

/-- A measured time that the manual bounds and does not give (R176, R307), by the running count of free values.
Log entry 22. -/
opaque freeTime : Nat → Nat

/-- The Q-cycles that a sequencer stalls before a bundle, beyond one for each time that the bundle was held (R180, R279), by
the sequencer and the number of the bundle. Log entry 66. -/
opaque stallTime : Nat → Nat → Nat

/-- The words, less one and modulo 11, of a skipped bundle that cannot be read (R260), by the running count of free values.
Log entry 141. -/
opaque skippedWords : Nat → Nat

/-- A number that chooses an order the manual leaves open (R151 VAR 5), by the running count of free values.
Log entry 11. -/
opaque freeOrder : Nat → Nat

/-- The Vendor ID of the module's functions, which its capability of R468 repeats: the manual gives none. Log entry 147. -/
opaque vendorId : BitVec 16

/-- Where the extended capability behind the one of R468 lies in the configuration space: the manual gives no layout. Log entry 147. -/
opaque nextCapability : BitVec 12

/-- The running Thaid version below MAJOR: MINOR in the upper 8 bits and BUILD in the lower 15 (R484), set
by the image. Log entry 7. -/
opaque firmwareBuild : BitVec 23

/-- The certificate chain, digests, measurements, signatures and keys of the SPDM responder (R359), by the
kind of response. The manual names the algorithms and leaves their values to the provisioned keys.
Log entry 12. -/
opaque spdmPayload : Nat → BitVec 384

/-- Whether the authorisation signature of a lifecycle request verifies under the key of R462: ECDSA P-384
over an object the manual does not lay out. Log entry 13. -/
opaque signatureValid : BitVec 768 → Nat → Bool

/-- The available power P(V) in mW at an input in mV below 9 V (R449), where the manual gives bounds and no point of the
curve. Log entry 23. -/
opaque powerBelow : Nat → Nat

/-- The rows that a stack's post-package repair resources cover (R54): the manual names JESD238 for them and gives no
number. Log entry 26. -/
opaque repairRows : Nat

/-- The eighth-slots of a frame that refresh takes of a pseudo-channel's maintenance slots (R33, R37), by whether the stack needs
twice the normal rate. Log entry 48. -/
opaque refreshSlots : Bool → Nat

/-- Whether a register-form DAGG with IMIN or IMAX reads operand b as i64 (R151, R233): the syllable's TYPE holds the
key type, and nothing in it holds the type of b. Log entry 20. -/
opaque daggSigned : Bool

end Sys2Proof.Config
end

