-- ==== Sys2Proof/Machine/State.lean ====
section
/-! DEFINITION. The state of the LX7300 block as plain data: everything the manual gives the module, and the
queue of waiting commands. INVENTORY.md lists each field with its rule and its reset value. -/

namespace Sys2Proof.Machine

/-- Why a step stops with a fault. Every one is the surroundings breaking a requirement that this manual puts
on them, after which the module's behaviour is not defined (R3). -/
inductive Fault where
  /-- Raised by PWR_MEASUREMENT: the input lies above 60 V while the core rails are up, which R448 forbids the system;
  after that the module's behaviour is not defined (R3). Safe. -/
  | surroundingsInput
  deriving DecidableEq, Repr

/-- Why a step refuses a command. -/
inductive Refusal where
  /-- Raised by a dispatch arm whose command has no meaning yet. Safe. -/
  | notModelled (mnemonic : String)
  deriving DecidableEq, Repr

/-- A sparse array: keys strictly rising, no entry equal to the array's default. -/
abbrev Table (α : Type) := List (Nat × α)

/-- A value with a staging copy and an active copy (R473, R475), and the sample of a commit in progress (R477). -/
structure Staged (α : Type) where
  stage : α
  active : α
  sampled : Option α
  deriving DecidableEq, Repr

/-- What the module sends out: onto the host link, the DOE mailbox, a crossing or J9. Log entry 5. -/
inductive Msg where
  /-- An MSI-X message of a function on a vector (R368, R397). -/
  | msix (f : Fin 64) (vec : Nat)
  /-- A completion with data to a host read, with its poison (R354). -/
  | data (bytes : List Byte) (poisoned : Bool)
  /-- A completion with Unsupported Request (R352). -/
  | unsupported
  /-- A completion with Configuration Request Retry Status (R361, R362). -/
  | retryStatus
  /-- The value a register read returned to its agent (R471). -/
  | reg (ag : Agent) (value : Reg32)
  /-- An SPDM or DOE response: its request kind, a small field and the payload. -/
  | spdm (kind : Nat) (field : Nat) (payload : BitVec 384)
  /-- An SPDM error response. -/
  | spdmError (code : Nat)
  /-- The 32-byte completion entry carried in a DOE response (R378). -/
  | doeCompletion (entry : BitVec 256)
  /-- A response on a crossing to an island: its tag, the status of R433, whether its data is poisoned, and data. -/
  | rsp (isl : Fin 34) (tag : BitVec 12) (rstat : Fin 4) (poisoned : Bool) (bytes : List Byte)
  /-- An error returned to Thaid. -/
  | fwError
  deriving DecidableEq, Repr

/-- The common header of a register page (R472). -/
structure Hdr where
  en : Bool
  quiesce : Bool
  /-- The block holds at its safe point under QUIESCE (R482). -/
  held : Bool
  /-- EN := 0 was written and the block has not stopped (R476). -/
  stopping : Bool
  /-- A commit is between steps 1 and 4 of R477. -/
  commit : Bool
  refused : Bool
  reason : Byte
  stale : Bool
  wrsv : Bool
  wwb : Bool
  refDetail : Byte
  refOffset : BitVec 12
  refReason : Byte
  /-- The epoch of the last reset, or the stored epoch of a retention domain (R420): all 64 bits. -/
  epoch : Word
  pend : Reg32
  msk : Reg32
  errcnt : Reg32
  deriving DecidableEq, Repr

/-- GLB page and the readiness points (R361, R484). -/
structure Glb where
  fwver : Reg32
  ready : Bool
  fmenum : Bool
  qual : Bool
  warm : BitVec 16
  last : BitVec 3
  refType : BitVec 16
  refInst : Byte
  refReason : Byte
  refcnt : Reg32
  scratch0 : Reg32
  scratch1 : Reg32
  deriving DecidableEq, Repr

/-- An island's sleep state (R458), its REQ field, whether it is held in reset, and whether it is waking. -/
structure Island where
  st : IslState
  req : IslState
  inrst : Bool
  waking : Bool
  deriving DecidableEq, Repr

/-- PWR_CFG (R469). -/
structure PwrCfg where
  grace : Byte
  slope : Byte
  deriving DecidableEq, Repr

/-- The PWR block, the lifecycle, tamper and reset state of the MG island (17), and the sideband pins (19). -/
structure Pwr where
  mv : BitVec 16
  iin : BitVec 16
  w : BitVec 12
  cfg : Staged PwrCfg
  locked : Bool
  trip : Bool
  floor : Bool
  pfw : Bool
  holdup : Bool
  core : Bool
  auxok : Bool
  lc : Fin 5
  diagUsed : BitVec 4
  /-- A lifecycle transition that waits for the completion entries of R463 step 2: the state asked for. -/
  lcPend : Option (Fin 5)
  /-- The fuses of a transition are programmed and its wipe runs (R463 step 4): the old state. -/
  lcWipe : Option (Fin 5)
  /-- Tamper has fired and the islands wait for the voided jobs' entries (R465). -/
  tamperPend : Bool
  tamper : BitVec 4
  /-- Tamper sources whose record waits for the vault wipe (R465). -/
  tamperDue : BitVec 4
  jmax : BitVec 16
  /-- Hottest stack sensor (R460). -/
  smax : BitVec 16
  cplate : BitVec 16
  /-- Thaid has written PWR_HB.BEAT since it last started, and the TICK of its last write (R455, R468). -/
  beat : Bool
  beatTick : Reg32
  /-- The rails are off after a thermal trip and wait for every sensor to cool (R460). -/
  tripHold : Bool
  /-- The throttle withholds guaranteed cycles (R187, R450). -/
  withhold : Bool
  islSel : BitVec 6
  islands : Vector Island 34
  level : BitVec 4
  senseP : Bool
  senseN : Bool
  /-- The inrush limiter has been allowed to start (R488). -/
  inrush : Bool
  /-- PERST# is asserted. -/
  perst : Bool
  /-- CLKREQ# is driven low (R490, R491). -/
  clkreq : Bool
  /-- PRSNT_XP# bit p = 1: an expander is present at port p. -/
  prsntXp : BitVec 6
  /-- PERST_XP# bit p = 1: driven low by Thaid (R491). -/
  perstXp : BitVec 6
  /-- The flash image marked active, 0 or 1, the image that boots or runs, and which images have failed at this boot (R454). -/
  active : Bool
  image : Bool
  badImages : BitVec 2
  /-- Thaid runs; it has set its first heartbeat. -/
  fwUp : Bool
  fwFirst : Bool
  /-- The grace of a power-fail warning runs (R451). -/
  grace : Bool
  /-- The sequencers and pipes have stopped after a grace (R451). -/
  stopped : Bool
  /-- A reset waits for the flush pass to end (R452, R466): whether it is cold, and whether management commanded it. -/
  resetPend : Option (Bool × Bool)
  /-- The MG island is powered. -/
  powered : Bool
  /-- The global epoch (R419). -/
  epoch : Word
  deriving DecidableEq, Repr

/-- One copy of the persistent counts in flash (R438). -/
structure Persist where
  valid : Bool
  pcc : BitVec 24
  opt : BitVec 40
  dropped : Reg32
  deriving DecidableEq, Repr

/-- The token bucket and the suppressed count of one event code (R439, R440). -/
structure CodeState where
  /-- Tokens taken below the full 16. -/
  missing : Nat
  /-- TICK at which the bucket last fell below 16, or gained its last token since. -/
  base : Reg32
  supcnt : BitVec 16
  supsat : Bool
  deriving DecidableEq, Repr

/-- The event recorder (16). Records are 32 bytes, oldest first. -/
structure Evr where
  log : List (BitVec 256)
  buf : List (BitVec 256)
  flushing : Bool
  rate : Staged Byte
  dropped : Reg32
  pcc : BitVec 24
  opt : BitVec 40
  tick : Reg32
  supp : Reg32
  copy0 : Persist
  copy1 : Persist
  /-- The copy written last. -/
  newer : Bool
  /-- OPT units since the counts were last written. -/
  optSince : Nat
  codes : Table CodeState
  /-- A drop has occurred since the last clear (R444). -/
  dropSeen : Bool
  /-- Code and severity of the last FAULT or CRITICAL record (R468 CRASH_CODE). -/
  crashCode : BitVec 16
  crashSev : BitVec 4
  deriving DecidableEq, Repr

/-- The staged fields of EVC_SRCn (R403). -/
structure SrcCfg where
  vec : BitVec 11
  en : Bool
  cls : BitVec 5
  tgt : BitVec 5
  prio : BitVec 4
  deriving DecidableEq, Repr

/-- The state bits of an EVC source (R387), its input level, and whether its MSI-X message went out (R397). -/
structure SrcState where
  pend : Bool
  mask : Bool
  insvc : Option (Fin 18)
  input : Bool
  sent : Bool
  deriving DecidableEq, Repr

/-- A group's hold-off (R398). -/
structure Grp where
  holdoff : BitVec 16
  hact : Bool
  deriving DecidableEq, Repr

/-- The event concentrator (14). -/
structure Evc where
  cfg : Staged (Table SrcCfg)
  src : Table SrcState
  grp : Table Grp
  spur : Vector Reg32 18
  /-- Pulses held at the crossing while the AS island is not in RUN (R401). -/
  held : List (Fin 2048)
  /-- Bit t: target t is presented. -/
  presented : BitVec 18
  deriving DecidableEq, Repr

/-- The HLK_FN range fields of a VF (R381). -/
structure FnRange where
  lmBase : BitVec 10
  lmSize : BitVec 10
  fmBase : BitVec 18
  fmSize : BitVec 18
  deriving DecidableEq, Repr

/-- The staged fields of the HLK page. -/
structure HlkCfg where
  aper : BitVec 57
  ranges : Table FnRange
  deriving DecidableEq, Repr

/-- An MSI-X vector: mask and pending bit (R368). -/
structure VecState where
  mask : Bool
  pend : Bool
  addr : BitVec 64
  data : Reg32
  deriving DecidableEq, Repr

/-- Device Control and Device Control 2 of a function, as far as the manual names their fields (R350 to R352). -/
structure DevCtl where
  mps : BitVec 3
  mrrs : BitVec 3
  cto : BitVec 4
  deriving DecidableEq, Repr

/-- An SPDM session: its number and whether FINISH has completed (R359). -/
structure Session where
  id : Nat
  done : Bool
  deriving DecidableEq, Repr

/-- A KEY_INSTALL that a DOE request carried and that waits for the wipe of a slot, as RunKind.erase does in a queue. -/
structure DoeWait where
  entry : Entry1024
  slot : Fin 4096
  refused : Bool
  deriving DecidableEq, Repr

/-- The host link, the functions and security (13). -/
structure Hl where
  up : Bool
  flit : Bool
  speed : BitVec 3
  width : BitVec 5
  /-- LTSSM has been released from Detect (R361). -/
  training : Bool
  /-- The link is in L0 or L0p. -/
  l0 : Bool
  cfg : Staged HlkCfg
  /-- log2 of the BAR4 size in GiB (R353). -/
  bar4 : Fin 7
  vfe : Bool
  numvf : BitVec 6
  /-- Bit f: Memory Space Enable of function f. -/
  mse : BitVec 64
  /-- Bit f: function f is in D3hot (R350). -/
  d3 : BitVec 64
  /-- Max payload and max read request size codes, and completion timeout ranges, by function (R350 to R352). -/
  devs : Table DevCtl
  /-- ASPM L1 is enabled (R350). -/
  aspm : Bool
  /-- What the selective IDE streams select (R360). -/
  ideSel : Vector IdeSelect 8
  /-- Functions whose FLR waits for their jobs to end (R362), and whether queue memory is kept (R363). -/
  flr : List (Fin 64 × Bool)
  /-- Bit f: function f was reset by a host-link loss and its queue memory is kept (R363). -/
  kept : BitVec 64
  fnSel : BitVec 6
  errCnt : Reg32
  ctoCnt : Reg32
  /-- Bit i: IDE stream i Secure; 8 is the link stream (R360). -/
  ide : BitVec 9
  /-- Bit i: keys of IDE stream i are programmed. -/
  ideKeyed : BitVec 9
  msix : Table VecState
  /-- AER's uncorrectable error status (R352): bits 12, 14 and 20 for a poisoned TLP, a completion timeout and an unsupported request. -/
  aer : BitVec 32
  /-- KEY_INSTALLs of secured sessions that wait for a wipe (R378, R413). -/
  doe : List DoeWait
  spdmVersion : Bool
  spdmCaps : Bool
  spdmAlgs : Bool
  sessions : List Session
  /-- The next session number to be given. -/
  nextSession : Nat
  deriving DecidableEq, Repr

/-- The state of a queue pair (R383). -/
inductive QpState where
  | off | active | draining | err
  deriving DecidableEq, Repr

/-- A queue pair (R364, R379, R383). -/
structure Qp where
  en : Bool
  st : QpState
  sqm1 : BitVec 16
  cqm1 : BitVec 16
  ien : Bool
  sqloc : Bool
  cqloc : Bool
  iv : BitVec 11
  sqBase : BitVec 56
  cqBase : BitVec 56
  sqhd : Nat
  sqtail : Nat
  /-- Entries between head and tail. -/
  sqPend : Nat
  cqtail : Nat
  cqhead : Nat
  /-- Completion entries written and not consumed. -/
  cqUsed : Nat
  phase : Bool
  /-- Entries fetched and outstanding (R379). -/
  outst : Nat
  /-- A DRAINING pair that came from ERROR: completions are discarded (R366, R379). -/
  discard : Bool
  reason : Byte
  deriving DecidableEq, Repr

/-- A fetched submission entry that the RQE has not yet passed on (R366, R367). -/
structure InEntry where
  q : Fin 4096
  entry : Entry1024
  /-- Every TLP that carried a byte of it came in a Secure IDE stream (R378). -/
  prot : Bool
  deriving DecidableEq, Repr

/-- A completion that waits to be written (R370). -/
structure Compl where
  q : Fin 4096
  cid : BitVec 16
  res0 : Word
  res1 : Word
  cause : BitVec 16
  status : Byte
  detail : Byte
  ovr : Bool
  late : Bool
  /-- It completes a configuration command (R367). -/
  cfg : Bool
  /-- It completes an accepted job: the context. -/
  ctx : Option Nat
  deriving DecidableEq, Repr

/-- A move of the host DMA (R375): the source, or none for a fill with a pattern, the destination and the length. -/
structure DmaJob where
  src : Option Nat
  pattern : Word
  dst : Nat
  len : Nat
  /-- GAs at which a request of the move was answered with an error (R16, R30, R42). -/
  lost : List Nat
  deriving DecidableEq, Repr

/-- What a command that runs on after its entry was taken is waiting for. -/
inductive RunKind where
  /-- A host DMA copy or fill (R375). -/
  | dma (j : DmaJob)
  /-- PROGRAM_LOAD's copy: the program to record. -/
  | load (entry tsbp edtb : Word) (desc : Desc256) (j : DmaJob)
  /-- DIR_CREATE's zero-fill of a handle. -/
  | fill (h : Fin 1024)
  /-- JOB_CANCEL waiting for its target context. -/
  | cancel (ctx : Nat)
  /-- JOB_CANCEL waiting for the DAU to decide on the jobs it names, so many of a queue and a CID (R22). -/
  | cancelDue (q : Fin 4096) (cid : BitVec 16) (n : Nat)
  /-- KEY_INSTALL waiting for the wipe of a slot: ERASE, or an install that the wipe refuses (R413). -/
  | erase (slot : Fin 4096) (refused : Bool)
  deriving DecidableEq, Repr

/-- A command other than a job that is still running. -/
structure Running where
  q : Fin 4096
  cid : BitVec 16
  cfg : Bool
  kind : RunKind
  deriving DecidableEq, Repr

/-- The RQE (R364 to R379, R383). -/
structure Rqe where
  qps : Table Qp
  /-- Queue number from which the round robin seeks its next turn (R20). -/
  rr : Nat
  inbox : List InEntry
  running : List Running
  compl : List Compl
  /-- Queue-memory offsets last written by a protected TLP (R378). -/
  prot : Table Bool
  deriving DecidableEq, Repr

/-- The staged fields of the DAU page (R190). -/
structure DauCfg where
  setup : Byte
  band : BitVec 3
  caps : Vector (BitVec 18) 11
  deriving DecidableEq, Repr

/-- The DAU (06). -/
structure Dau where
  cfg : Staged DauCfg
  gopen : Bool
  bopen : Bool
  cause : BitVec 3
  bcause : BitVec 3
  slot : BitVec 20
  acc : Reg32
  ref : Reg32
  ovr : Reg32
  void : Reg32
  lastQueue : BitVec 12
  lastDetail : Byte
  lastCode : Byte
  decMax : Byte
  /-- Meter reports of contexts whose credits the tree's second port has not applied (R178). -/
  credits : List Nat
  /-- Jobs accepted so far, for the order of acceptance. -/
  order : Nat
  deriving DecidableEq, Repr

/-- The CSC (11). -/
structure Csc where
  beSlice : Staged (BitVec 16)
  sel : BitVec 4
  /-- Best-effort READY and RUN contexts, in FIFO order (R311). -/
  fifo : List Nat
  /-- Guaranteed READY and RUN contexts in the order they entered the calendar (R311). -/
  cal : List Nat
  /-- Save areas reserved under R305. -/
  poolRsv : Nat
  switches : Word
  loads : Reg32
  evicts : Reg32
  demotes : Reg32
  xferMax : BitVec 12
  irqWake : Reg32
  deriving DecidableEq, Repr

/-- A context's STAT register (R331). -/
structure Stat where
  esc : Bool
  ld : BitVec 3
  wt : Bool
  wres : BitVec 3
  cwp : BitVec 3
  ct : Bool
  gm : Bool
  pl : BitVec 2
  deriving DecidableEq, Repr

/-- A physical register window with its hidden fields (R263). -/
structure Win where
  w : Vector Word 16
  rpc : Word
  rmask : BitVec 16
  rld : BitVec 3
  deriving DecidableEq, Repr

/-- The lower half of a context's registers (R270, R303). -/
structure Lower where
  g : Vector Word 16
  wins : Vector Win 8
  segs : Vector Desc256 16
  stat : Stat
  vl : BitVec 11
  vstart : BitVec 11
  fcsr : Reg32
  wsp : Word
  lps : Vector Word 4
  lpe : Vector Word 4
  lpc : Vector Word 4
  deriving DecidableEq, Repr

/-- The upper half: v0 to v31, k1 to k7 (entry 0 stands for k0 and is not read) and the vector fix-up list
(R212, R271, R304). -/
structure Upper where
  v : Vector (BitVec 8192) 32
  k : Vector (BitVec 1024) 8
  fix : Vector (BitVec 128) 64
  deriving DecidableEq, Repr

/-- A ticket slot (R73, R297), and the end notice that STWAIT reports from (R503). -/
structure Ticket where
  out : Bool
  done : Bool
  gen : BitVec 12
  pipe : BitVec 3
  entry : BitVec 6
  /-- WCOUNT, FSTAT and FADDR of the notice. -/
  wcount : BitVec 41
  fstat : Word
  faddr : BitVec 57
  /-- FCSR[14:10] as STRM copied it (R74). -/
  traps : BitVec 5
  deriving DecidableEq, Repr

/-- The state of a context (R296). -/
inductive CtxState where
  | free | wait | ready | run | ending
  deriving DecidableEq, Repr

/-- A cursor record (R297), with the saved halves in place of LHEAD and UHEAD, and the demand that the DAU
holds for the job (R174). -/
structure Ctx where
  st : CtxState
  be : Bool
  res : Bool
  started : Bool
  novec : Bool
  pre : Bool
  late : Bool
  ovr : Bool
  void : Bool
  cancel : Bool
  waiton : BitVec 4
  seq : Fin 16
  bank : Fin 8
  aff : BitVec 2
  affseq : Fin 16
  wslot : Fin 16
  queue : Fin 4096
  cid : BitVec 16
  func : Fin 64
  dlslot : BitVec 20
  arrslot : BitVec 20
  relslot : BitVec 20
  prog : BitVec 16
  depth : BitVec 3
  budget : Vector Reg32 11
  meter : Vector Word 11
  vcause : BitVec 16
  lower : Option Lower
  upper : Option Upper
  /-- Save areas of the pool that hold the saved halves, in the order of their list (R302): LHEAD and UHEAD name the first. -/
  lareas : List Nat
  uareas : List Nat
  pc : Word
  tsbp : Word
  edtb : Word
  shadow : BitVec 8
  fdepth : BitVec 3
  maskq : Reg32
  defer : Bool
  fppend : Bool
  bopend : Bool
  deferGa : BitVec 57
  /-- DIR[0] to DIR[7], none where the valid bit is 0. -/
  dirSlots : Vector (Option (Fin 1024)) 8
  initseg : Vector Desc256 16
  tickets : Vector Ticket 16
  /-- rem(j, c) of R174, the effective deadline slot e(j), and whether the demand stands. -/
  rem : Vector Nat 11
  eff : BitVec 20
  held : Bool
  /-- Lowest class that overran, 0xF none (R373). -/
  ovrClass : BitVec 4
  /-- Save areas reserved for the context (R305). -/
  need : Nat
  /-- No completion entry is written (R362, R363). -/
  silent : Bool
  /-- The context must end: cancelled, or its job failed; it issues nothing more (R320). -/
  dying : Bool
  /-- The pending FP Imprecise comes from a stream (R77). -/
  fpStream : Bool
  /-- An FP trap was raised and its condition has not been false since (R215). -/
  fpRaised : Bool
  /-- Event source held by frames 0 to 3 and by the escalation frame, and the target that claimed it (R393, R394). -/
  frameSrc : Vector (Option (Fin 2048 × Fin 18)) 5
  /-- The frame was taken for one of items 2 to 4 of R343. -/
  frameItem : Vector Bool 5
  /-- Privilege shadow of the escalation frame (R344). -/
  escShadow : BitVec 2
  /-- The bank entry of its last load is charged, and it has not run since (R180). -/
  fresh : Bool
  /-- The job's number in order of acceptance (R374). -/
  order : Nat
  /-- The guarantee floor was crossed while the job was guaranteed and had not ended (R167, R187). -/
  floor : Bool
  /-- A preempting switch away from the running context is decided on and waits (R309). -/
  leaving : Bool
  deriving DecidableEq, Repr

/-- The directories that a context names. -/
def Ctx.dirs (x : Ctx) : List (Fin 1024) := x.dirSlots.toList.filterMap id

/-- A line of an instruction-buffer partition (R289): most recently used first in its list. -/
structure IbLine where
  ga : BitVec 57
  data : BitVec 512
  failed : Bool
  /-- The sector that failed (R280). -/
  bad : BitVec 57
  /-- An executed bundle has used it in this bank load (R290). -/
  used : Bool
  deriving DecidableEq, Repr

/-- A bank: one context's registers (R299). -/
structure Bank where
  occ : Option Nat
  lo : Lower
  up : Upper
  pc : Word
  tsbp : Word
  edtb : Word
  ibuf : List IbLine
  /-- Branch GA and predicted target, most recently used first (R291). -/
  btb : List (Nat × Nat)
  deriving DecidableEq, Repr

/-- A slot of the bundle (R221). -/
inductive Slot where
  | i | m | b | f | s
  deriving DecidableEq, Repr

/-- A store-buffer entry (R251, R285). -/
structure SbEntry where
  ctx : Nat
  ga : Nat
  bytes : List Byte
  /-- Sent to memory and not acknowledged. -/
  sent : Bool
  /-- COLLIDED answers so far (R287). -/
  coll : Nat
  /-- The entry after it belongs to the same split store (R249). -/
  pair : Bool
  /-- ESC at the store's issue: it opens the escalation area of the own scratchpad (R330). -/
  esc : Bool
  /-- It goes to a segment with SE: it is performed in program order (R250). -/
  se : Bool
  /-- Number of its bundle among those its sequencer has issued (MODEL). -/
  stamp : Nat
  deriving DecidableEq, Repr

/-- What a long load fills. -/
inductive LoadDest where
  /-- An integer register: bytes, and sign extension. -/
  | int (rd : Fin 32) (z : Nat) (signed : Bool)
  /-- An f register of 64 or 32 bits. -/
  | fp (rd : Fin 32) (z : Nat)
  /-- A segment register, checked against the privilege of its issue. -/
  | seg (n : Fin 16)
  /-- The g registers of a mask (RET, R265). -/
  | mask (m : BitVec 16)
  deriving DecidableEq, Repr

/-- The operation in the multiply-divide unit (R194). -/
structure MulDiv where
  bank : Fin 8
  rd : Fin 32
  value : Word
  idz : Bool
  /-- Passes or Q-cycles it takes (R192, R195). -/
  cycles : Nat
  /-- The window of issue, which its result goes to (R225). -/
  win : Fin 8
  /-- A RET of its bundle restores RD, so the result is not written (R265). -/
  drop : Bool
  /-- Number of its bundle among those its sequencer has issued (MODEL). -/
  stamp : Nat
  deriving DecidableEq, Repr

/-- An F-slot operation in the queue (R288): the results it writes when it completes. -/
structure FOp where
  bank : Fin 8
  pc : Word
  vd : Option (Fin 32 × BitVec 8192)
  kd : Option (Fin 8 × BitVec 1024)
  rd : Option (Fin 32 × Word)
  /-- IV DZ OF UF PE DN, as FCSR[5:0]. -/
  flags : BitVec 6
  fix : List (BitVec 128)
  /-- It processes elements, so it clears VSTART (R95). -/
  clears : Bool
  /-- P-cycles it takes the pipe. -/
  cycles : Nat
  /-- The window of issue, which its integer result goes to (R225). -/
  win : Fin 8
  /-- Number of its bundle among those its sequencer has issued (MODEL). -/
  stamp : Nat
  deriving DecidableEq, Repr

/-- A running transfer (R307): the bank, the context that comes in, the one that goes out. -/
structure Xfer where
  bank : Fin 8
  load : Nat
  evict : Option Nat
  /-- The one that goes out is preempted, as the CSC decided with the placement (R309). -/
  pre : Bool
  deriving DecidableEq, Repr

/-- A fault found in a syllable: its phase in the order of R238, and the frame's fields (R334, R348). -/
structure SFault where
  phase : Nat
  idx : Nat
  code : Byte
  sub : Byte
  faddr : BitVec 57
  deriving DecidableEq, Repr

/-- A write of a register at the end of a bundle. -/
inductive RegW where
  | int (rd : Fin 32) (v : Word)
  | seg (n : Fin 16) (d : Desc256)
  | ctl (cr : Fin 32) (v : Word)
  | freg (rd : Fin 32) (v : Word) (z : Nat)
  | idz
  deriving DecidableEq, Repr

/-- What a syllable does beside register writes when its bundle completes. -/
inductive Act where
  | load (ga len : Nat) (dest : LoadDest) (idx : Nat)
  /-- A store, and whether its segment has SE (R250). -/
  | store (ga : Nat) (bytes : List Byte) (se : Bool)
  | muldiv (rd : Fin 32) (v : Word) (idz : Bool) (cycles : Nat) (drop : Bool)
  | fop (vd : Option (Fin 32 × BitVec 8192)) (kd : Option (Fin 8 × BitVec 1024)) (rd : Option (Fin 32 × Word))
      (flags : BitVec 6) (fix : List (BitVec 128)) (clears : Bool) (cycles : Nat)
  /-- A branch: taken, target, and whether it closes loops (R262). -/
  | branch (taken : Bool) (target : Word) (closes : Bool)
  | loop (lpe count : Word)
  | call (mask : BitVec 16) (target : Word)
  /-- RET, with the g registers that it restores (R265). -/
  | ret (mask : BitVec 16)
  | spillw | fillw
  | savel (seg : Fin 16) (off : Word) | saveh (seg : Fin 16) (off : Word)
  | restl (seg : Fin 16) (off : Word) | resth (seg : Fin 16) (off : Word)
  | fsync
  | isync (ga len : Nat)
  | trap (code : BitVec 16)
  | brk | retx | jend
  | strm (rd : Fin 32) (seg : Fin 16) (off : Word)
  | stwait (rd : Fin 32) (ticket : Word) (test : Bool)
  | scatter (writes : List (Nat × List Byte))
  | gather (vd : Fin 32) (v : BitVec 8192)
  /-- VSTART after a register-form operation that faulted at this element (R99). -/
  | vstart (e : Nat)
  /-- Memory bytes charged to the classes of these addresses (R184). -/
  | bytes (gas : List Nat)
  /-- P-cycles charged to PCY (R135). -/
  | pcy (n : Nat)
  | dir (op : Nat) (imm : BitVec 16) (a : FArgs) (idx : Nat)
  /-- A read of scratchpad bytes: the registers it fills are usable one Q-cycle later (R281). -/
  | slow (regs : List Nat)
  /-- Reads that its bundle has made, of these ranges of GAs: their units are corrected where their code finds an error (R51, R414). -/
  | reads (ranges : List (Nat × Nat))
  deriving DecidableEq, Repr

/-- A decoded syllable of the bundle being formed, with what it will do. Log entry 14. -/
structure SyllOut where
  slot : Slot
  /-- Its place among the slots: I0 0, I1 1, M 2, B 3, F 4, S 5. -/
  rank : Nat
  words : Nat
  solo : Bool
  /-- Registers it writes, for R225: r, 32 + f or v, 64 + k, 80 + s, 100 + control register. -/
  dests : List Nat
  /-- A register or unit that it waits for was not ready, so its bundle does not issue (R281). -/
  hold : Bool
  /-- The wait is a partial overlap with the store buffer (R251). -/
  sbStall : Bool
  /-- The wait is for the store buffer to drain (R253, R293). -/
  drain : Bool
  faults : List SFault
  writes : List RegW
  acts : List Act
  deriving DecidableEq, Repr

/-- An outstanding long load with what is needed to take it back precisely (R252). -/
structure LongLoad where
  ctx : Nat
  bank : Fin 8
  ga : Nat
  len : Nat
  dest : LoadDest
  /-- The bank before the load's bundle, whose pc is the load's. -/
  before : Bank
  /-- Syllable index of the load. -/
  idx : Nat
  /-- Bundles issued since the load's bundle. -/
  since : Nat
  /-- Number of its bundle among those its sequencer has issued (MODEL). -/
  stamp : Nat
  /-- The rest of a bundle with effects that could not be taken back, which wait for its loads; of a failed load, the syllables whose
  fault is entered. Log entry 129. -/
  rest : Option (List SyllOut)
  /-- The load, or an STTEST of its bundle, failed: the fault, which is entered when nothing older is outstanding (R76, R336). -/
  failed : Option SFault
  deriving DecidableEq, Repr

/-- What a bundle that did not issue waits for (R251, R279, R293). -/
inductive HeldFor where
  | nothing | operand | drain | overlap | grant
  deriving DecidableEq, Repr

/-- A sequencer (08 to 10, 12). -/
structure Seq where
  /-- SEQ_STAT.STATE: 0 idle, 1 running, 2 LOCKED, 3 in reset. -/
  st : BitVec 2
  wdogExp : Bool
  run : Option (Fin 8)
  wdog : Staged (BitVec 14)
  wdogEn : Bool
  masklim : Staged (BitVec 7)
  bundles : Word
  stalls : Word
  mispred : Reg32
  ibMiss : Reg32
  sbStall : Reg32
  collided : Reg32
  banks : Vector Bank 8
  sb : List SbEntry
  loads : List LongLoad
  md : Option MulDiv
  fq : List FOp
  xfer : Option Xfer
  /-- The bundle being formed (MODEL). -/
  open_ : List SyllOut
  /-- Bundles issued since reset, the stamp of what they leave on its way (MODEL). -/
  issued : Nat
  /-- What the next bundle was held for last (R293, R294). -/
  held : HeldFor
  /-- Registers whose scratchpad data the last bundle loaded, as in SyllOut.dests (R281). -/
  slow : List Nat
  /-- The bank that ran last since reset (MODEL, R321). -/
  last : Option (Fin 8)
  /-- GAs at which a request of the bundle being executed was answered with an error (R16, R30, R42). -/
  lost : List Nat
  deriving DecidableEq, Repr

/-- The fault of a stream (R61, R82, R91). -/
structure StrmFault where
  elem : Nat
  code : Byte
  sub : Byte
  faddr : BitVec 57
  opnd : BitVec 4
  step : BitVec 3
  deriving DecidableEq, Repr

/-- The running values of a stream after an element (R61, R114). -/
structure StrmAcc where
  wcount : Nat
  result : Nat
  carry : Nat
  flags : BitVec 6
  fixn : Nat
  fixovf : Bool
  /-- Fix-up entries recorded by this issue of the stream, in order. -/
  fix : List Word
  deriving DecidableEq, Repr

/-- A chain step's result at an element, with its flags and whether it was tiny or read a subnormal. -/
structure StrmVal where
  val : Nat
  fl : Nat
  tiny : Bool
  sub : Bool
  deriving DecidableEq, Repr

/-- An element whose inputs and first chain steps are done, and which waits for its directory operation (R155). -/
structure StrmRec where
  i : Nat
  a : Nat
  b : Nat
  /-- The input's own mask lets it through. -/
  aOn : Bool
  bOn : Bool
  /-- The output mask lets the element through. -/
  om : Bool
  /-- It is masked off and nothing takes it in: its inputs were not read. -/
  skip : Bool
  vals : List StrmVal
  /-- Steps 0 to this number less one belong to an accumulating or directory step that took the element in. -/
  taken : Nat
  /-- The decoded output address. -/
  ga : Option Nat
  /-- The output fault that a later WMASK step decides. -/
  late : Option StrmFault
  /-- The key and the operand of its directory operation, if it has one. -/
  dir : Option (Nat × Nat)
  /-- RESULT and CARRY before the element. -/
  before : Nat × Nat
  deriving DecidableEq, Repr

/-- A write of one element. -/
structure StrmWrite where
  ga : Nat
  bytes : List Byte
  /-- The bit of the byte that a b1 element is. -/
  bitPos : Option Nat
  /-- A failure is a fault: the element is active. -/
  strict : Bool
  deriving DecidableEq, Repr

/-- A finished element of the strip that has not committed: WCOUNT, RESULT and CARRY before it, and its write. -/
structure StrmEl where
  i : Nat
  wcount : Nat
  result : Nat
  carry : Nat
  write : Option StrmWrite
  deriving DecidableEq, Repr

/-- FP flags and subnormals of a step at an element (R209, R210). -/
structure StrmNote where
  i : Nat
  step : Nat
  fl : Nat
  tiny : Bool
  sub : Bool
  deriving DecidableEq, Repr

/-- The record of a retired directory operation (R157). -/
structure DirRes where
  i : Nat
  v : StrmVal
  deriving DecidableEq, Repr

/-- A 64-byte line that a gather read for a strip (R87): the operand, and each byte with its failure: true for an unmapped one. -/
structure GLine where
  strip : Nat
  opnd : Nat
  line : Nat
  cells : List (Byte × Option (Bool × Nat))
  deriving DecidableEq, Repr

/-- Where a stream stands. -/
inductive StrmPhase where
  /-- Granted to a context whose STRM has not retired. -/
  | held
  /-- Issued; the block has not been read. -/
  | issued
  /-- Checked; not running. -/
  | ready
  /-- Running in a partition of the stream buffer (R78). -/
  | active (part : Fin 4)
  /-- Stopped; its end-of-stream write is due. -/
  | ended
  deriving DecidableEq, Repr

/-- A stream-table entry (R72 to R92). -/
structure Stream where
  ctx : Nat
  slot : Fin 16
  phase : StrmPhase
  seq : Fin 16
  blk : Nat
  be : Bool
  dl : BitVec 20
  pl : BitVec 2
  rm : BitVec 3
  subn : Bool
  traps : BitVec 5
  ct : Bool
  func : Fin 64
  depth : Nat
  dirs : List (Fin 1024)
  segs : Vector Desc256 16
  out : BitVec 512
  a : BitVec 512
  b : BitVec 512
  chain : BitVec 512
  consts : BitVec 512
  keys : List (Nat × BitVec 256)
  n : Nat
  /-- START at issue, the next element to enter the chain, the first element not committed. -/
  start : Nat
  next : Nat
  com : Nat
  cur : StrmAcc
  saved : StrmAcc
  /-- Elements of the wave that waits for the directory. -/
  recs : List StrmRec
  /-- Finished elements of the strips that have not committed, their notes, and the values of an FRSUM step. -/
  els : List StrmEl
  notes : List StrmNote
  leaves : List (Nat × Nat)
  /-- Results of retired directory operations of elements not committed (R157). -/
  dirRec : List DirRes
  /-- Lines that its gathers have read for strips not committed (R87). -/
  lines : List GLine
  /-- GAs at which a request of the stream was answered with an error (R16, R30, R42). -/
  lost : List Nat
  /-- A reset of DR has answered its outstanding directory operations with errors (R159). -/
  drLost : Bool
  /-- The fault at which it stops, once the strips before that element have committed (R91). -/
  fault : Option StrmFault
  cancel : Bool
  /-- The block was read, and the stream's cost has been charged. -/
  charged : Bool
  /-- The GA at which the read of the block failed (R502). -/
  bad : Option Nat
  /-- The job overran its budget: the stream is best-effort from its next strip on (R74, R179). -/
  demoted : Bool
  /-- The classes that serve the elements of an indexed operand, as the index stream named them at issue: operand, element,
  class (R182). -/
  ports : List (Nat × Nat × Nat)
  /-- The directory a DINS, DAGG or DDEL step of the stream has updated. -/
  updated : Option (Fin 1024)
  /-- Order of issue. -/
  order : Nat
  deriving DecidableEq, Repr

/-- A STRM that waits for a table entry (R72). -/
structure StrmWait where
  ctx : Nat
  be : Bool
  dl : BitVec 20
  deriving DecidableEq, Repr

/-- A spare lane (R105 PIPE_LANE_MAP). -/
structure Spare where
  lane : BitVec 6
  used : Bool
  fail : Bool
  deriving DecidableEq, Repr

/-- A pipe (03). -/
structure Pipe where
  ra : BitVec 4
  table : Vector (Option Stream) 64
  waiting : List StrmWait
  sp0 : Spare
  sp1 : Spare
  laneFail : Word
  strmCnt : Reg32
  sfaultCnt : Reg32
  busy : Word
  /-- Streams issued so far, for issue order. -/
  issued : Nat
  deriving DecidableEq, Repr

/-- The state of a directory (R165). -/
inductive DirState where
  | free | creating | ready | suspect
  deriving DecidableEq, Repr

/-- A directory (R137, R165). -/
structure Directory where
  st : DirState
  ktype : BitVec 4
  mainLog2 : BitVec 5
  filtLog2 : BitVec 5
  cache : Bool
  fvalid : Bool
  mainBase : BitVec 24
  ovfBase : BitVec 24
  ovfCount : BitVec 25
  ovfUsed : BitVec 25
  depth : BitVec 3
  entries : BitVec 27
  filtBase : BitVec 26
  seq : Word
  seed : Word
  miss : Word
  func : Fin 64
  deriving DecidableEq, Repr

/-- The DR island (05). Buckets and filter bits are bytes of the memory (R29, R136). -/
structure Dir where
  dirs : Table Directory
  sel : BitVec 10
  ops : Word
  ovfCnt : Reg32
  hcHit : Reg32
  filtSkip : Reg32
  /-- Buckets in the bucket-head cache, most recently used first, each with the line of the array that holds it (R160). -/
  cache : List (Nat × Nat)
  deriving DecidableEq, Repr

/-- A segment that the host created (R375). -/
structure SegObj where
  desc : Desc256
  func : Fin 64
  deriving DecidableEq, Repr

/-- A loaded program (R376). -/
structure Prog where
  entry : Word
  tsbp : Word
  edtb : Word
  desc : Desc256
  func : Fin 64
  deriving DecidableEq, Repr

/-- A vault slot (R411). -/
structure VaultSlot where
  key : BitVec 256
  func : Fin 64
  valid : Bool
  gen : Reg32
  kchk : BitVec 16
  deriving DecidableEq, Repr

/-- What a running Termite wipe covers (R412). -/
inductive Wipe where
  | vault
  /-- The slots that a function held when the wipe began. -/
  | function (f : Fin 64) (slots : List Nat)
  | slot (k : Fin 4096)
  | scratchpads
  deriving DecidableEq, Repr

/-- The objects that the host holds by handle, and the vault. -/
structure Objs where
  segs : Table (Option SegObj)
  progs : Table (Option Prog)
  vault : Table VaultSlot
  wipes : List Wipe
  vaultFail : Bool
  deriving DecidableEq, Repr

/-- A period and an enable (LMC_SCRUB, LMS_SCRUB). -/
structure ScrubCfg where
  period : Nat
  en : Bool
  deriving DecidableEq, Repr

/-- A sector access that waits in an LM controller for its eighth-slot (R33, R35). -/
structure LmReq where
  ga : Nat
  guaranteed : Bool
  aged : Bool
  deriving DecidableEq, Repr

/-- A row being retired (R54): pseudo-channel, bank, row, and whether it goes to a spare row. -/
structure Retire where
  pc : Fin 32
  bank : Fin 48
  row : Nat
  spare : Bool
  deriving DecidableEq, Repr

/-- An LM controller (R33 to R58). -/
structure Lmc where
  trained : Bool
  degraded : Bool
  therm : Bool
  scrub : Staged ScrubCfg
  scrubPos : BitVec 28
  /-- Sectors of that group's granule that patrol scrub has read (R53). -/
  scrubSec : BitVec 4
  ce : Reg32
  ue : Reg32
  ueAddr : BitVec 57
  spareUsed : BitVec 16
  spareFree : BitVec 16
  slotG : BitVec 12
  /-- Guaranteed eighth-slots used in the running frame. -/
  used : Nat
  /-- Eighth-slots of maintenance used in the running frame, by pseudo-channel (R33). -/
  maint : Table Nat
  /-- The row that a bank last served, plus 1, at 48 × pseudo-channel + bank (R35). -/
  rows : Table Nat
  waiting : List LmReq
  retire : Option Retire
  /-- Rows whose mapping has switched. -/
  retired : List Retire
  /-- Sectors whose corrected data waits for a maintenance slot (R51). -/
  correct : List Nat
  /-- Post-package repairs used (R54). -/
  repairs : Nat
  deriving DecidableEq, Repr

/-- An FM port (R38 to R45, R58). -/
structure Xpt where
  up : Bool
  flit : BitVec 2
  speed : BitVec 3
  width : BitVec 5
  switch : Bool
  count : BitVec 5
  capG : BitVec 16
  qstart : Bool
  step : BitVec 4
  qstate : BitVec 2
  qualified : Bool
  lat : BitVec 16
  /-- The step that runs. -/
  cur : BitVec 4
  /-- The latency monitor of R43: the largest read latency of the last passing step of a running qualification. -/
  mon : BitVec 16
  poisonCnt : Reg32
  deriving DecidableEq, Repr

/-- An interleave set (R40, R58). -/
structure Ilv where
  baseG : BitVec 18
  sizeG : BitVec 18
  members : BitVec 18
  gran : BitVec 4
  ways : BitVec 3
  en : Bool
  pbaseG : BitVec 15
  deriving DecidableEq, Repr

/-- MAP (R57). -/
structure Map where
  sets : Staged (Vector Ilv 4)
  portEn : BitVec 6
  deriving DecidableEq, Repr

/-- The counters and the error state of one on-die memory (R414, R434). -/
structure MemErr where
  ce : Reg32
  ue : Reg32
  ueAddr : Reg32
  stale : Bool
  epoch : Word
  /-- Words whose corrected value waits to be written back (R414). -/
  correct : List Nat
  /-- Next word the background scrub reads (R416). -/
  scrubPos : Nat
  deriving DecidableEq, Repr

/-- LMS (R434). -/
structure Lms where
  scrub : Staged ScrubCfg
  sel : BitVec 5
  mems : Table MemErr
  /-- LMS_COLL, at 16 × scratchpad + bank. -/
  coll : Table Reg32
  /-- Port-B writes answered COLLIDED that wait to be sent again: scratchpad, offset, bytes, answers so far. -/
  resend : List (Fin 16 × Nat × List Byte × Nat)
  /-- Scratchpad lines, by GA / 64, whose next port-B write has been answered COLLIDED, and how often; four answers fail it
  (R409). -/
  answers : List (Nat × Nat)
  deriving DecidableEq, Repr

/-- FAB_CFG (R435). -/
structure FabCfg where
  age : Byte
  floor : Byte
  deriving DecidableEq, Repr

/-- A transaction that waits at a crossbar port or is held back (R423 to R428). -/
structure FabReq where
  t : Crossing
  qos : BitVec 4
  /-- Cycles waited at this point, in units of its aging or floor interval. -/
  waited : Nat
  deriving DecidableEq, Repr

/-- A response that waits for a credit of its channel (R430): the island that answers, the request, and the answer. -/
structure FabRsp where
  src : Fin 34
  t : Crossing
  rstat : Fin 4
  poisoned : Bool
  bytes : List Byte
  deriving DecidableEq, Repr

/-- The fabric (15). -/
structure Fab where
  cfg : Staged FabCfg
  sel : BitVec 6
  ce : Table Reg32
  ue : Table Reg32
  hold : Table Reg32
  floorCnt : Table Reg32
  /-- Credits in use per link and channel (R430). -/
  credits : Table Nat
  /-- Requests waiting per island and port. -/
  ports : Table (List FabReq)
  /-- Master granted last per island and port, and cycles for which floor grants are blocked. -/
  last : Table Nat
  blocked : Table Nat
  /-- Requests held back per island (R428), and unacknowledged writes and FENCEs. -/
  held : Table (List FabReq)
  unacked : Table (List FabReq)
  /-- Responses that wait for a credit, oldest first (R430). -/
  rsps : List FabRsp
  deriving DecidableEq, Repr

/-- A request that waits for a block held by QUIESCE (R482): an access from outside, or a claim at the EVC, or a completion there by the
target that claimed. -/
inductive Parked where
  | bar4 (a : BarAccess)
  | j9 (a : BarAccess)
  | claim (ag : Agent) (t : Fin 18)
  | complete (t : Fin 18) (src : Fin 2048)
  deriving DecidableEq, Repr

/-- The state of the block. -/
structure State where
  pending : List Instr
  /-- The ordering code: true is LX7300-ML (R2). -/
  ml : Bool
  /-- Free values used so far (MODEL). -/
  free : Nat
  out : List Msg
  mem : Table Byte
  /-- Poisoned units: start GA of each poisoned sector or on-die word. -/
  poison : List Nat
  /-- Units whose stored code word holds an error that no read has met: what a read will find there (MODEL). Log entry 137. -/
  upset : Table CodeWord
  /-- Accesses from outside that wait for a held block, oldest first (R482). -/
  parked : List Parked
  qmem : Table Byte
  pages : Vector Hdr 54
  /-- Latched HI halves, per register offset and agent (R471). -/
  latch : Table (Option Reg32)
  glb : Glb
  pwr : Pwr
  evr : Evr
  evc : Evc
  hl : Hl
  rqe : Rqe
  dau : Dau
  csc : Csc
  ctxs : Table Ctx
  objs : Objs
  lmcs : Vector Lmc 12
  xpts : Vector Xpt 6
  map : Map
  pipes : Vector Pipe 8
  seqs : Vector Seq 16
  dir : Dir
  lms : Lms
  fab : Fab
  deriving DecidableEq, Repr

/-- A configuration just after reset: staging and active copies agree. -/
def Staged.init {α : Type} (a : α) : Staged α := { stage := a, active := a, sampled := none }

/-- The page numbers 0 to 53, in the order of the block directory (R483). -/
def pageIdx : PageId → Fin 54
  | .glb => 0 | .pwr => 1 | .evr => 2 | .evc => 3 | .hlk => 4 | .rqe => 5 | .dau => 6 | .csc => 7
  | .lmc n => ⟨8 + n.val, by omega⟩
  | .xpt p => ⟨20 + p.val, by omega⟩
  | .map => 26
  | .pipe n => ⟨27 + n.val, by omega⟩
  | .seq n => ⟨35 + n.val, by omega⟩
  | .dir => 51 | .lms => 52 | .fab => 53

/-- The page of a number. -/
def pageOf (i : Fin 54) : PageId :=
  if i.val < 8 then
    match i.val with
    | 0 => .glb | 1 => .pwr | 2 => .evr | 3 => .evc | 4 => .hlk | 5 => .rqe | 6 => .dau | _ => .csc
  else if h : i.val < 20 then .lmc ⟨i.val - 8, by omega⟩
  else if h : i.val < 26 then .xpt ⟨i.val - 20, by omega⟩
  else if i.val = 26 then .map
  else if h : i.val < 35 then .pipe ⟨i.val - 27, by omega⟩
  else if h : i.val < 51 then .seq ⟨i.val - 35, by omega⟩
  else if i.val = 51 then .dir else if i.val = 52 then .lms else .fab

/-- A page without RW-S or RW-F fields, whose EN reads 1 (R472). -/
def pageFixed : PageId → Bool
  | .glb | .rqe | .xpt _ | .dir => true
  | _ => false

/-- The PG_IRQ_PEND bits a block defines (R447, R469, R484). -/
def pageIrqBits : PageId → Reg32
  | .glb => 3#32 | .pwr => 15#32 | .evr => 7#32
  | _ => 0#32

/-- A common header just after reset (R472). -/
def Hdr.reset (epoch : Word) (pg : PageId) : Hdr :=
  { en := pageFixed pg, quiesce := false, held := false, stopping := false, commit := false, refused := false,
    reason := 0, stale := false, wrsv := false, wwb := false, refDetail := 0, refOffset := 0, refReason := 0,
    epoch := epoch, pend := 0, msk := pageIrqBits pg, errcnt := 0 }

/-- The STAT of a job's first load (R331). -/
def Stat.first : Stat :=
  { esc := false, ld := 0, wt := false, wres := 1, cwp := 0, ct := false, gm := false, pl := 1 }

/-- An empty window. -/
def Win.zero : Win := { w := Vector.replicate 16 0, rpc := 0, rmask := 0, rld := 0 }

/-- A zero lower half with the STAT of R331. -/
def Lower.zero : Lower :=
  { g := Vector.replicate 16 0, wins := Vector.replicate 8 Win.zero, segs := Vector.replicate 16 0,
    stat := Stat.first, vl := 0, vstart := 0, fcsr := 0, wsp := 0, lps := Vector.replicate 4 0,
    lpe := Vector.replicate 4 0, lpc := Vector.replicate 4 0 }

/-- A zero upper half (R298). -/
def Upper.zero : Upper :=
  { v := Vector.replicate 32 0, k := Vector.replicate 8 0, fix := Vector.replicate 64 0 }

/-- A bank that holds no context. -/
def Bank.empty : Bank :=
  { occ := none, lo := Lower.zero, up := Upper.zero, pc := 0, tsbp := 0, edtb := 0, ibuf := [], btb := [] }

/-- A ticket slot of a new job: its generation is 0 (R73). -/
def Ticket.zero : Ticket :=
  { out := false, done := false, gen := 0, pipe := 0, entry := 0, wcount := 0, fstat := 0, faddr := 0, traps := 0 }

/-- The record of a context that belongs to no job (R296). -/
def Ctx.free : Ctx :=
  { st := .free, be := false, res := false, started := false, novec := false, pre := false, late := false,
    ovr := false, void := false, cancel := false, waiton := 0, seq := 0, bank := 0, aff := 0, affseq := 0,
    wslot := 0, queue := 0, cid := 0, func := 0, dlslot := 0, arrslot := 0, relslot := 0, prog := 0, depth := 0,
    budget := Vector.replicate 11 0, meter := Vector.replicate 11 0, vcause := 0, lower := none, upper := none, lareas := [], uareas := [],
    pc := 0, tsbp := 0, edtb := 0, shadow := 0, fdepth := 0, maskq := 0, defer := false, fppend := false,
    bopend := false, deferGa := 0, dirSlots := Vector.replicate 8 none, initseg := Vector.replicate 16 0,
    tickets := Vector.replicate 16 Ticket.zero, rem := Vector.replicate 11 0, eff := 0, held := false,
    ovrClass := 0xF, need := 0, silent := false, dying := false, fpStream := false, fpRaised := false,
    frameSrc := Vector.replicate 5 none, frameItem := Vector.replicate 5 false, escShadow := 0, fresh := false,
    order := 0, floor := false, leaving := false }

/-- A sequencer in reset (R294). -/
def Seq.reset : Seq :=
  { st := 3, wdogExp := false, run := none, wdog := .init 1000, wdogEn := true, masklim := .init 4, bundles := 0,
    stalls := 0, mispred := 0, ibMiss := 0, sbStall := 0, collided := 0, banks := Vector.replicate 8 Bank.empty,
    sb := [], loads := [], md := none, fq := [], xfer := none, open_ := [], issued := 0, held := .nothing, slow := [],
    last := none, lost := [] }

/-- An unused spare lane. -/
def Spare.reset : Spare := { lane := 0, used := false, fail := false }

/-- A pipe after reset (R105). -/
def Pipe.reset : Pipe :=
  { ra := 8, table := Vector.replicate 64 none, waiting := [], sp0 := .reset, sp1 := .reset, laneFail := 0,
    strmCnt := 0, sfaultCnt := 0, busy := 0, issued := 0 }

/-- A directory handle that is FREE reads as all zeros (R165). -/
def Directory.free : Directory :=
  { st := .free, ktype := 0, mainLog2 := 0, filtLog2 := 0, cache := false, fvalid := false, mainBase := 0,
    ovfBase := 0, ovfCount := 0, ovfUsed := 0, depth := 0, entries := 0, filtBase := 0, seq := 0, seed := 0,
    miss := 0, func := 0 }

/-- An LM controller after reset (R58). -/
def Lmc.reset : Lmc :=
  { trained := false, degraded := false, therm := false, scrub := .init { period := 24, en := true }, scrubPos := 0, scrubSec := 0,
    ce := 0, ue := 0, ueAddr := 0, spareUsed := 0, spareFree := 512, slotG := 0, used := 0, maint := [], rows := [], waiting := [],
    retire := none, retired := [], correct := [], repairs := 0 }

/-- An FM port after reset (R58). -/
def Xpt.reset : Xpt :=
  { up := false, flit := 0, speed := 0, width := 0, switch := false, count := 0, capG := 0, qstart := false,
    step := 0, qstate := 0, qualified := false, lat := 0, cur := 0, mon := 0, poisonCnt := 0 }

/-- A disabled interleave set. -/
def Ilv.reset : Ilv :=
  { baseG := 0, sizeG := 0, members := 0, gran := 0, ways := 0, en := false, pbaseG := 0 }

/-- A queue pair in OFF (R383). -/
def Qp.reset : Qp :=
  { en := false, st := .off, sqm1 := 0, cqm1 := 0, ien := false, sqloc := false, cqloc := false, iv := 0,
    sqBase := 0, cqBase := 0, sqhd := 0, sqtail := 0, sqPend := 0, cqtail := 0, cqhead := 0, cqUsed := 0,
    phase := true, outst := 0, discard := false, reason := 0 }

/-- An EVC source entry after reset (R403). -/
def SrcCfg.reset : SrcCfg := { vec := 0, en := false, cls := 0, tgt := 16, prio := 0 }

/-- An EVC source's state after reset: masked (R389). -/
def SrcState.reset : SrcState := { pend := false, mask := true, insvc := none, input := false, sent := false }

/-- A group's hold-off after reset. -/
def Grp.reset : Grp := { holdoff := 0, hact := false }

/-- An MSI-X vector after reset: masked, as PCIe defines. Log entry 15. -/
def VecState.reset : VecState := { mask := true, pend := false, addr := 0, data := 0 }

/-- A VF's ranges after reset: empty. -/
def FnRange.reset : FnRange := { lmBase := 0, lmSize := 0, fmBase := 0, fmSize := 0 }

/-- A code's token bucket at MG power-up: full (R439). -/
def CodeState.full : CodeState := { missing := 0, base := 0, supcnt := 0, supsat := false }

/-- A memory's error state after reset. -/
def MemErr.reset : MemErr :=
  { ce := 0, ue := 0, ueAddr := 0, stale := false, epoch := 0, correct := [], scrubPos := 0 }

/-- An empty vault slot. -/
def VaultSlot.empty : VaultSlot := { key := 0, func := 0, valid := false, gen := 0, kchk := 0 }

/-- GLB after reset (R484). -/
def Glb.reset : Glb :=
  { fwver := 0, ready := false, fmenum := false, qual := false, warm := 0, last := 0, refType := 0, refInst := 0,
    refReason := 0, refcnt := 0, scratch0 := 0, scratch1 := 0 }

/-- An island just after reset, held in reset or not. PWR_ISL_STAT reads 0 after reset (R469); a core island does nothing while the core
rails are off. -/
def Island.reset (inrst : Bool) : Island := { st := .run, req := .run, inrst := inrst, waking := false }

/-- PWR after MG power-up (R469), with the fuses of log entry 8 and the pins of log entry 16. -/
def Pwr.reset (epoch : Word) : Pwr :=
  { mv := 0, iin := 0, w := 0, cfg := .init { grace := 50, slope := 20 }, locked := false, trip := false,
    floor := false, pfw := false, holdup := false, core := false, auxok := true, lc := 0, diagUsed := 0,
    lcPend := none, lcWipe := none, tamperPend := false, tamper := 0, tamperDue := 0, jmax := 0, smax := 0, cplate := 0, beat := false, beatTick := 0, tripHold := false, withhold := false,
    islSel := 0, islands := Vector.replicate 34 (Island.reset false), level := 0,
    senseP := true, senseN := true, inrush := true, perst := true, clkreq := true, prsntXp := 0, perstXp := 0,
    active := false, image := false, badImages := 0, fwUp := false, fwFirst := false, grace := false, stopped := false,
    resetPend := none, powered := true, epoch := epoch }

/-- A persistent copy as a module leaves manufacture (R438). -/
def Persist.zero : Persist := { valid := true, pcc := 0, opt := 0, dropped := 0 }

/-- EVR after its first power-up in service: PCC is 1 (R438). -/
def Evr.reset : Evr :=
  { log := [], buf := [], flushing := false, rate := .init 8, dropped := 0, pcc := 1, opt := 0, tick := 0, supp := 0,
    copy0 := .zero, copy1 := .zero, newer := false, optSince := 0, codes := [], dropSeen := false, crashCode := 0,
    crashSev := 0 }

/-- EVC after reset (R403). -/
def Evc.reset : Evc :=
  { cfg := .init [], src := [], grp := [], spur := Vector.replicate 18 0, held := [], presented := 0 }

/-- Device Control after a conventional reset, as PCIe gives it: 128-byte payloads, 512-byte read requests. PRESUMED, log entry 132. -/
def DevCtl.reset : DevCtl := { mps := 0, mrrs := 2, cto := 0 }

/-- A selective IDE stream that selects nothing. -/
def ideSelectOff : IdeSelect := { en := false, fnLo := 0, fnHi := 0, lo := 0, hi := 0 }

/-- The host link after reset (R381). -/
def Hl.reset : Hl :=
  { up := false, flit := false, speed := 0, width := 0, training := false, l0 := false,
    cfg := .init { aper := 0, ranges := [] }, bar4 := 0, vfe := false, numvf := 0, mse := 0, d3 := 0, devs := [], aspm := false,
    ideSel := Vector.replicate 8 ideSelectOff, flr := [], kept := 0, fnSel := 1,
    errCnt := 0, ctoCnt := 0, ide := 0, ideKeyed := 0, msix := [], aer := 0, doe := [], spdmVersion := false, spdmCaps := false,
    spdmAlgs := false, sessions := [], nextSession := 0 }

/-- The RQE after reset. -/
def Rqe.reset : Rqe := { qps := [], rr := 0, inbox := [], running := [], compl := [], prot := [] }

/-- The DAU after reset (R190). -/
def Dau.reset : Dau :=
  { cfg := .init { setup := 4, band := 0, caps := Vector.replicate 11 0 }, gopen := false, bopen := false, cause := 1,
    bcause := 1, slot := 0, acc := 0, ref := 0, ovr := 0, void := 0, lastQueue := 0, lastDetail := 0, lastCode := 0,
    decMax := 0, credits := [], order := 0 }

/-- The CSC after reset (R321). -/
def Csc.reset : Csc :=
  { beSlice := .init 100, sel := 0, fifo := [], cal := [], poolRsv := 0, switches := 0, loads := 0, evicts := 0,
    demotes := 0, xferMax := 0, irqWake := 0 }

/-- The DR island after reset (R165). -/
def Dir.reset : Dir := { dirs := [], sel := 0, ops := 0, ovfCnt := 0, hcHit := 0, filtSkip := 0, cache := [] }

/-- No object exists. -/
def Objs.reset : Objs := { segs := [], progs := [], vault := [], wipes := [], vaultFail := false }

/-- LMS after reset (R434). -/
def Lms.reset : Lms := { scrub := .init { period := 10, en := true }, sel := 0, mems := [], coll := [], resend := [], answers := [] }

/-- FAB after reset (R435). -/
def Fab.reset : Fab :=
  { cfg := .init { age := 64, floor := 32 }, sel := 0, ce := [], ue := [], hold := [], floorCnt := [], credits := [],
    ports := [], last := [], blocked := [], held := [], unacked := [], rsps := [] }

/-- The machine right after the cold reset of its first power-up in service: the MG island powered, every core
island in reset, the queue of commands empty. -/
def State.reset : State :=
  { pending := [], ml := false, free := 1, out := [], mem := [], poison := [], upset := [], parked := [], qmem := [],
    pages := Vector.ofFn (fun i => Hdr.reset (Config.entropy 0) (pageOf i)), latch := [], glb := .reset,
    pwr := .reset (Config.entropy 0), evr := .reset, evc := .reset, hl := .reset, rqe := .reset, dau := .reset,
    csc := .reset, ctxs := [], objs := .reset, lmcs := Vector.replicate 12 .reset, xpts := Vector.replicate 6 .reset,
    map := { sets := .init (Vector.replicate 4 .reset), portEn := 0 }, pipes := Vector.replicate 8 .reset,
    seqs := Vector.replicate 16 .reset, dir := .reset, lms := .reset, fab := .reset }

end Sys2Proof.Machine
end

