-- ==== Sys2Proof/Machine/Ops.lean ====
section
/-! DEFINITION. The named operations over the state: sparse arrays, bytes, the global address decode, memory
with its poison, page headers, counters and the global epoch. Every later file reads and writes the state
through them. -/

namespace Sys2Proof.Machine

/-! ## Sparse arrays -/

/-- The value at a key: the default where the table lists nothing. -/
def tget {α : Type} (d : α) : Table α → Nat → α
  | [], _ => d
  | (k', v) :: t, k => if k = k' then v else tget d t k

/-- Writes a value at a key, keeping the canonical form: keys rising, no entry equal to the default. -/
def tset {α : Type} [DecidableEq α] (d : α) : Table α → Nat → α → Table α
  | [], k, v => if v = d then [] else [(k, v)]
  | (k', v') :: t, k, v =>
    if k < k' then (if v = d then (k', v') :: t else (k, v) :: (k', v') :: t)
    else if k = k' then (if v = d then t else (k, v) :: t)
    else (k', v') :: tset d t k v

/-- The canonical form of a table with a default. -/
def twf {α : Type} [DecidableEq α] (d : α) : Table α → Bool
  | [] => true
  | [(_, v)] => decide (v ≠ d)
  | (k, v) :: (k', v') :: t => decide (k < k') && decide (v ≠ d) && twf d ((k', v') :: t)

/-- Changes every listed value, dropping those that become the default. -/
def tmap {α : Type} [DecidableEq α] (d : α) (f : α → α) (t : Table α) : Table α :=
  (t.map (fun e => (e.1, f e.2))).filter (fun e => decide (e.2 ≠ d))

/-- The canonical form of a memory: an unlisted byte reads as 0. Log entry 6. -/
def memWf (m : Table Byte) : Bool := twf (0 : Byte) m

/-- Changes the element of a vector at an index. -/
def vmod {α : Type} {n : Nat} (v : Vector α n) (i : Fin n) (f : α → α) : Vector α n :=
  v.set i.val (f v[i.val]) i.isLt

/-- Writes the element of a vector at an index. -/
def vset {α : Type} {n : Nat} (v : Vector α n) (i : Fin n) (a : α) : Vector α n :=
  v.set i.val a i.isLt

/-- Inserts a number into a rising list without repeats. -/
def ninsert (k : Nat) : List Nat → List Nat
  | [] => [k]
  | a :: t => if k < a then k :: a :: t else if k = a then a :: t else a :: ninsert k t

/-! ## Bits and bytes -/

/-- A saturating increment of a 32-bit counter. -/
def satInc (c : Reg32) : Reg32 := if c = 0xFFFFFFFF#32 then c else c + 1

/-- A saturating addition to a 32-bit counter. -/
def satAdd (c : Reg32) (n : Nat) : Reg32 :=
  if c.toNat + n ≥ 4294967295 then 0xFFFFFFFF#32 else BitVec.ofNat 32 (c.toNat + n)

/-- Bit i of a number. -/
def bit (n i : Nat) : Bool := n.testBit i

/-- Bits lo to lo + w - 1 of a number. -/
def bits (n lo w : Nat) : Nat := (n >>> lo) % 2 ^ w

/-- A Boolean as 0 or 1. -/
def b2n (b : Bool) : Nat := if b then 1 else 0

/-- The little-endian bytes of a number (00, notation). -/
def bytesOf (n : Nat) : Nat → List Byte
  | 0 => []
  | k + 1 => BitVec.ofNat 8 (n % 256) :: bytesOf (n / 256) k

/-- The number that little-endian bytes hold. -/
def natOf : List Byte → Nat
  | [] => 0
  | b :: t => b.toNat + 256 * natOf t

/-- Rounds up a division. -/
def cdiv (a b : Nat) : Nat := (a + b - 1) / b

/-- The CRC-16 with polynomial 0x1021, most significant bit first (R437), over one byte. -/
def crcByte (c : Nat) (b : Byte) : Nat :=
  let step := fun (x : Nat) => if x.testBit 15 then ((x <<< 1) ^^^ 0x1021) % 65536 else (x <<< 1) % 65536
  let x := c ^^^ (b.toNat <<< 8)
  step (step (step (step (step (step (step (step x)))))))

/-- The CRC-16 of R437 over bytes in ascending order, initial value 0xFFFF. -/
def crc16 (bs : List Byte) : Nat := bs.foldl crcByte 0xFFFF

/-! ## Islands -/

/-- Island numbers of R433. -/
def islHL : Fin 34 := 0
def islXP (p : Fin 6) : Fin 34 := ⟨1 + p.val, by omega⟩
def islLM (n : Fin 12) : Fin 34 := ⟨7 + n.val, by omega⟩
def islPP (n : Fin 8) : Fin 34 := ⟨19 + n.val, by omega⟩
/-- The SQ island of a sequencer (R11). -/
def islSQ (q : Fin 16) : Fin 34 := ⟨27 + q.val / 4, by omega⟩
def islDR : Fin 34 := 31
def islAS : Fin 34 := 32
def islMG : Fin 34 := 33

/-- An island that answers requests with data: in RUN and not in reset (R13). The core islands also need the
core rails. -/
def islandUp (s : State) (i : Fin 34) : Bool :=
  let x := s.pwr.islands[i.val]
  decide (x.st = .run) && !x.inrst && (i = islMG || s.pwr.core)

/-- The common header of a page (R472). -/
def hdr (s : State) (pg : PageId) : Hdr := s.pages[(pageIdx pg).val]

/-- The island that serves a page (R14). -/
def pageIsland : PageId → Fin 34
  | .glb | .pwr | .evr | .lms | .fab => islMG
  | .hlk | .rqe | .map => islHL
  | .dau | .csc | .evc => islAS
  | .lmc n => islLM n
  | .xpt p => islXP p
  | .pipe n => islPP n
  | .seq n => islSQ n
  | .dir => islDR

/-! ## The global address map (R26 to R31, R40) -/

def GiB : Nat := 2 ^ 30
def onDieBase : Nat := 0x0000F00000000000
def fmBase (p : Nat) : Nat := 0x0001000000000000 + 0x0000200000000000 * p
def ilvBase : Nat := 0x0002000000000000
def hostBase : Nat := 0x0100000000000000
/-- The first GA of software-visible LM (R28). -/
def lmSoft : Nat := 0x0000000200000000
def dirBase : Nat := 0x0000000100000000
/-- The first GA of the save-area pool (R28). -/
def poolBase : Nat := 0x0000000140000000
def filterBase : Nat := onDieBase + 0x05000000

/-- Populated LM in GiB (R2). -/
def lmTopG (s : State) : Nat := if s.ml then 384 else 576

/-- Who makes an access, for the areas that only some masters reach (R28, R330, R405, R406). -/
inductive Master where
  | seq (q : Fin 16) (esc : Bool)
  | pipe (n : Fin 8)
  | dma | bar4 | mgmt | scarab | j9 | dau | csc
  /-- What an XP or an LM island sends of its own (R422). -/
  | other
  deriving DecidableEq, Repr

/-- The masters that the table of R405 admits to port B of a scratchpad, with the sequencers. -/
def portAdmits : Master → Bool
  | .seq _ _ | .pipe _ | .dma | .bar4 | .mgmt => true
  | .scarab | .j9 | .dau | .csc | .other => false

/-- Stack and the rest of the LM interleave (R31): stack, pseudo-channel, bank, row. -/
def lmPlace (a : Nat) : Nat × Nat × Nat × Nat :=
  let g := a >>> 8
  let q := g / 12
  let k := g % 12
  let fs := bits q 0 4 ^^^ bits q 4 4 ^^^ bits q 8 4 ^^^ bits q 12 4 ^^^ bits q 16 4 ^^^ bits q 20 4 ^^^ bits q 24 4
  let pc := bits q 0 5 ^^^ bits q 5 5 ^^^ bits q 10 5
  let t := (q >>> 5) >>> 2
  let row := t / 48
  let fb := bits row 0 6 ^^^ bits row 6 6
  ((k + fs) % 12, pc, (t % 48 + fb) % 48, row)

/-- The global number of an LM address's pseudo-channel (R31). -/
def lmGlobalPc (a : Nat) : Nat := 32 * (lmPlace a).1 + (lmPlace a).2.1

/-- The granule column of an LM address (R31). -/
def lmCol (a : Nat) : Nat := bits (((a >>> 8) / 12) >>> 5) 0 2

/-- The number of ways of an interleave set (R58). -/
def ilvWays (v : Ilv) : Nat :=
  match v.ways.toNat with
  | 0 => 1 | 1 => 2 | 2 => 3 | _ => 6

/-- The granule of an interleave set. -/
def ilvGran (v : Ilv) : Nat := 256 <<< v.gran.toNat

/-- Member j of an interleave set. -/
def ilvMember (v : Ilv) (j : Nat) : Nat := bits v.members.toNat (3 * j) 3

/-- The port-local range, in bytes, that a set occupies on each member. -/
def ilvLocal (v : Ilv) : Nat × Nat :=
  (GiB * v.pbaseG.toNat, GiB * v.pbaseG.toNat + GiB * (v.sizeG.toNat / ilvWays v))

/-- The enabled set that holds an offset of the interleaved window. -/
def ilvFind (sets : List Ilv) (off : Nat) : Option Ilv :=
  sets.find? (fun v => v.en && decide (GiB * v.baseG.toNat ≤ off) && decide (off < GiB * (v.baseG.toNat + v.sizeG.toNat)))

/-- The decode of an offset into an interleave set: port and port-local address (R40). -/
def ilvDecode (v : Ilv) (off : Nat) : Nat × Nat :=
  let a := off - GiB * v.baseG.toNat
  let g := ilvGran v
  let w := ilvWays v
  (ilvMember v (a / g % w), GiB * v.pbaseG.toNat + a / (g * w) * g + a % g)

/-- Whether a port-local address belongs to an enabled set (R40). -/
def ilvClaims (sets : List Ilv) (p x : Nat) : Bool :=
  sets.any (fun v => v.en && (List.range (ilvWays v)).any (fun j => ilvMember v j == p)
    && decide ((ilvLocal v).1 ≤ x) && decide (x < (ilvLocal v).2))

/-- The capacity behind a port, in bytes. -/
def fmCap (s : State) (p : Nat) : Nat :=
  if h : p < 6 then s.xpts[p].capG.toNat * GiB else 0

/-- Where a GA leads: the kind of memory it decodes to, and the key under which the byte is held. -/
inductive Region where
  | lm | scratch (q : Fin 16) | sbuf (n : Fin 8) | hcache | filter | fm (p : Fin 6) | host
  deriving DecidableEq, Repr

/-- A byte's place: its region and its key in the memory. FM bytes are keyed by the direct-window address of
their port and port-local address, so that no byte has two keys (R40). -/
structure Place where
  region : Region
  key : Nat
  deriving DecidableEq, Repr

/-- The FM place of a port and a port-local address, if expander capacity backs it. -/
def fmPlace (s : State) (p x : Nat) : Option Place :=
  if h : p < 6 then (if x < fmCap s p then some ⟨.fm ⟨p, h⟩, fmBase p + x⟩ else none) else none

/-- A stream buffer partition that an active stream holds (R406). -/
def partHeld (s : State) (n : Fin 8) (part : Nat) : Bool :=
  s.pipes[n.val].table.any (fun e => match e with
    | some st => (match st.phase with | .active p => p.val == part | _ => false)
    | none => false)

/-- Decodes a GA for a master: none where the GA is unmapped to it (R26 to R30, R330, R405, R406). -/
def place (s : State) (m : Master) (ga : Nat) : Option Place :=
  if ga < GiB * lmTopG s then
    if lmSoft ≤ ga then some ⟨.lm, ga⟩
    else if m = .mgmt && decide (0x1C0000000 ≤ ga) then some ⟨.lm, ga⟩
    else if (m = .dau || m = .csc) && decide (ga < dirBase) then some ⟨.lm, ga⟩
    else if m = .csc && decide (poolBase ≤ ga) && decide (ga < 0x1C0000000) then some ⟨.lm, ga⟩
    else if m = .scarab && decide (dirBase ≤ ga) && decide (ga < 0x140000000) then some ⟨.lm, ga⟩
    else none
  else if onDieBase ≤ ga ∧ ga < onDieBase + 0x100000000 then
    let o := ga % 0x100000000
    if h : o / 0x100000 < 16 then
      let q : Fin 16 := ⟨o / 0x100000, h⟩
      if o % 0x100000 < 0xFF000 then (if portAdmits m then some ⟨.scratch q, ga⟩ else none)
      else match m with
        | .seq q' true => if q' = q then some ⟨.scratch q, ga⟩ else none
        | _ => none
    else if o < 0x1000000 then none
    else if h : o / 0x400000 - 4 < 8 then
      let n : Fin 8 := ⟨o / 0x400000 - 4, h⟩
      let part := o % 0x400000 / 0x100000
      if m = .pipe n || !partHeld s n part then some ⟨.sbuf n, ga⟩ else none
    else if 0x4000000 ≤ o ∧ o < 0x5000000 then (if m = .mgmt then some ⟨.hcache, ga⟩ else none)
    else if 0x5000000 ≤ o ∧ o < 0x5800000 then
      (if m = .mgmt || m = .scarab then some ⟨.filter, ga⟩ else none)
    else none
  else if fmBase 0 ≤ ga ∧ ga < fmBase 6 then
    let p := ga / 0x200000000000 - 8
    let x := ga % 0x200000000000
    if ilvClaims s.map.sets.active.toList p x then none else fmPlace s p x
  else if ilvBase ≤ ga ∧ ga < ilvBase + 196608 * GiB then
    match ilvFind s.map.sets.active.toList (ga % ilvBase) with
    | none => none
    | some v => fmPlace s (ilvDecode v (ga % ilvBase)).1 (ilvDecode v (ga % ilvBase)).2
  else if hostBase ≤ ga ∧ ga < 2 * hostBase then some ⟨.host, ga⟩
  else none

/-- Whether every byte of a range is mapped to a master; the first unmapped GA otherwise. -/
def firstUnmapped (s : State) (m : Master) (ga len : Nat) : Option Nat :=
  ((List.range len).find? (fun i => (place s m (ga + i)).isNone)).map (ga + ·)

/-- The unit of error protection that holds a byte: 32-byte sectors of LM, FM and host memory (R51, R52),
32-bit words on the die (R414). -/
def unitSize : Region → Nat
  | .lm | .fm _ | .host => 32
  | _ => 4

/-- The first byte of the unit of a place. -/
def unitOf (p : Place) : Nat := p.key - p.key % unitSize p.region

/-- Whether the unit of a place is poisoned, or holds an error that its code detects and cannot correct (R51, R52, R414). -/
def poisoned (s : State) (p : Place) : Bool :=
  s.poison.contains (unitOf p) || decide (tget .clean s.upset (unitOf p) = .uncorrectable)

/-- Whether the memory behind a place answers with an error response: its island is not up (R13), its block has EN = 0 (R476), its FM
port is withdrawn (R41), or the host link is down (R363). -/
def errorAt (s : State) (p : Place) : Bool :=
  match p.region with
  | .lm =>
    let n := (lmPlace p.key).1
    if h : n < 12 then !islandUp s (islLM ⟨n, h⟩) || !(hdr s (.lmc ⟨n, h⟩)).en else true
  | .scratch q => !islandUp s (islSQ q)
  | .sbuf n => !islandUp s (islPP n)
  | .hcache | .filter => !islandUp s islDR
  | .fm q => !islandUp s (islXP q) || !s.map.portEn.getLsbD q.val
  | .host => !islandUp s islHL || !s.hl.up || !(hdr s .hlk).en

/-- The block that serves a place holds under QUIESCE: a request to it waits at the crossing (R482). An on-die memory is part of no
block that has a page of its own. Log entry 29. -/
def heldAt (s : State) (p : Place) : Bool :=
  match p.region with
  | .lm =>
    let n := (lmPlace p.key).1
    if h : n < 12 then (hdr s (.lmc ⟨n, h⟩)).held && islandUp s (islLM ⟨n, h⟩) else false
  | .fm q => (hdr s (.xpt q)).held && islandUp s (islXP q)
  | .host => (hdr s .hlk).held && islandUp s islHL
  | _ => false

/-- A request for a range of GAs waits at a crossing (R482). -/
def waits (s : State) (m : Master) (ga len : Nat) : Bool :=
  s.pages.any (·.held) && (List.range len).any (fun i => match place s m (ga + i) with
    | some p => heldAt s p
    | none => false)

/-- A block that serves the kind of memory at a GA holds: a stream, whose elements reach every block of the kind, waits (R482). -/
def kindWaits (s : State) (m : Master) (ga : Nat) : Bool :=
  s.pages.any (·.held) && (match place s m ga with
    | none => false
    | some p => match p.region with
      | .lm => (List.finRange 12).any (fun n => (hdr s (.lmc n)).held)
      | .fm _ => (List.finRange 6).any (fun q => (hdr s (.xpt q)).held)
      | .host => (hdr s .hlk).held
      | _ => false)

/-- An LM controller holds: what reaches all of LM waits (R482). -/
def lmWaits (s : State) : Bool := (List.finRange 12).any (fun n => (hdr s (.lmc n)).held)

/-! ## Memory -/

/-- One byte of memory by key. -/
def rdByte (s : State) (key : Nat) : Byte := tget 0 s.mem key

/-- One byte of memory as a GA names it; an unmapped GA reads as 0. -/
def gaByte (s : State) (ga : Nat) : Byte :=
  match place s .mgmt ga with
  | some p => rdByte s p.key
  | none => 0

/-- Writes one byte of memory by key. -/
def wrByte (s : State) (key : Nat) (b : Byte) : State := { s with mem := tset 0 s.mem key b }

/-- What a read returns: its bytes, and the first byte that is poisoned, meets an error, or is unmapped. -/
structure ReadResult where
  bytes : List Byte
  poison : Option Nat
  error : Option Nat
  unmapped : Option Nat
  deriving DecidableEq, Repr

/-- Reads a range of GAs as a master sees it. -/
def gaRead (s : State) (m : Master) (ga : Nat) : Nat → ReadResult
  | 0 => ⟨[], none, none, none⟩
  | n + 1 =>
    let r := gaRead s m (ga + 1) n
    match place s m ga with
    | none => { r with bytes := 0 :: r.bytes, unmapped := some ga }
    | some p =>
      let r1 := if poisoned s p then { r with poison := some ga } else r
      let r2 := if errorAt s p then { r1 with error := some ga } else r1
      { r2 with bytes := rdByte s p.key :: r2.bytes }

/-- A range of GAs read by the machine itself, without poison or error. -/
def readClean (r : ReadResult) : Bool := r.poison.isNone && r.error.isNone && r.unmapped.isNone

/-- Bytes of one write that fall in one unit of error protection. -/
structure Chunk where
  ga : Nat
  bytes : List Byte
  deriving DecidableEq, Repr

/-- Splits a write at the units of error protection. -/
def chunks (s : State) (m : Master) (ga : Nat) : List Byte → List Chunk
  | [] => []
  | b :: bs =>
    let rest := chunks s m (ga + 1) bs
    let sz := match place s m ga with
      | some p => unitSize p.region
      | none => 32
    match rest with
    | [] => [⟨ga, [b]⟩]
    | c :: cs => if (ga + 1) % sz = 0 then ⟨ga, [b]⟩ :: c :: cs else ⟨ga, b :: c.bytes⟩ :: cs

/-- Writes bytes at rising keys. -/
def wrBytes (s : State) (key : Nat) : List Byte → State
  | [] => s
  | b :: bs => wrBytes (wrByte s key b) (key + 1) bs

/-- A write that goes through port B of a scratchpad (R407): every master's but the owning sequencer's. -/
def throughB (m : Master) : Region → Bool
  | .scratch q => (match m with | .seq q' _ => decide (q' ≠ q) | _ => true)
  | _ => false

/-- The fourth COLLIDED answer has come for the next port-B write to a line (R409). -/
def fourthAnswer (s : State) (line : Nat) : Bool := s.lms.answers.any (fun e => decide (e.1 = line) && decide (4 ≤ e.2))

/-- A write of a master fails at a GA because the fourth COLLIDED answer has come for it (R409). -/
def collidedAt (s : State) (m : Master) (ga : Nat) : Bool :=
  match place s m ga with
  | some p => throughB m p.region && fourthAnswer s (p.key / 64)
  | none => false

/-- The LMS number of an on-die memory (R434). -/
def memIndex : Region → Option Nat
  | .scratch q => some q.val
  | .sbuf n => some (16 + n.val)
  | .hcache => some 24
  | .filter => some 25
  | _ => none

def modLmc (s : State) (n : Fin 12) (f : Lmc → Lmc) : State := { s with lmcs := vmod s.lmcs n f }
def getMem (s : State) (i : Nat) : MemErr := tget MemErr.reset s.lms.mems i
def modMem (s : State) (i : Nat) (f : MemErr → MemErr) : State :=
  { s with lms := { s.lms with mems := tset MemErr.reset s.lms.mems i (f (getMem s i)) } }

/-- A read corrects a unit: its memory counts it, and the corrected value waits to be written back (R51, R414). -/
def correctUnit (s : State) (p : Place) : State :=
  match p.region with
  | .lm =>
    let n := (lmPlace p.key).1
    if h : n < 12 then modLmc s ⟨n, h⟩ (fun x => { x with ce := satInc x.ce, correct := x.correct ++ [unitOf p] }) else s
  | r => match memIndex r with
    | some i => modMem s i (fun x => { x with ce := satInc x.ce, correct := x.correct ++ [unitOf p] })
    | none => s

/-- A read of a unit meets what its code word holds: a corrected error, or one that cannot be corrected, after which the unit is
poisoned (R51, R52, R414). -/
def meetUnit (s : State) (p : Place) (found : CodeWord) : State :=
  match found with
  | .clean => s
  | .corrected => correctUnit s p
  | .uncorrectable => { s with poison := ninsert (unitOf p) s.poison }

/-- The read part of a partial write meets an error that no read has met. -/
def meetUpset (s : State) (p : Place) : State :=
  match tget .clean s.upset (unitOf p) with
  | .clean => s
  | c => meetUnit { s with upset := tset .clean s.upset (unitOf p) .clean } p c

/-- A write of an on-die word comes before the write-back of its corrected value, which is dropped (R414). -/
def dropBack (s : State) (p : Place) : State :=
  match memIndex p.region with
  | some i => if (getMem s i).correct.contains (unitOf p) then modMem s i (fun x => { x with correct := x.correct.erase (unitOf p) }) else s
  | none => s

/-- A write of a whole unit clears its poison, and an error that no read has met (R52, R414). -/
def freshUnit (s : State) (p : Place) : State :=
  dropBack { s with poison := s.poison.erase (unitOf p), upset := tset .clean s.upset (unitOf p) .clean } p

/-- Writes one chunk: a whole unit clears poison; a partial write to a poisoned unit is not performed (R52,
R415). Answers the GA of the failure, if any. -/
def wrChunk (s : State) (m : Master) (c : Chunk) : State × Option Nat :=
  match place s m c.ga with
  | none => (s, some c.ga)
  | some p =>
    if errorAt s p || (throughB m p.region && fourthAnswer s (p.key / 64)) then (s, some c.ga)
    else if p.region = .hcache || (p.region = .filter && m ≠ .scarab) then (s, some c.ga)
    else if c.bytes.length = unitSize p.region then
      (wrBytes (freshUnit s p) p.key c.bytes, none)
    else
      let s1 := meetUpset s p
      if poisoned s1 p then (s1, some c.ga) else (wrBytes (dropBack s1 p) p.key c.bytes, none)

/-- Writes chunks in ascending order, and answers the first GA that failed. -/
def wrChunks (s : State) (m : Master) : List Chunk → State × Option Nat
  | [] => (s, none)
  | c :: cs =>
    let r := wrChunk s m c
    let q := wrChunks r.1 m cs
    (q.1, r.2.orElse (fun _ => q.2))

/-- The port-B writes to the lines of a range have ended, so their COLLIDED answers count no more. -/
def endAnswers (s : State) (m : Master) (ga len : Nat) : State :=
  if s.lms.answers.isEmpty then s
  else
    { s with lms := { s.lms with answers := s.lms.answers.filter (fun e =>
        !((List.range len).any (fun i => match place s m (ga + i) with
          | some p => throughB m p.region && decide (p.key / 64 = e.1)
          | none => false))) } }

/-- Writes a range of GAs as a master: each unit is written whole, merged or refused (R36, R52, R415). -/
def gaWrite (s : State) (m : Master) (ga : Nat) (bs : List Byte) : State × Option Nat :=
  let r := wrChunks s m (chunks s m ga bs)
  (endAnswers r.1 m ga bs.length, r.2)

/-- A read of a range of GAs meets errors that no read has met: its units are corrected or poisoned (R51, R414). -/
def touch (s : State) (m : Master) (ga len : Nat) : State :=
  s.upset.foldl (fun a e =>
    let x := max ga e.1
    match place a m x with
    | some p => if decide (x < ga + len) && decide (unitOf p = e.1) && !errorAt a p then meetUpset a p else a
    | none => a) s

/-- The first byte of a range in a sector at which a request was answered with an error. -/
def lostIn (lost : List Nat) (ga len : Nat) : Option Nat :=
  if lost.isEmpty then none
  else ((List.range len).find? (fun b => lost.any (fun g => decide (g / 32 = (ga + b) / 32)))).map (ga + ·)

/-- Where a request of the bundle that a sequencer executes was answered with an error (R16, R30, R42). -/
def lostTo (s : State) (m : Master) (ga len : Nat) : Option Nat :=
  match m with
  | .seq q _ => lostIn (s.seqs[q.val]).lost ga len
  | _ => none

/-- A read that a bundle makes: a request answered with an error is an error there. -/
def reqRead (s : State) (m : Master) (ga len : Nat) : ReadResult :=
  let r := gaRead s m ga len
  { r with error := r.error.orElse (fun _ => lostTo s m ga len) }

/-- A write that a bundle makes before it completes. -/
def reqWrite (s : State) (m : Master) (ga : Nat) (bs : List Byte) : State × Option Nat :=
  match lostTo s m ga bs.length with
  | some g => (s, some g)
  | none => gaWrite s m ga bs

/-- Marks the unit of a GA poisoned. -/
def poisonGa (s : State) (m : Master) (ga : Nat) : State :=
  match place s m ga with
  | some p => { s with poison := ninsert (unitOf p) s.poison }
  | none => s

/-- Clears the memory and the poison of keys lo to hi - 1. -/
def clearRange (s : State) (lo hi : Nat) : State :=
  { s with mem := s.mem.filter (fun e => decide (e.1 < lo) || decide (hi ≤ e.1)),
           poison := s.poison.filter (fun k => decide (k < lo) || decide (hi ≤ k)),
           upset := s.upset.filter (fun e => decide (e.1 < lo) || decide (hi ≤ e.1)) }

/-- Reads queue memory (R353). -/
def qmRead (s : State) (off : Nat) : Nat → List Byte
  | 0 => []
  | n + 1 => tget 0 s.qmem off :: qmRead s (off + 1) n

/-- Writes queue memory. -/
def qmWrite (s : State) (off : Nat) : List Byte → State
  | [] => s
  | b :: bs => qmWrite { s with qmem := tset 0 s.qmem off b } (off + 1) bs

/-! ## Parts of the state -/

def modSeq (s : State) (q : Fin 16) (f : Seq → Seq) : State := { s with seqs := vmod s.seqs q f }
def modBank (s : State) (q : Fin 16) (b : Fin 8) (f : Bank → Bank) : State :=
  modSeq s q (fun x => { x with banks := vmod x.banks b f })
def modPipe (s : State) (p : Fin 8) (f : Pipe → Pipe) : State := { s with pipes := vmod s.pipes p f }
def modHdr (s : State) (pg : PageId) (f : Hdr → Hdr) : State := { s with pages := vmod s.pages (pageIdx pg) f }
def modXpt (s : State) (p : Fin 6) (f : Xpt → Xpt) : State := { s with xpts := vmod s.xpts p f }
def modIsl (s : State) (i : Fin 34) (f : Island → Island) : State :=
  { s with pwr := { s.pwr with islands := vmod s.pwr.islands i f } }
def getCtx (s : State) (c : Nat) : Ctx := tget Ctx.free s.ctxs c
def setCtx (s : State) (c : Nat) (x : Ctx) : State := { s with ctxs := tset Ctx.free s.ctxs c x }
def modCtx (s : State) (c : Nat) (f : Ctx → Ctx) : State := setCtx s c (f (getCtx s c))
def getQp (s : State) (g : Nat) : Qp := tget Qp.reset s.rqe.qps g
def setQp (s : State) (g : Nat) (x : Qp) : State := { s with rqe := { s.rqe with qps := tset Qp.reset s.rqe.qps g x } }
def getDir (s : State) (h : Nat) : Directory := tget Directory.free s.dir.dirs h
def setDir (s : State) (h : Nat) (x : Directory) : State :=
  { s with dir := { s.dir with dirs := tset Directory.free s.dir.dirs h x } }
def getVault (s : State) (k : Nat) : VaultSlot := tget VaultSlot.empty s.objs.vault k
def setVault (s : State) (k : Nat) (x : VaultSlot) : State :=
  { s with objs := { s.objs with vault := tset VaultSlot.empty s.objs.vault k x } }
/-- The key under which a poisoned vault word is held: beyond every GA, since the vault has none (R405). -/
def vaultKey (off : Nat) : Nat := 2 ^ 57 + off
/-- A vault slot's key agrees with its KCHK and holds no poisoned word (R411). -/
def keyIntact (s : State) (k : Nat) : Bool :=
  decide ((getVault s k).kchk = BitVec.ofNat 16 (crc16 (bytesOf (getVault s k).key.toNat 32)))
    && !s.poison.any (fun a => decide (vaultKey (64 * k) ≤ a) && decide (a < vaultKey (64 * k + 64)))
/-- A key handle is valid for a function (R134, R411, R412). -/
def keyOk (s : State) (f : Fin 64) (k : Nat) : Bool :=
  (getVault s k).valid && decide ((getVault s k).func = f) && !s.objs.vaultFail && keyIntact s k
def getSeg (s : State) (h : Nat) : Option SegObj := tget none s.objs.segs h
def setSeg (s : State) (h : Nat) (x : Option SegObj) : State :=
  { s with objs := { s.objs with segs := tset none s.objs.segs h x } }
def getProg (s : State) (h : Nat) : Option Prog := tget none s.objs.progs h
def setProg (s : State) (h : Nat) (x : Option Prog) : State :=
  { s with objs := { s.objs with progs := tset none s.objs.progs h x } }
def send (s : State) (m : Msg) : State := { s with out := s.out ++ [m] }
def setStream (s : State) (p : Fin 8) (e : Fin 64) (x : Option Stream) : State :=
  modPipe s p (fun y => { y with table := vset y.table e x })
def getStream (s : State) (p : Fin 8) (e : Fin 64) : Option Stream := s.pipes[p.val].table[e.val]

/-- The pipe a sequencer is bound to (R12). -/
def pipeOf (q : Fin 16) : Fin 8 := ⟨q.val / 2, by omega⟩

/-- Adds one to PG_ERRCNT of a page. -/
def countErr (s : State) (pg : PageId) : State := modHdr s pg (fun h => { h with errcnt := satInc h.errcnt })

/-- Sets page interrupt conditions that the block defines (R472). -/
def raiseIrq (s : State) (pg : PageId) (b : Reg32) : State :=
  modHdr s pg (fun h => { h with pend := h.pend ||| (b &&& pageIrqBits pg) })

/-- Counts a dropped host write (R352). -/
def countHlk (s : State) : State := { s with hl := { s.hl with errCnt := satInc s.hl.errCnt } }

/-- AER records an error of PCIe (R352). PRESUMED: its bits are those of PCIe's uncorrectable error status. Log entry 147. -/
def aerSet (s : State) (bit : Nat) : State := { s with hl := { s.hl with aer := s.hl.aer ||| BitVec.ofNat 32 (2 ^ bit) } }

/-- A host write that the interface does not define is dropped and counted; a read is answered Unsupported Request (R352). -/
def urDrop (s : State) : State := countHlk (aerSet s 20)
def urAnswer (s : State) : State := send (aerSet s 20) .unsupported

/-- The HL island serves only STATUS_READ, LOG_READ and the configuration space: a tamper event has put the other core islands into
reset (R465). -/
def hlLocked (s : State) : Bool := s.pwr.locked && !s.pwr.tamperPend

/-- The global epoch moves on (R419). -/
def bumpEpoch (s : State) : State := { s with pwr := { s.pwr with epoch := s.pwr.epoch + 1 } }

/-- The slot-distance of a deadline from the current slot (R311). -/
def distance (s : State) (d : BitVec 20) : Nat := (d - s.dau.slot).toNat

/-- Contexts that belong to a job. -/
def liveCtxs (s : State) : List Nat := s.ctxs.map (·.1)

end Sys2Proof.Machine
end

