-- ==== Sys2Proof/Machine/Recorder.lean ====
section
/-! DEFINITION. The event recorder: offering a record, programming it, the persistent counts, and the commands
of the EVR (R436 to R447). The module's own detections offer their records in the step in which they happen
(log entry 17). -/

namespace Sys2Proof.Machine

/-- Severities of R436. -/
def sevInfo : Nat := 0
def sevNotice : Nat := 1
def sevWarning : Nat := 2
def sevFault : Nat := 3
def sevCritical : Nat := 4

/-- The token-bucket state of a code. -/
def getCode (s : State) (code : Nat) : CodeState := tget CodeState.full s.evr.codes code

/-- Writes the token-bucket state of a code. -/
def setCode (s : State) (code : Nat) (c : CodeState) : State :=
  { s with evr := { s.evr with codes := tset CodeState.full s.evr.codes code c } }

/-- A record's 28 bytes before its check (R436). -/
def recordBody (s : State) (code sev src p0 p1 p2 supcnt : Nat) (supsat : Bool) : Nat :=
  code % 65536 + 2 ^ 16 * (sev % 16) + 2 ^ 20 * (src % 64) + 2 ^ 26 * b2n supsat + 2 ^ 27 * b2n s.pwr.pfw
    + 2 ^ 32 * s.evr.pcc.toNat + 2 ^ 56 * s.evr.opt.toNat + 2 ^ 96 * s.evr.tick.toNat
    + 2 ^ 128 * (p0 % 2 ^ 32) + 2 ^ 160 * (p1 % 2 ^ 32) + 2 ^ 192 * (p2 % 65536) + 2 ^ 208 * (supcnt % 65536)

/-- A whole record: the body and CHK over bytes 0x00 to 0x1B (R437). -/
def sealRecord (body : Nat) : BitVec 256 :=
  BitVec.ofNat 256 (body + 2 ^ 224 * crc16 (bytesOf body 28))

/-- The persistent counts are written to the copy that is not the newer (R438). -/
def persist (s : State) : State :=
  let p : Persist := { valid := true, pcc := s.evr.pcc, opt := s.evr.opt, dropped := s.evr.dropped }
  if s.evr.newer then { s with evr := { s.evr with copy0 := p, newer := false, optSince := 0 } }
  else { s with evr := { s.evr with copy1 := p, newer := true, optSince := 0 } }

/-- Starts the flush engine (R441). A pass over an empty buffer ends at once, with the counts written (R438, R442). -/
def startFlush (s : State) : State :=
  if s.evr.buf = [] then persist s else { s with evr := { s.evr with flushing := true } }

/-- Step 3 of R440: the record is dropped and counted (R444). -/
def dropRecord (s : State) : State :=
  let s1 : State := { s with evr := { s.evr with dropped := satInc s.evr.dropped, dropSeen := true } }
  if s.evr.dropSeen then s1 else raiseIrq s1 .evr 4#32

/-- Step 4 of R440: the record is stamped and enters the buffer. -/
def admitRecord (s : State) (code sev src p0 p1 p2 : Nat) : State :=
  let c := getCode s code
  let r := sealRecord (recordBody s code sev src p0 p1 p2 c.supcnt.toNat c.supsat)
  let s1 := setCode s code { c with supcnt := 0, supsat := false }
  let s2 : State := { s1 with evr := { s1.evr with buf := s1.evr.buf ++ [r] } }
  let s3 : State := if 3 ≤ sev then
      { s2 with evr := { s2.evr with crashCode := BitVec.ofNat 16 code, crashSev := BitVec.ofNat 4 sev } } else s2
  if 3 ≤ sev ∨ 1024 ≤ s3.evr.buf.length ∨ s3.pwr.pfw = true then startFlush s3 else s3

/-- Steps 1 and 2 of R440 on the token bucket: a token taken, with the TICK of a fall below 16 (R439). -/
def takeToken (s : State) (code : Nat) : State :=
  let c := getCode s code
  setCode s code
    (if c.missing = 0 then { c with missing := 1, base := s.evr.tick } else { c with missing := c.missing + 1 })

/-- The EVR handles a record that is offered (R440). -/
def offer (s : State) (code sev src p0 p1 p2 : Nat) : State :=
  let c := getCode s code
  if 16 ≤ c.missing then
    let c' := if c.supcnt = 0xFFFF#16 then { c with supsat := true } else { c with supcnt := c.supcnt + 1 }
    let s1 := setCode s code c'
    { s1 with evr := { s1.evr with supp := satInc s1.evr.supp } }
  else
    let s1 := takeToken s code
    if 65536 ≤ s1.evr.log.length + s1.evr.buf.length ∨ 2048 ≤ s1.evr.buf.length then dropRecord s1
    else admitRecord s1 code sev src p0 p1 p2

/-- The flush engine programs the oldest buffered record (R441, R443), with the conditions HALF and FULL (R447). -/
def programOne (s : State) : State :=
  match s.evr.buf with
  | [] => { s with evr := { s.evr with flushing := false } }
  | r :: rest =>
    let s1 : State := { s with evr := { s.evr with log := s.evr.log ++ [r], buf := rest, flushing := !rest.isEmpty } }
    let s2 := if s1.evr.log.length = 32768 then raiseIrq s1 .evr 1#32 else s1
    if s2.evr.log.length = 65536 then raiseIrq s2 .evr 2#32 else s2

/-- Programs as many records as a number allows: a flush pass over the buffer (R441). -/
def programAll : Nat → State → State
  | 0, s => s
  | n + 1, s => if s.evr.buf = [] then { s with evr := { s.evr with flushing := false } } else programAll n (programOne s)

/-- A whole flush pass (R441, R445). -/
def flushPass (s : State) : State := programAll (s.evr.buf.length + 1) s

/-- A reset of any kind: the epoch moves and a RESET record is offered (R456, R419). -/
def resetRecord (s : State) (kind p1 : Nat) : State := offer (bumpEpoch s) 0x0105 sevNotice 33 kind p1 0

/-- A token's interval in microseconds: ⌈10^6 / RATE⌉ (R439). -/
def tokenInterval (s : State) : Nat := cdiv 1000000 s.evr.rate.active.toNat

/-- The codes whose severity R446 fixes, by severity. -/
def sevCodes : List (Nat × List Nat) :=
  [(sevInfo, [0x0101]),
   (sevNotice, [0x0103, 0x0105, 0x0109, 0x010B, 0x0202, 0x0214, 0x0303, 0x0402, 0x0503, 0x0801]),
   (sevWarning, [0x010C, 0x0204, 0x0215, 0x0216, 0x0304, 0x0501, 0x0601, 0x0701, 0x0702, 0x0802]),
   (sevFault, [0x0102, 0x0104, 0x0106, 0x010D, 0x0201, 0x0203, 0x0211, 0x0212, 0x0213, 0x0218, 0x0301, 0x0302, 0x0305, 0x0401, 0x0403,
     0x0404, 0x0502, 0x0602]),
   (sevCritical, [0x0107, 0x0108, 0x010A])]

/-- The severity of FM_DEVICE_EVENT, by that of the CXL event record (R446). -/
def cxlSev (n : Nat) : Nat :=
  match n with
  | 0 => sevInfo | 1 => sevWarning | 2 => sevFault | _ => sevCritical

/-- The severity with which a code is recorded; none for a code that the module does not emit (R446). -/
def recordSev (code cxl : Nat) : Option Nat :=
  if code = 0x0217 then some (cxlSev cxl) else (sevCodes.find? (fun e => e.2.contains code)).map (·.1)

/-- Thaid runs: the MG island is powered, and one of the two images boots (R454). -/
def fwRuns (s : State) : Bool := s.pwr.powered && decide (s.pwr.badImages ≠ 3)

/-- EVR_RECORD_OFFER: Thaid offers a record of R446 (R440). -/
def execEvrRecordOffer (r : RecordOffer) (s : State) : Host.Outcome State Fault Refusal :=
  match (if fwRuns s then recordSev r.code.toNat r.sev.val else none) with
  | some v => .next (offer s r.code.toNat v r.src.val r.p0.toNat r.p1.toNat r.p2.toNat)
  | none => .next s

/-- EVR_TOKEN_REFILL: the bucket of a code gains one token once its interval has passed, counted from the fall below 16 or from the end of the
interval before it (R439). -/
def execEvrTokenRefill (code : BitVec 16) (s : State) : Host.Outcome State Fault Refusal :=
  let c := getCode s code.toNat
  if c.missing = 0 ∨ (s.evr.tick - c.base).toNat < tokenInterval s then .next s
  else if c.missing = 1 then .next (setCode s code.toNat { c with missing := 0, base := 0 })
  else .next (setCode s code.toNat { c with missing := c.missing - 1, base := c.base + BitVec.ofNat 32 (tokenInterval s) })

/-- EVR_CTRL_FLUSH: a write of 1 to EVR_CTRL.FLUSH, by firmware or the PF host (R441, R447). -/
def execEvrCtrlFlush (ag : Agent) (s : State) : Host.Outcome State Fault Refusal :=
  match ag with
  | .host f => if f = 0 then .next (startFlush s) else .next s
  | .fw => .next (if fwRuns s then startFlush s else s)
  | .j9 => .next s

/-- OPT_TICK: the operating time counts on while MG is powered, up to 2^40 - 1 (R438). -/
def execOptTick (s : State) : Host.Outcome State Fault Refusal :=
  if s.pwr.powered then
    .next { s with evr := { s.evr with opt := if s.evr.opt = BitVec.allOnes 40 then s.evr.opt else s.evr.opt + 1,
                                       optSince := s.evr.optSince + 1 } }
  else .next s

/-- EVR_PERSIST_COUNTS: after every 256 OPT units the counts are written to flash (R438). -/
def execEvrPersistCounts (s : State) : Host.Outcome State Fault Refusal :=
  if 256 ≤ s.evr.optSince then .next (persist s) else .next s

/-- One microsecond passes with no command: TICK counts while the MG island is powered (R438). -/
def idle (s : State) : State :=
  if s.pwr.powered then { s with evr := { s.evr with tick := s.evr.tick + 1 } } else s

end Sys2Proof.Machine
end

