-- ==== Sys2Proof/Machine/Concentrator.lean ====
section
/-! DEFINITION. The event concentrator: the state of a source, presentation, claim and completion, hold-off and
its commands (R384 to R404). Waking a context for a presented sequencer is in Machine/Scheduling.lean. -/

namespace Sys2Proof.Machine

/-- A level source (R384): the page interrupts. -/
def srcLevel (n : Nat) : Bool :=
  (1 ≤ n && n ≤ 0x00B) || (0x010 ≤ n && n ≤ 0x01B) || (0x020 ≤ n && n ≤ 0x025) || (0x028 ≤ n && n ≤ 0x03F)

/-- A pulse source (R384): the sequencers' LOCKED sources and the software sources. -/
def srcPulse (n : Nat) : Bool := (0x040 ≤ n && n ≤ 0x04F) || (0x080 ≤ n && n ≤ 0x7FF)

/-- The page whose interrupt a level source carries (R384). -/
def srcPage (n : Nat) : Option PageId :=
  match n with
  | 1 => some .glb | 2 => some .pwr | 3 => some .evr | 4 => some .hlk | 5 => some .rqe | 6 => some .dau
  | 7 => some .csc | 8 => some .map | 9 => some .dir | 10 => some .lms | 11 => some .fab
  | _ =>
    if h : 0x10 ≤ n ∧ n < 0x1C then some (.lmc ⟨n - 0x10, by omega⟩)
    else if h : 0x20 ≤ n ∧ n < 0x26 then some (.xpt ⟨n - 0x20, by omega⟩)
    else if h : 0x28 ≤ n ∧ n < 0x30 then some (.pipe ⟨n - 0x28, by omega⟩)
    else if h : 0x30 ≤ n ∧ n < 0x40 then some (.seq ⟨n - 0x30, by omega⟩)
    else none

/-- The active entry of a source. -/
def srcCfg (s : State) (n : Nat) : SrcCfg := tget SrcCfg.reset s.evc.cfg.active n

/-- The state bits of a source. -/
def srcState (s : State) (n : Nat) : SrcState := tget SrcState.reset s.evc.src n

/-- Writes the state bits of a source. -/
def setSrc (s : State) (n : Nat) (x : SrcState) : State :=
  { s with evc := { s.evc with src := tset SrcState.reset s.evc.src n x } }

/-- A group's hold-off entry. -/
def getGrp (s : State) (g : Nat) : Grp := tget Grp.reset s.evc.grp g

/-- Writes a group's hold-off entry. -/
def setGrp (s : State) (g : Nat) (x : Grp) : State :=
  { s with evc := { s.evc with grp := tset Grp.reset s.evc.grp g x } }

/-- Whether a source is pending (R387): a level source while its input is asserted and it is not in service, a
pulse source as recorded; never with EN = 0. Number 0 is no source (R384). -/
def srcPending (s : State) (n : Nat) : Bool :=
  let x := srcState s n
  decide (n ≠ 0) && (srcCfg s n).en && (if srcLevel n then x.input && x.insvc.isNone else x.pend)

/-- Whether a source is presentable to its target (R391). -/
def presentable (s : State) (n : Nat) : Bool :=
  srcPending s n && !(srcState s n).mask && (srcState s n).insvc.isNone && !(getGrp s (n / 16)).hact

/-- The better of two sources for a target: the higher priority, then the lower number (R391). -/
def betterSrc (s : State) (a b : Nat) : Nat :=
  if (srcCfg s b).prio.toNat > (srcCfg s a).prio.toNat then b else a

/-- The presentable sources of a target, in rising order. Only sources with an entry can be enabled. -/
def presentableOf (s : State) (t : Fin 18) : List Nat :=
  (s.evc.cfg.active.map (·.1)).filter (fun n => decide ((srcCfg s n).tgt.toNat = t.val) && presentable s n)

/-- A target's candidate (R391). -/
def candidate (s : State) (t : Fin 18) : Option Nat :=
  match presentableOf s t with
  | [] => none
  | n :: ns => some (ns.foldl (betterSrc s) n)

/-- A source that is no longer presentable may send a message again when it next becomes so (R397). -/
def evcSettle (s : State) : State :=
  s.evc.src.foldl (fun a e => if e.2.sent && !presentable a e.1 then setSrc a e.1 { srcState a e.1 with sent := false } else a) s

/-- Starts a group's hold-off (R398): HOLDOFF = 0 disables it. -/
def startHoldoff (s : State) (g : Nat) : State :=
  let x := getGrp s g
  if x.holdoff = 0 then s else setGrp s g { x with hact := true }

/-- A claim for a target (R392): the source claimed, 0 if none. -/
def claim (s : State) (t : Fin 18) : State × Nat :=
  match candidate s t with
  | none => ({ s with evc := { s.evc with spur := vmod s.evc.spur t satInc } }, 0)
  | some n =>
    let s1 := setSrc s n { srcState s n with pend := false, insvc := some t }
    (evcSettle (startHoldoff s1 (n / 16)), n)

/-- The AS island runs, so the EVC acts (R401). -/
def evcUp (s : State) : Bool := islandUp s islAS

/-- COMPLETE of a source by a target (R388, R393). -/
def completeSrc (s : State) (t : Fin 18) (n : Nat) : State :=
  if (srcState s n).insvc = some t then setSrc s n { srcState s n with insvc := none } else countErr s .evc

/-- A completion reaches the EVC: it waits while QUIESCE holds it (R482), and a disabled EVC performs none (R476). -/
def completeAt (s : State) (t : Fin 18) (n : Fin 2048) : State :=
  if !(hdr s .evc).en then s
  else if (hdr s .evc).held then { s with parked := s.parked ++ [.complete t n] }
  else completeSrc s t n.val

/-- A source that hardware pulses: the sequencers' LOCKED sources. A software source is set through EVC_PEND_SET only (R384). -/
def srcHard (n : Nat) : Bool := decide (0x040 ≤ n) && decide (n ≤ 0x04F)

/-- A pulse arrives at a source (R387): discarded while EN = 0, of the source or of the EVC, which then performs nothing (R476). Log
entry 29. -/
def applyPulse (s : State) (n : Fin 2048) : State :=
  if (hdr s .evc).en && srcHard n.val && (srcCfg s n.val).en then setSrc s n.val { srcState s n.val with pend := true } else s

/-- Pulses wait at the crossing: the AS island is not in RUN (R401), or QUIESCE holds the EVC (R482). -/
def pulsesWait (s : State) : Bool := !evcUp s || (hdr s .evc).held

/-- A hardware pulse; held at the crossing, one per source. -/
def evcPulse (s : State) (n : Fin 2048) : State :=
  if !pulsesWait s then applyPulse s n
  else if s.evc.held.contains n then s else { s with evc := { s.evc with held := s.evc.held ++ [n] } }

/-- The pulses that wait at the crossing are applied. -/
def releasePulses (s : State) : State :=
  if pulsesWait s then s else s.evc.held.foldl applyPulse { s with evc := { s.evc with held := [] } }

/-- Changes the state bits of the sources of bitmap word w whose bit is set. -/
def forBits (s : State) (w : Fin 64) (b : Reg32) (f : Nat → SrcState → SrcState) : State :=
  (List.range 32).foldl (fun a i =>
    if b.getLsbD i && decide (32 * w.val + i ≠ 0) then setSrc a (32 * w.val + i) (f (32 * w.val + i) (srcState a (32 * w.val + i)))
    else a) s

/-- EVC_LEVEL_INPUT_CHANGE: the input of a level source follows its page's PEND and not MSK (R385, R387). -/
def execEvcLevelInputChange (n : Fin 2048) (s : State) : Host.Outcome State Fault Refusal :=
  match srcPage n.val with
  | none => .next s
  | some pg =>
    if evcUp s then
      let h := hdr s pg
      .next (evcSettle (setSrc s n.val { srcState s n.val with input := decide (h.pend &&& ~~~h.msk ≠ 0) }))
    else .next s

/-- EVC_PULSE: a hardware pulse (R387). -/
def execEvcPulse (n : Fin 2048) (s : State) : Host.Outcome State Fault Refusal := .next (evcPulse s n)

/-- EVC_PEND_SET: sets PEND of enabled pulse sources (R387). -/
def execEvcPendSet (w : Fin 64) (b : Reg32) (s : State) : Host.Outcome State Fault Refusal :=
  if evcUp s then
    .next (forBits s w b (fun n x => if srcPulse n && (srcCfg s n).en then { x with pend := true } else x))
  else .next s

/-- EVC_PEND_CLR: clears PEND of pulse sources (R387). -/
def execEvcPendClr (w : Fin 64) (b : Reg32) (s : State) : Host.Outcome State Fault Refusal :=
  if evcUp s then
    .next (evcSettle (forBits s w b (fun n x => if srcLevel n then x else { x with pend := false })))
  else .next s

/-- EVC_MASK_SET: masks sources (R389). -/
def execEvcMaskSet (w : Fin 64) (b : Reg32) (s : State) : Host.Outcome State Fault Refusal :=
  if evcUp s then .next (evcSettle (forBits s w b (fun _ x => { x with mask := true }))) else .next s

/-- EVC_MASK_CLR: unmasks sources (R389). -/
def execEvcMaskClr (w : Fin 64) (b : Reg32) (s : State) : Host.Outcome State Fault Refusal :=
  if evcUp s then .next (forBits s w b (fun _ x => { x with mask := false })) else .next s

/-- The value a read of TGT_CLAIM returns for a source. -/
def claimValue (s : State) (n : Nat) : Reg32 :=
  if n = 0 then 0 else BitVec.ofNat 32 (n + 2 ^ 12 * (srcCfg s n).prio.toNat)

/-- A read of TGT_CLAIM claims when firmware reads page 16 or the PF host page 17 (R403). -/
def claims (ag : Agent) (t : Fin 18) : Bool :=
  match ag with
  | .fw => t = 16
  | .host f => f = 0 && t = 17
  | .j9 => false

/-- A claim read (R392, R396, R397): it waits while QUIESCE holds the EVC (R482), and a disabled EVC claims nothing (R476). -/
def claimRead (s : State) (ag : Agent) (t : Fin 18) : State :=
  if !evcUp s || !(hdr s .evc).en then send s (.reg ag 0)
  else if (hdr s .evc).held then { s with parked := s.parked ++ [.claim ag t] }
  else
    let v := claim s t
    send v.1 (.reg ag (claimValue s v.2))

/-- TGT_CLAIM: a claim read, or a read without side effect (R403). -/
def execTgtClaim (ag : Agent) (t : Fin 18) (s : State) : Host.Outcome State Fault Refusal :=
  if claims ag t then .next (claimRead s ag t)
  else if !evcUp s || !(hdr s .evc).en then .next (send s (.reg ag 0))
  else .next (send s (.reg ag (claimValue s ((candidate s t).getD 0))))

/-- TGT_COMPLETE: a completion write; ignored on pages 0 to 15 (R388, R393, R403). -/
def execTgtComplete (ag : Agent) (t : Fin 18) (src : Fin 2048) (s : State) : Host.Outcome State Fault Refusal :=
  if evcUp s && decide (16 ≤ t.val) && ag ≠ .j9 && (match ag with | .host f => f = 0 | _ => true) then
    .next (completeAt s t src)
  else .next s

/-- EVC_HOLDOFF_END: a group's hold-off ends (R398). -/
def execEvcHoldoffEnd (g : Fin 128) (s : State) : Host.Outcome State Fault Refusal :=
  .next (setGrp s g.val { getGrp s g.val with hact := false })

end Sys2Proof.Machine
end

