-- ==== Sys2Proof/Machine/Flags.lean ====
section
/-! DEFINITION. Floating point and its flags (R201 to R220): exact values, one rounding, flushing of subnormals. A flag
set is a number with the layout of FCSR[5:0]: IV 32, DZ 16, OF 8, UF 4, PE 2, DN 1. -/

namespace Sys2Proof.Machine

/-- A format: exponent bits and fraction bits. -/
structure Fmt where
  eb : Nat
  fb : Nat
  deriving DecidableEq, Repr

def fmt16 : Fmt := ⟨5, 10⟩
def fmt32 : Fmt := ⟨8, 23⟩
def fmt64 : Fmt := ⟨11, 52⟩

def Fmt.bias (f : Fmt) : Nat := 2 ^ (f.eb - 1) - 1
def Fmt.width (f : Fmt) : Nat := f.eb + f.fb + 1

/-- A result: its bits, its flags, and whether it was tiny or read a subnormal (R209). -/
structure FpRes where
  val : Nat
  fl : Nat
  tiny : Bool
  sub : Bool
  deriving DecidableEq, Repr

/-- A value as an operation reads it: finite values are m × 2^e, subnormals read as zero (R208). -/
inductive Fp where
  | nan (sig : Bool)
  | inf (neg : Bool)
  | fin (neg : Bool) (m : Nat) (e : Int)
  deriving DecidableEq, Repr

/-- The encodings of special values (R201). -/
def fpNan (f : Fmt) : Nat := (2 ^ f.eb - 1) * 2 ^ f.fb + 2 ^ (f.fb - 1)
def fpInf (f : Fmt) (neg : Bool) : Nat := b2n neg * 2 ^ (f.eb + f.fb) + (2 ^ f.eb - 1) * 2 ^ f.fb
def fpMax (f : Fmt) (neg : Bool) : Nat := fpInf f neg - 1
def fpZero (f : Fmt) (neg : Bool) : Nat := b2n neg * 2 ^ (f.eb + f.fb)

/-- Reads a value. -/
def fpRead (f : Fmt) (x : Nat) : Fp :=
  let neg := x.testBit (f.eb + f.fb)
  let ex := bits x f.fb f.eb
  let fr := bits x 0 f.fb
  if ex = 2 ^ f.eb - 1 then (if fr = 0 then .inf neg else .nan (!fr.testBit (f.fb - 1)))
  else if ex = 0 then .fin neg 0 0
  else .fin neg (2 ^ f.fb + fr) ((ex : Int) - f.bias - f.fb)

/-- Whether a value is subnormal. -/
def fpSub (f : Fmt) (x : Nat) : Bool := decide (bits x f.fb f.eb = 0) && decide (bits x 0 f.fb ≠ 0)

/-- Whether a value is a signalling NaN. -/
def fpSig (f : Fmt) (x : Nat) : Bool := match fpRead f x with | .nan sg => sg | _ => false

/-- Number of significant bits of a number. -/
def bitLen (n : Nat) : Nat := if n = 0 then 0 else n.log2 + 1

/-- Whether rounding moves the magnitude up: the remainder against half, the parity, and what lies below. -/
def roundUp (rm : Nat) (neg odd : Bool) (rem half : Nat) (sticky : Bool) : Bool :=
  let inexact := decide (rem ≠ 0) || sticky
  match rm with
  | 0 => decide (half < rem) || (decide (rem = half) && decide (0 < half) && (sticky || odd))
  | 1 => false
  | 2 => !neg && inexact
  | 3 => neg && inexact
  | _ => decide (0 < half) && decide (half ≤ rem)

/-- The result of an overflow (R206). -/
def fpOverflow (f : Fmt) (rm : Nat) (neg : Bool) : FpRes :=
  let big := match rm with
    | 1 => fpMax f neg
    | 2 => if neg then fpMax f neg else fpInf f neg
    | 3 => if neg then fpInf f neg else fpMax f neg
    | _ => fpInf f neg
  ⟨big, 8 + 2, false, false⟩

/-- Rounds m × 2^e, with something nonzero below it if sticky, to a format (R205 to R207). -/
def fpRound (f : Fmt) (rm : Nat) (neg : Bool) (m : Nat) (e : Int) (sticky : Bool) : FpRes :=
  if m = 0 then ⟨fpZero f neg, 0, false, false⟩
  else
    let p := f.fb + 1
    let sh := bitLen m - p
    let q := m >>> sh
    let rem := m % 2 ^ sh
    let half := if sh = 0 then 0 else 2 ^ (sh - 1)
    let q1 := if roundUp rm neg (q.testBit 0) rem half sticky then q + 1 else q
    let inexact := decide (rem ≠ 0) || sticky
    let top : Int := e + sh + (bitLen q1 : Int) - 1
    if top > (f.bias : Int) then fpOverflow f rm neg
    else if top < 1 - (f.bias : Int) then ⟨fpZero f neg, 4 + 2, true, false⟩
    else
      let frac := if bitLen q1 ≤ p then q1 <<< (p - bitLen q1) else q1 >>> (bitLen q1 - p)
      ⟨b2n neg * 2 ^ (f.eb + f.fb) + (top + f.bias).toNat * 2 ^ f.fb + (frac - 2 ^ f.fb), if inexact then 2 else 0, false, false⟩

/-- A NaN result, with IV when any operand is signalling. -/
def fpNanRes (f : Fmt) (iv : Bool) : FpRes := ⟨fpNan f, if iv then 32 else 0, false, false⟩

/-- Adds the flags of subnormal operands (R208). -/
def withSub (f : Fmt) (xs : List Nat) (r : FpRes) : FpRes :=
  if xs.any (fpSub f) then { r with fl := r.fl ||| 1, sub := true } else r

/-- The exact sum of two finite values, rounded once, with the zero signs of R217. -/
def fpSum (f : Fmt) (rm : Nat) (n1 : Bool) (m1 : Nat) (e1 : Int) (n2 : Bool) (m2 : Nat) (e2 : Int) : FpRes :=
  let e := min e1 e2
  let v1 : Int := (if n1 then -1 else 1) * (m1 <<< (e1 - e).toNat : Nat)
  let v2 : Int := (if n2 then -1 else 1) * (m2 <<< (e2 - e).toNat : Nat)
  let v := v1 + v2
  if v = 0 then
    ⟨fpZero f (if m1 = 0 ∧ m2 = 0 ∧ n1 = n2 then n1 else decide (rm = 3)), 0, false, false⟩
  else if m1 = 0 then fpRound f rm n2 m2 e2 false
  else if m2 = 0 then fpRound f rm n1 m1 e1 false
  else fpRound f rm (decide (v < 0)) v.natAbs e false

/-- FADD (R217). -/
def fpAdd (f : Fmt) (rm : Nat) (a b : Nat) : FpRes :=
  withSub f [a, b] (match fpRead f a, fpRead f b with
    | .nan sa, .nan sb => fpNanRes f (sa || sb)
    | .nan sa, _ => fpNanRes f sa
    | _, .nan sb => fpNanRes f sb
    | .inf na, .inf nb => if na = nb then ⟨fpInf f na, 0, false, false⟩ else fpNanRes f true
    | .inf na, _ => ⟨fpInf f na, 0, false, false⟩
    | _, .inf nb => ⟨fpInf f nb, 0, false, false⟩
    | .fin na ma ea, .fin nb mb eb => fpSum f rm na ma ea nb mb eb)

/-- Inverts the sign of a value. -/
def fpFlip (f : Fmt) (x : Nat) : Nat := x ^^^ 2 ^ (f.eb + f.fb)

/-- FMA and its variants (R218): ±(a × b) ± c, rounded once; np and nc negate the product and c. -/
def fpFma (f : Fmt) (rm : Nat) (np nc : Bool) (a b c : Nat) : FpRes :=
  let sgs := fpSig f a || fpSig f b || fpSig f c
  withSub f [a, b, c] (match fpRead f a, fpRead f b, fpRead f c with
    | .fin _ 0 _, .inf _, _ => fpNanRes f true
    | .inf _, .fin _ 0 _, _ => fpNanRes f true
    | .nan _, _, _ => fpNanRes f sgs
    | _, .nan _, _ => fpNanRes f sgs
    | _, _, .nan _ => fpNanRes f sgs
    | .fin na ma ea, .fin nb mb eb, .fin n m e =>
      fpSum f rm (xor (xor na nb) np) (ma * mb) (ea + eb) (xor n nc) m e
    | .fin _ _ _, .fin _ _ _, .inf n => ⟨fpInf f (xor n nc), 0, false, false⟩
    | x, y, z =>
      let sgn : Fp → Bool := fun v => match v with | .inf n => n | .fin n _ _ => n | .nan _ => false
      let pn := xor (xor (sgn x) (sgn y)) np
      match z with
      | .inf n => if pn = xor n nc then ⟨fpInf f pn, 0, false, false⟩ else fpNanRes f true
      | _ => ⟨fpInf f pn, 0, false, false⟩)

/-- FMUL (R218). -/
def fpMul (f : Fmt) (rm : Nat) (a b : Nat) : FpRes :=
  let sgs := fpSig f a || fpSig f b
  withSub f [a, b] (match fpRead f a, fpRead f b with
    | .nan _, _ => fpNanRes f sgs
    | _, .nan _ => fpNanRes f sgs
    | .inf _, .fin _ 0 _ => fpNanRes f true
    | .fin _ 0 _, .inf _ => fpNanRes f true
    | .inf na, .inf nb => ⟨fpInf f (xor na nb), 0, false, false⟩
    | .inf na, .fin nb _ _ => ⟨fpInf f (xor na nb), 0, false, false⟩
    | .fin na _ _, .inf nb => ⟨fpInf f (xor na nb), 0, false, false⟩
    | .fin na ma ea, .fin nb mb eb => fpRound f rm (xor na nb) (ma * mb) (ea + eb) false)

/-- FDIV (R219). -/
def fpDiv (f : Fmt) (rm : Nat) (a b : Nat) : FpRes :=
  let sgs := fpSig f a || fpSig f b
  withSub f [a, b] (match fpRead f a, fpRead f b with
    | .nan _, _ => fpNanRes f sgs
    | _, .nan _ => fpNanRes f sgs
    | .inf _, .inf _ => fpNanRes f true
    | .inf na, .fin nb _ _ => ⟨fpInf f (xor na nb), 0, false, false⟩
    | .fin na _ _, .inf nb => ⟨fpZero f (xor na nb), 0, false, false⟩
    | .fin na ma ea, .fin nb mb eb =>
      if mb = 0 then (if ma = 0 then fpNanRes f true else ⟨fpInf f (xor na nb), 16, false, false⟩)
      else
        let k := f.fb + 4 + bitLen mb - bitLen ma
        fpRound f rm (xor na nb) ((ma <<< k) / mb) (ea - eb - k) (decide ((ma <<< k) % mb ≠ 0)))

/-- The integer square root of a number below 2^(2n), one bit at a time. -/
def isqrt (x : Nat) : Nat → Nat → Nat
  | 0, r => r
  | n + 1, r => if (r + 2 ^ n) * (r + 2 ^ n) ≤ x then isqrt x n (r + 2 ^ n) else isqrt x n r

/-- FSQRT (R219). -/
def fpSqrt (f : Fmt) (rm : Nat) (a : Nat) : FpRes :=
  withSub f [a] (match fpRead f a with
    | .nan sg => fpNanRes f sg
    | .inf neg => if neg then fpNanRes f true else ⟨fpInf f false, 0, false, false⟩
    | .fin neg m e =>
      if m = 0 then ⟨fpZero f neg, 0, false, false⟩
      else if neg then fpNanRes f true
      else
        let m1 := if e % 2 = 0 then m else m * 2
        let e1 := if e % 2 = 0 then e else e - 1
        let k := f.fb + 4
        let x := m1 <<< (2 * k)
        let r := isqrt x (f.fb + k + 3) 0
        fpRound f rm false r (e1 / 2 - k) (decide (r * r ≠ x)))

/-- The order of two values that are not NaNs: the sign of a − b, with −0 below +0 when zeros are told apart. -/
def fpOrder (zeros : Bool) (a b : Fp) : Int :=
  let key : Fp → Int × Int × Int := fun v => match v with
    | .inf n => (if n then -1 else 1, 0, 0)
    | .fin n m e => (0, if n then -(m : Int) else (m : Int), e)
    | .nan _ => (0, 0, 0)
  let sgn : Fp → Bool := fun v => match v with | .inf n => n | .fin n _ _ => n | .nan _ => false
  let ka := key a
  let kb := key b
  if ka.1 ≠ kb.1 then ka.1 - kb.1
  else if ka.1 ≠ 0 then 0
  else
    let e := min ka.2.2 kb.2.2
    let va := ka.2.1 * ((1 <<< (ka.2.2 - e).toNat : Nat) : Int)
    let vb := kb.2.1 * ((1 <<< (kb.2.2 - e).toNat : Nat) : Int)
    if va ≠ vb then va - vb
    else if zeros && decide (va = 0) && decide (sgn a ≠ sgn b) then (if sgn a then -1 else 1) else 0

/-- A value as read: a subnormal becomes the zero of its sign. -/
def fpFlush (f : Fmt) (x : Nat) : Nat := if fpSub f x then fpZero f (x.testBit (f.eb + f.fb)) else x

/-- FMIN and FMAX (R123). -/
def fpMinMax (f : Fmt) (mx : Bool) (a b : Nat) : FpRes :=
  let iv := if fpSig f a || fpSig f b then 32 else 0
  withSub f [a, b] (match fpRead f a, fpRead f b with
    | .nan _, .nan _ => ⟨fpNan f, iv, false, false⟩
    | .nan _, _ => ⟨fpFlush f b, iv, false, false⟩
    | _, .nan _ => ⟨fpFlush f a, iv, false, false⟩
    | x, y =>
      let d := fpOrder true x y
      ⟨if (mx && decide (0 ≤ d)) || (!mx && decide (d ≤ 0)) then fpFlush f a else fpFlush f b, 0, false, false⟩)

/-- The FP compares: 0 EQ, 1 NE, 2 LT, 3 LE, 4 GT, 5 GE (R123). -/
def fpCmp (f : Fmt) (k : Nat) (a b : Nat) : FpRes :=
  let sg := fpSig f a || fpSig f b
  withSub f [a, b] (match fpRead f a, fpRead f b with
    | .nan _, _ => ⟨if k = 1 then 1 else 0, if sg || decide (2 ≤ k) then 32 else 0, false, false⟩
    | _, .nan _ => ⟨if k = 1 then 1 else 0, if sg || decide (2 ≤ k) then 32 else 0, false, false⟩
    | x, y =>
      let d := fpOrder false x y
      ⟨b2n (match k with
        | 0 => decide (d = 0) | 1 => decide (d ≠ 0) | 2 => decide (d < 0)
        | 3 => decide (d ≤ 0) | 4 => decide (d > 0) | _ => decide (d ≥ 0)), 0, false, false⟩)

/-- FP to an integer of width w (R220). -/
def fpToInt (f : Fmt) (rm : Nat) (w : Nat) (signed : Bool) (a : Nat) : FpRes :=
  let lo : Int := if signed then -(2 ^ (w - 1) : Nat) else 0
  let hi : Int := if signed then ((2 ^ (w - 1) : Nat) : Int) - 1 else ((2 ^ w : Nat) : Int) - 1
  let enc := fun (v : Int) => (v % ((2 ^ w : Nat) : Int)).toNat
  withSub f [a] (match fpRead f a with
    | .nan _ => ⟨0, 32, false, false⟩
    | .inf n => ⟨enc (if n then lo else hi), 32, false, false⟩
    | .fin n m e =>
      let k := (-e).toNat
      let q := if 0 ≤ e then m <<< e.toNat else m >>> k
      let rem := if 0 ≤ e then 0 else m % 2 ^ k
      let half := if 0 ≤ e ∨ k = 0 then 0 else 2 ^ (k - 1)
      let q1 := if roundUp rm n (q.testBit 0) rem half false then q + 1 else q
      let v : Int := if n then -(q1 : Int) else q1
      if v < lo then ⟨enc lo, 32, false, false⟩
      else if hi < v then ⟨enc hi, 32, false, false⟩
      else ⟨enc v, if rem ≠ 0 then 2 else 0, false, false⟩)

/-- An integer to FP (R220). -/
def intToFp (f : Fmt) (rm : Nat) (v : Int) : FpRes := fpRound f rm (decide (v < 0)) v.natAbs 0 false

/-- FP to another FP format (R220). -/
def fpToFp (f g : Fmt) (rm : Nat) (a : Nat) : FpRes :=
  withSub f [a] (match fpRead f a with
    | .nan sg => fpNanRes g sg
    | .inf n => ⟨fpInf g n, 0, false, false⟩
    | .fin n m e => fpRound g rm n m e false)

end Sys2Proof.Machine
end

