-- ==== Sys2Proof/Machine/Catalogue.lean ====
section
/-! DEFINITION. The operation catalogue: element types, the operations of the ALU, MUL, FMA, PERM, HASH and KEY units on
element values, and the accumulating operations (R65, R106 to R135). Streams and the register form share it. -/

namespace Sys2Proof.Machine

/-! ## Element types (R65): 0 i8, 1 i16, 2 i32, 3 i64, 4 u8 to 7 u64, 8 f16, 9 f32, 10 f64, 11 b1 -/

/-- The width of a type in bits. -/
def tyW (t : Nat) : Nat :=
  match t with
  | 0 | 4 => 8 | 1 | 5 | 8 => 16 | 2 | 6 | 9 => 32 | 3 | 7 | 10 => 64 | _ => 1

/-- The size of a type in bytes; b1 is packed and has none. -/
def tySize (t : Nat) : Nat := if t = 11 then 0 else tyW t / 8

/-- Elements per wave of a type. -/
def tyWave (t : Nat) : Nat := if t = 11 then 512 else 4096 / tyW t

def tyInt (t : Nat) : Bool := decide (t < 8)
def tySigned (t : Nat) : Bool := decide (t < 4)
def tyFp (t : Nat) : Bool := decide (t = 9) || decide (t = 10)

/-- The format of an FP type. -/
def tyFmt (t : Nat) : Fmt := if t = 8 then fmt16 else if t = 9 then fmt32 else fmt64

/-- The value of an element of an integer type. -/
def tyVal (t n : Nat) : Int := if tySigned t && n.testBit (tyW t - 1) then (n : Int) - ((2 ^ tyW t : Nat) : Int) else n

/-- The element bits of an integer, modulo 2^w. -/
def tyEnc (t : Nat) (v : Int) : Nat := (v % ((2 ^ tyW t : Nat) : Int)).toNat

/-- The range of an integer type. -/
def tyMin (t : Nat) : Int := if tySigned t then -((2 ^ (tyW t - 1) : Nat) : Int) else 0
def tyMax (t : Nat) : Int := if tySigned t then ((2 ^ (tyW t - 1) : Nat) : Int) - 1 else ((2 ^ tyW t : Nat) : Int) - 1

/-- sat(x) of R112. -/
def tySat (t : Nat) (v : Int) : Nat := tyEnc t (if v < tyMin t then tyMin t else if tyMax t < v then tyMax t else v)

/-! ## Counting, permuting and timing -/

/-- Counts (R242): leading zeros, trailing zeros, ones, of a w-bit value. -/
def clzNat (w n : Nat) : Nat := ((List.range w).takeWhile (fun i => !n.testBit (w - 1 - i))).length
def ctzNat (w n : Nat) : Nat := ((List.range w).takeWhile (fun i => !n.testBit i)).length
def popcNat (w n : Nat) : Nat := ((List.range w).filter (fun i => n.testBit i)).length

/-- Byte j of PERMB (R125). -/
def permByte (a c j : Nat) : Nat :=
  let x := bits c (8 * j) 8
  let y := bits a (8 * (x % 8)) 8
  match x / 64 with
  | 0 => y
  | 1 => if y.testBit 7 then 0xFF else 0
  | 2 => 0
  | _ => 0xFF

/-- PERMB (R125). -/
def permb (a c : Nat) : Nat := natOf ((List.range 8).map (fun j => BitVec.ofNat 8 (permByte a c j)))

/-- Passes of a multiply (R192), and cycles of a divide (R195), for a width and a signedness. -/
def mulPasses (w : Nat) (signed : Bool) (b : Nat) : Nat :=
  let n := cdiv w 16
  let ok := fun (k : Nat) =>
    let hi := bits b (16 * k) (w - 16 * k)
    decide (hi = 0) && (!signed || !b.testBit (w - 1)) || (signed && b.testBit (w - 1) && decide (hi = 2 ^ (w - 16 * k) - 1))
  (((List.range n).map (· + 1)).find? (fun k => decide (n ≤ k) || ok k)).getD n
def sigBits (w : Nat) (n : Nat) : Nat := w - clzNat w n
def magOf (w : Nat) (signed : Bool) (n : Nat) : Nat := if signed && n.testBit (w - 1) then 2 ^ w - n else n
def divCycles (w : Nat) (signed : Bool) (a b : Nat) : Nat :=
  if b = 0 then 3
  else if signed && decide (a = 2 ^ (w - 1)) && decide (b = 2 ^ w - 1) then 3
  else 3 + cdiv (sigBits w (magOf w signed a) + 1 - sigBits w (magOf w signed b)) 2

/-! ## ZH64 (R131) -/

def zhC1 : Nat := 0xA3B195C2D4E6F781
def zhC2 : Nat := 0x6C8E9CF570932B4D

/-- bits64 of a value: −0 as +0, every NaN as the canonical quiet NaN. -/
def zhBits (t v : Nat) : Nat :=
  if tyFp t then
    (match fpRead (tyFmt t) v with
      | .nan _ => fpNan (tyFmt t)
      | _ => if v = fpZero (tyFmt t) true then 0 else v)
  else v

/-- The reference algorithm. -/
def zh64 (v size seed : Nat) : Nat :=
  let m := fun (n : Nat) => n % 2 ^ 64
  let x := v ^^^ m (zhC1 * seed) ^^^ m (size <<< 56)
  let x := m (zhC2 * x)
  let x := x ^^^ (x >>> 29)
  let x := m (zhC1 * x)
  x ^^^ (x >>> 32)

/-! ## AES-256 (R133): FIPS-197, PRESUMED (log entry 19) -/

/-- Multiplication by x in GF(2^8). -/
def aesX (a : Nat) : Nat := if a.testBit 7 then ((a <<< 1) ^^^ 0x11B) % 256 else a <<< 1

/-- Multiplication in GF(2^8). -/
def aesMul (a b : Nat) : Nat :=
  ((List.range 8).foldl (fun (st : Nat × Nat) i => (if b.testBit i then st.1 ^^^ st.2 else st.1, aesX st.2)) (0, a)).1

/-- The inverse in GF(2^8): a^254. -/
def aesInv (a : Nat) : Nat :=
  let a2 := aesMul a a
  let a4 := aesMul a2 a2
  let a8 := aesMul a4 a4
  let a16 := aesMul a8 a8
  let a32 := aesMul a16 a16
  let a64 := aesMul a32 a32
  let a128 := aesMul a64 a64
  aesMul a128 (aesMul a64 (aesMul a32 (aesMul a16 (aesMul a8 (aesMul a4 a2)))))

/-- The S-box. -/
def aesSub (a : Nat) : Nat :=
  let b := aesInv a
  let rot := fun (n : Nat) => ((b <<< n) ||| (b >>> (8 - n))) % 256
  b ^^^ rot 1 ^^^ rot 2 ^^^ rot 3 ^^^ rot 4 ^^^ 0x63

/-- One word of the expanded key, four bytes, from the words before it, newest first. -/
def aesWord (ws : List (List Nat)) (i rc : Nat) : List Nat :=
  let prev := ws.headD []
  let t := if i % 8 = 0 then
      (match prev with
        | [a, b, c, d] => [aesSub b ^^^ rc, aesSub c, aesSub d, aesSub a]
        | x => x)
    else if i % 8 = 4 then prev.map aesSub else prev
  List.zipWith (· ^^^ ·) (ws.getD 7 []) t

/-- Expands the key: n more words. -/
def aesExpand : Nat → Nat → Nat → List (List Nat) → List (List Nat)
  | 0, _, _, ws => ws.reverse
  | n + 1, i, rc, ws => aesExpand n (i + 1) (if i % 8 = 0 then aesX rc else rc) (aesWord ws i rc :: ws)

/-- Groups bytes in fours. -/
def aesCols : Nat → List Nat → List (List Nat)
  | 0, _ => []
  | n + 1, bs => bs.take 4 :: aesCols n (bs.drop 4)

/-- The 60 words of a 32-byte key. -/
def aesKey (key : List Nat) : List (List Nat) := aesExpand 52 8 1 (aesCols 8 key).reverse

/-- ShiftRows on 16 bytes in column order. -/
def aesShift (st : List Nat) : List Nat :=
  (List.range 16).map (fun i => st.getD ((i + 4 * (i % 4)) % 16) 0)

/-- MixColumns on one column. -/
def aesMix (c : List Nat) : List Nat :=
  match c with
  | [a, b, d, e] =>
    [aesX a ^^^ (aesX b ^^^ b) ^^^ d ^^^ e, a ^^^ aesX b ^^^ (aesX d ^^^ d) ^^^ e,
     a ^^^ b ^^^ aesX d ^^^ (aesX e ^^^ e), (aesX a ^^^ a) ^^^ b ^^^ d ^^^ aesX e]
  | x => x

/-- The rounds of an encryption, with the round keys that remain. -/
def aesRounds : List (List Nat) → List Nat → List Nat
  | [], st => st
  | [k], st => List.zipWith (· ^^^ ·) (aesShift (st.map aesSub)) k
  | k :: ks, st => aesRounds ks (List.zipWith (· ^^^ ·) ((aesCols 4 (aesShift (st.map aesSub))).flatMap aesMix) k)

/-- AES-256 encryption of a 16-byte block under a 32-byte key. -/
def aes256 (key blk : List Nat) : List Nat :=
  let ws := aesKey key
  let rk := (List.range 15).map (fun r => (ws.drop (4 * r)).take 4 |>.flatten)
  aesRounds (rk.drop 1) (List.zipWith (· ^^^ ·) blk (rk.headD []))

/-- Byte p of the keystream of a key and a nonce (R133). -/
def keystream (key nonce p : Nat) : Nat :=
  let k := (bytesOf key 32).map (·.toNat)
  let blk := (bytesOf nonce 8).map (·.toNat) ++ ((bytesOf (p / 16) 8).map (·.toNat)).reverse
  (aes256 k blk).getD (p % 16) 0

/-- KXOR at element i of size z (R133). -/
def kxor (key nonce i z a : Nat) : Nat :=
  natOf ((List.range z).map (fun m => BitVec.ofNat 8 (bits a (8 * m) 8 ^^^ keystream key nonce (i * z + m))))

/-! ## What the catalogue lists (R112 to R133) -/

/-- An operand's type. -/
inductive SrcTy where
  /-- T itself. -/
  | t
  /-- Any integer type: a shift count. -/
  | count
  /-- The free type S: an integer type, an FP type, the source of a conversion, or a key to hash. -/
  | sInt | sFp | sCvt | sCvtz | sHash
  | b1 | u64
  /-- A directory key, and a directory's operand b. -/
  | key | dirB
  deriving DecidableEq, Repr

/-- A row of the catalogue: the result types it accepts, its operands, whether it accumulates, and the forms it has. -/
structure CatRow where
  ts : List Nat
  srcs : List SrcTy
  acc : Bool
  stream : Bool
  reg : Bool
  deriving DecidableEq, Repr

def tsInt : List Nat := [0, 1, 2, 3, 4, 5, 6, 7]
def tsFp : List Nat := [9, 10]

def rowOf (ts : List Nat) (srcs : List SrcTy) : Option CatRow := some ⟨ts, srcs, false, true, true⟩
def rowAcc (ts : List Nat) (srcs : List SrcTy) : Option CatRow := some ⟨ts, srcs, true, true, true⟩

/-- The rows of ALU0 and ALU1 (R112, R116, R118, R119). -/
def aluRow (op : Nat) : Option CatRow :=
  match op with
  | 0x00 => rowOf (tsInt ++ tsFp ++ [11]) [.t]
  | 0x01 | 0x02 | 0x03 | 0x04 | 0x05 | 0x06 => rowOf tsInt [.t, .t]
  | 0x07 | 0x08 => rowOf tsInt [.t]
  | 0x09 | 0x0A | 0x0B | 0x0C => rowOf (tsInt ++ [11]) [.t, .t]
  | 0x0D => rowOf (tsInt ++ [11]) [.t]
  | 0x10 | 0x11 | 0x12 => rowOf tsInt [.t, .count]
  | 0x13 | 0x14 | 0x15 | 0x18 | 0x19 => rowOf tsInt [.t]
  | 0x1A => rowOf tsInt [.t, .t]
  | 0x1C | 0x1D | 0x1E => rowOf tsInt [.t]
  | 0x20 | 0x21 | 0x22 | 0x23 | 0x24 | 0x25 => rowOf [11] [.sInt, .sInt]
  | 0x28 | 0x29 => rowOf tsInt [.sInt]
  | 0x30 | 0x31 | 0x32 | 0x34 | 0x35 | 0x36 => rowAcc tsInt [.t]
  | 0x33 => rowAcc [7] [.b1]
  | 0x38 | 0x39 | 0x3A | 0x3C | 0x3D | 0x3E => rowAcc tsInt [.t, .b1]
  | 0x3B => rowAcc [7] [.b1, .b1]
  | 0x40 | 0x41 => rowAcc tsInt [.t]
  | _ => none

/-- The rows of every unit: 0 ALU0, 1 ALU1, 2 MUL, 3 FMA, 4 PERM, 5 HASH, 6 KEY. -/
def catRow (unit op : Nat) : Option CatRow :=
  match unit with
  | 0 | 1 => aluRow op
  | 2 => match op with
    | 0 | 1 | 2 | 3 | 4 => rowOf tsInt [.t, .t]
    | 8 => rowOf tsFp [.t, .t]
    | 9 => rowOf tsFp [.t]
    | _ => none
  | 3 => match op with
    | 0x00 | 0x01 | 0x02 | 0x08 | 0x09 => rowOf tsFp [.t, .t]
    | 0x03 | 0x04 | 0x05 => rowOf tsFp [.t, .t, .t]
    | 0x0A | 0x0B => rowOf tsFp [.t]
    | 0x10 | 0x11 | 0x12 | 0x13 | 0x14 | 0x15 => rowOf [11] [.sFp, .sFp]
    | 0x18 => rowOf (tsInt ++ [8] ++ tsFp) [.sCvt]
    | 0x19 => rowOf tsInt [.sCvtz]
    | 0x20 | 0x21 | 0x22 => rowAcc tsFp [.t]
    | _ => none
  | 4 => match op with
    | 0x00 => rowOf [3, 7] [.t, .u64]
    | 0x01 => rowAcc (tsInt ++ tsFp) [.t, .b1]
    | 0x10 | 0x11 => some ⟨tsInt ++ tsFp, [.t], false, false, true⟩
    | 0x12 => some ⟨[0], [.b1], false, false, true⟩
    | _ => none
  | 5 => match op with
    | 0x00 => rowOf [7] [.sHash, .u64]
    | 0x10 | 0x11 | 0x12 | 0x13 => rowOf [7, 11] [.key, .dirB]
    | _ => none
  | 6 => match op with
    | 0x00 => some ⟨tsInt ++ tsFp, [.t, .u64], false, true, false⟩
    | _ => none
  | _ => none

/-- A conversion's source and result types (R112, R122): different, and for FCVT at least one of them FP or f16. -/
def cvtOk (unit op t st : Nat) : Bool :=
  if unit ≤ 1 then tyInt t && tyInt st && decide (t ≠ st)
  else if op = 0x18 then decide (t ≤ 10) && decide (st ≤ 10) && decide (t ≠ st) && (!tyInt t || !tyInt st)
  else tyInt t && (decide (st = 8) || tyFp st)

/-- The reserved values of the BFX, BFXS and BFI immediate (R113). -/
def bfImmOk (t imm : Nat) : Bool :=
  let w := bits imm 6 7
  decide (1 ≤ w) && decide (w ≤ 64) && decide (bits imm 0 6 + w ≤ tyW t) && decide (bits imm 13 3 = 0)

/-- Whether an operation takes a bit-field immediate. -/
def isBf (unit op : Nat) : Bool := decide (unit ≤ 1) && (decide (op = 0x18) || decide (op = 0x19) || decide (op = 0x1A))

/-- Whether an operation takes a shift immediate. -/
def isShiftImm (unit op : Nat) : Bool := decide (unit ≤ 1) && (decide (op = 0x13) || decide (op = 0x14) || decide (op = 0x15))

/-- The interval of an operation (R108, R120). -/
def catInterval (unit op t : Nat) : Nat :=
  if unit = 2 then
    match op with
    | 0 | 1 | 2 => cdiv (tyW t) 16
    | 3 | 4 => tyW t / 2 + 3
    | _ => if t = 10 then 30 else 15
  else 1

/-! ## Element operations -/

/-- A result with no flag. -/
def plain (n : Nat) : FpRes := ⟨n, 0, false, false⟩

/-- The shifts with a count of the width or more (R112). -/
def elShl (t a n : Nat) : Nat := if tyW t ≤ n then 0 else (a <<< n) % 2 ^ tyW t
def elShr (t a n : Nat) : Nat := if tyW t ≤ n then 0 else a >>> n
def elSra (t a n : Nat) : Nat :=
  let k := min n (tyW t)
  if a.testBit (tyW t - 1) then (a >>> k) + (2 ^ tyW t - 2 ^ (tyW t - k)) else a >>> k

/-- Integer comparison: 0 EQ, 1 NE, 2 LT, 3 LE, 4 GT, 5 GE. -/
def elCmp (t k a b : Nat) : Nat :=
  let x := tyVal t a
  let y := tyVal t b
  b2n (match k with
    | 0 => decide (x = y) | 1 => decide (x ≠ y) | 2 => decide (x < y) | 3 => decide (x ≤ y) | 4 => decide (x > y)
    | _ => decide (x ≥ y))

/-- DIV and REM of elements (R120, R121, R197). -/
def elDiv (t a b : Nat) : Nat := if b = 0 then 2 ^ tyW t - 1 else tyEnc t ((tyVal t a).tdiv (tyVal t b))
def elRem (t a b : Nat) : Nat := if b = 0 then a else tyEnc t ((tyVal t a).tmod (tyVal t b))

/-- The ALU's element operations; st is the source type where it differs. -/
def aluOp (op t st imm a b : Nat) : Nat :=
  let w := tyW t
  match op with
  | 0x00 => a
  | 0x01 => (a + b) % 2 ^ w
  | 0x02 => (a + 2 ^ w - b) % 2 ^ w
  | 0x03 => tySat t (tyVal t a + tyVal t b)
  | 0x04 => tySat t (tyVal t a - tyVal t b)
  | 0x05 => if tyVal t a ≤ tyVal t b then a else b
  | 0x06 => if tyVal t a ≥ tyVal t b then a else b
  | 0x07 => tySat t ((tyVal t a).natAbs : Int)
  | 0x08 => (2 ^ w - a) % 2 ^ w
  | 0x09 => a &&& b
  | 0x0A => a ||| b
  | 0x0B => a ^^^ b
  | 0x0C => a &&& (b ^^^ (2 ^ w - 1))
  | 0x0D => a ^^^ (2 ^ w - 1)
  | 0x10 => elShl t a b
  | 0x11 => elShr t a b
  | 0x12 => elSra t a b
  | 0x13 => elShl t a (imm % 65536)
  | 0x14 => elShr t a (imm % 65536)
  | 0x15 => elSra t a (imm % 65536)
  | 0x18 => bits a (bits imm 0 6) (bits imm 6 7)
  | 0x19 =>
    let k := bits imm 6 7
    let f := bits a (bits imm 0 6) k
    if f.testBit (k - 1) then f + (2 ^ w - 2 ^ k) else f
  | 0x1A =>
    let l := bits imm 0 6
    let k := bits imm 6 7
    a - 2 ^ l * bits a l k + 2 ^ l * bits b 0 k
  | 0x1C => clzNat w a
  | 0x1D => ctzNat w a
  | 0x1E => popcNat w a
  | 0x20 | 0x21 | 0x22 | 0x23 | 0x24 | 0x25 => elCmp st (op - 0x20) a b
  | 0x28 => tyEnc t (tyVal st a)
  | 0x29 => tySat t (tyVal st a)
  | _ => 0

/-- FCVT and FCVTZ (R122, R220). -/
def cvtOp (rm t st a : Nat) : FpRes :=
  if tyInt t then fpToInt (tyFmt st) rm (tyW t) (tySigned t) a
  else if tyInt st then intToFp (tyFmt t) rm (tyVal st a)
  else fpToFp (tyFmt st) (tyFmt t) rm a

/-- An operation that does not accumulate, on one element (R112 to R131). -/
def catOp (unit op t st imm rm a b c : Nat) : FpRes :=
  let f := tyFmt t
  match unit with
  | 0 | 1 => plain (aluOp op t st imm a b)
  | 2 => match op with
    | 0 => plain (tyEnc t (tyVal t a * tyVal t b))
    | 1 => plain (tyEnc t ((tyVal t a * tyVal t b) / ((2 ^ tyW t : Nat) : Int)))
    | 2 => plain (tySat t (tyVal t a * tyVal t b))
    | 3 => plain (elDiv t a b)
    | 4 => plain (elRem t a b)
    | 8 => fpDiv f rm a b
    | _ => fpSqrt f rm a
  | 3 => match op with
    | 0x00 => fpAdd f rm a b
    | 0x01 => fpAdd f rm a (fpFlip f b)
    | 0x02 => fpMul f rm a b
    | 0x03 => fpFma f rm false false a b c
    | 0x04 => fpFma f rm false true a b c
    | 0x05 => fpFma f rm true false a b c
    | 0x08 => fpMinMax f false a b
    | 0x09 => fpMinMax f true a b
    | 0x0A => plain (a % 2 ^ (f.eb + f.fb))
    | 0x0B => plain (fpFlip f a)
    | 0x18 => cvtOp rm t st a
    | 0x19 => cvtOp 1 t st a
    | _ => fpCmp (tyFmt st) (op - 0x10) a b
  | 4 => plain (permb a b)
  | _ => plain (zh64 (zhBits st a) (tySize st) b)

/-! ## Accumulating operations (R114 to R119) -/

/-- The underlying operation of an ALU reduction: 0 SUM, 1 MIN, 2 MAX, 3 CNT, 4 AND, 5 OR, 6 XOR. -/
def redOp (k t x a : Nat) : Nat :=
  match k with
  | 0 => (x + a) % 2 ^ tyW t
  | 1 => if tyVal t x ≤ tyVal t a then x else a
  | 2 => if tyVal t x ≥ tyVal t a then x else a
  | 3 => (x + a % 2) % 2 ^ 64
  | 4 => x &&& a
  | 5 => x ||| a
  | _ => x ^^^ a

/-- The identity of an accumulating operation (R115). -/
def catIdent (unit op t : Nat) : Nat :=
  if unit = 3 then
    match op with
    | 0x21 => fpInf (tyFmt t) false
    | 0x22 => fpInf (tyFmt t) true
    | _ => 0
  else if unit = 4 then 0
  else if op = 0x40 ∨ op = 0x41 then 0
  else match op % 8 with
    | 1 => tyEnc t (tyMax t)
    | 2 => tyEnc t (tyMin t)
    | 4 => 2 ^ tyW t - 1
    | _ => 0

/-- A value as RESULT and CARRY hold it (R115): i types sign-extended to 64 bits, others zero-extended. -/
def accOut (t x : Nat) : Nat := if tySigned t && tyInt t then (tyVal t x % (2 ^ 64 : Int)).toNat else x

/-- The value of RESULT or CARRY as the type holds it. -/
def accIn (t x : Nat) : Nat := x % 2 ^ tyW t

/-- One level of the tree of R117: neighbours are added; each node has its lowest element. -/
def treeLevel (f : Fmt) (rm : Nat) : List (Option (Nat × Nat)) → List (Option (Nat × Nat)) × Nat × List (Nat × Bool × Bool)
  | [] => ([], 0, [])
  | [x] => ([x], 0, [])
  | x :: y :: t =>
    let r := treeLevel f rm t
    match x, y with
    | some a, some b =>
      let s := fpAdd f rm a.1 b.1
      (some (s.val, a.2) :: r.1, s.fl ||| r.2.1, if s.tiny || s.sub then (a.2, s.tiny, s.sub) :: r.2.2 else r.2.2)
    | some a, none => (some a :: r.1, r.2)
    | none, z => (z :: r.1, r.2)

/-- The tree of R117 over the positions of a strip: its value if any position is present, its flags, and the affected
combinations by their lowest element. -/
def treeSum (f : Fmt) (rm : Nat) : Nat → List (Option (Nat × Nat)) → Nat → List (Nat × Bool × Bool) →
    Option (Nat × Nat) × Nat × List (Nat × Bool × Bool)
  | 0, xs, fl, fx => ((xs.headD none), fl, fx)
  | n + 1, xs, fl, fx =>
    let r := treeLevel f rm xs
    treeSum f rm n r.1 (fl ||| r.2.1) (fx ++ r.2.2)

end Sys2Proof.Machine
end

