-- ==== Sys2Proof/Machine/Jobs.lean ====
section
/-! DEFINITION. Shared operations on jobs and their contexts: metering, readiness, demotion, failing and ending a
job, and posting completions (R167 to R185, R311 to R320, R370 to R373). -/

namespace Sys2Proof.Machine

/-! ## Meters -/

/-- The capacity class that a byte of a region is charged to (R182); on-die memory is charged to none. -/
def regionClass : Region → Option (Fin 11)
  | .lm => some 0
  | .fm p => some ⟨1 + p.val, by omega⟩
  | .host => some 10
  | _ => none

/-- A job that is metered: guaranteed and not demoted (R172, R317). -/
def metered (x : Ctx) : Bool := decide (x.st ≠ .free) && !x.be

/-- Charges an amount to a class of a context's meter (R179, R180). -/
def charge (s : State) (c : Nat) (k : Fin 11) (n : Nat) : State :=
  modCtx s c (fun x => if metered x then { x with meter := vmod x.meter k (fun m => m + BitVec.ofNat 64 n) } else x)

/-- Credits an amount back to a class (R180), never below 0. -/
def creditMeter (s : State) (c : Nat) (k : Fin 11) (n : Nat) : State :=
  modCtx s c (fun x => if metered x then
    { x with meter := vmod x.meter k (fun m => BitVec.ofNat 64 (m.toNat - n)) } else x)

/-- Charges bytes of the access of a GA to the class of its region (R182). -/
def chargeGa (s : State) (m : Master) (c : Nat) (ga n : Nat) : State :=
  match place s m ga with
  | some p => (match regionClass p.region with | some k => charge s c k n | none => s)
  | none => s

/-- Use of class k in budget units: 64-byte units of memory classes, counts otherwise (R179). -/
def useUnits (x : Ctx) (k : Fin 11) : Nat :=
  let m := x.meter[k.val].toNat
  if k.val = 7 || k.val = 8 || k.val = 9 then m else cdiv m 64

/-- The demand that stands for a job in class k (R178): the budget less its use, never below 0, with the reload
allowance of R174 in class 9. -/
def demandOf (x : Ctx) (k : Fin 11) : Nat :=
  (x.budget[k.val].toNat - useUnits x k) + (if k.val = 9 then 3000 else 0)

/-- Brings rem(j, c) down to the reported use (R178). -/
def reportUse (s : State) (c : Nat) : State :=
  modCtx s c (fun x => if x.held then { x with rem := Vector.ofFn (fun k => demandOf x k) } else x)

/-- Removes a job's remaining demand in every class (R178). -/
def dropDemand (x : Ctx) : Ctx := { x with held := false, rem := Vector.replicate 11 0 }

/-! ## Scheduling order -/

/-- Inserts a context into a list that is ordered by deadline distance, after equals (R311). -/
def schedInsert (s : State) (c : Nat) : List Nat → List Nat
  | [] => [c]
  | a :: t => if distance s (getCtx s c).dlslot < distance s (getCtx s a).dlslot then c :: a :: t else a :: schedInsert s c t

/-- The scheduling order (R311): guaranteed contexts by deadline and entry, then best-effort in FIFO order. -/
def schedOrder (s : State) : List Nat := s.csc.cal.foldl (fun l c => schedInsert s c l) [] ++ s.csc.fifo

/-- Position in the scheduling order; its length for a context that is not there. -/
def schedRank (s : State) (c : Nat) : Nat := (schedOrder s).idxOf c

/-- Takes a context off the calendar and the FIFO. -/
def unlist (s : State) (c : Nat) : State :=
  { s with csc := { s.csc with fifo := s.csc.fifo.erase c, cal := s.csc.cal.erase c } }

/-- Enters a context at the tail of its list (R311). -/
def enlist (s : State) (c : Nat) : State :=
  let s1 := unlist s c
  if (getCtx s c).be then { s1 with csc := { s1.csc with fifo := s1.csc.fifo ++ [c] } }
  else { s1 with csc := { s1.csc with cal := s1.csc.cal ++ [c] } }

/-- A context becomes READY (R318). -/
def makeReady (s : State) (c : Nat) : State :=
  enlist (modCtx s c (fun x => { x with st := .ready, waiton := 0 })) c

/-- A context enters WAIT (R313). -/
def makeWait (s : State) (c : Nat) (on : BitVec 4) : State :=
  unlist (modCtx s c (fun x => { x with st := .wait, waiton := on })) c

/-- A context waiting on an event becomes READY. -/
def wakeOn (s : State) (c : Nat) (on : BitVec 4) : State :=
  let x := getCtx s c
  if x.st = .wait ∧ x.waiton = on ∧ x.dying = false then makeReady s c else s

/-- Demotion to best-effort (R179, R317): the demand is removed, its waiting STRM is best-effort, and the context goes to the
tail of the FIFO. -/
def demote (s : State) (c : Nat) : State :=
  let s0 := modCtx s c (fun x => { dropDemand x with be := true })
  let s1 : State := { s0 with pipes := s0.pipes.map (fun p =>
    { p with waiting := p.waiting.map (fun w => if w.ctx = c then { w with be := true } else w) }) }
  if (getCtx s c).st = .ready ∨ (getCtx s c).st = .run then enlist s1 c else s1

/-! ## Banks of a context -/

/-- The running bank's occupant (R312). -/
def running (s : State) (q : Fin 16) : Option (Fin 8 × Nat) :=
  let x := s.seqs[q.val]
  match x.run with
  | none => none
  | some b => (match x.banks[b.val].occ with | some c => some (b, c) | none => none)

/-- A context that leaves RUN: its sequencer has no running bank until the next switch (R312). -/
def stopRunning (s : State) (q : Fin 16) : State :=
  modSeq s q (fun x => { x with run := none, st := if x.st = 1 then 0 else x.st, open_ := [] })

/-- Empties a bank. -/
def freeBank (s : State) (q : Fin 16) (b : Fin 8) : State :=
  modSeq s q (fun x =>
    { x with banks := vset x.banks b Bank.empty,
             run := if x.run = some b then none else x.run,
             st := if x.run = some b ∧ x.st = 1 then 0 else x.st,
             open_ := if x.run = some b then [] else x.open_,
             loads := x.loads.filter (fun l => l.bank ≠ b),
             fq := x.fq.filter (fun o => o.bank ≠ b),
             md := match x.md with | some m => if m.bank = b then none else some m | none => none })

/-- Streams of a context in every pipe's table. -/
def hasStream (s : State) (c : Nat) : Bool :=
  s.pipes.any (fun p => p.table.any (fun e => match e with | some t => t.ctx == c | none => false))

/-- Store-buffer entries of a context (R306). -/
def hasStore (s : State) (c : Nat) : Bool := s.seqs.any (fun q => q.sb.any (fun e => e.ctx == c))

/-- Long loads or F-slot operations of the bank that holds a context. -/
def hasWork (s : State) (c : Nat) : Bool :=
  s.seqs.any (fun q => q.loads.any (fun l => l.ctx == c) ||
    q.fq.any (fun o => match q.banks[o.bank.val].occ with | some d => d == c | none => false))

/-- A context takes part in a transfer (R307). -/
def inXfer (s : State) (c : Nat) : Bool :=
  s.seqs.any (fun q => match q.xfer with | some t => t.load == c || t.evict == some c | none => false)

/-- The CSC reports a job's use; the DAU's second port will lower its demand (R178). -/
def askCredit (s : State) (c : Nat) : State :=
  if (getCtx s c).held && !s.dau.credits.contains c then { s with dau := { s.dau with credits := s.dau.credits ++ [c] } } else s

/-! ## Failing and ending a job -/

/-- An event voids a job's guarantee (R167): VCAUSE keeps the first event's code. -/
def voidJob (s : State) (c : Nat) (cause : Nat) : State :=
  modCtx s c (fun x => if x.st = .free then x
    else if x.void then x else { x with void := true, vcause := BitVec.ofNat 16 cause })

/-- The island that serves a region. -/
def regionIsland (p : Place) : Fin 34 :=
  match p.region with
  | .lm => let n := (lmPlace p.key).1; if h : n < 12 then islLM ⟨n, h⟩ else islMG
  | .scratch q => islSQ q
  | .sbuf n => islPP n
  | .hcache | .filter => islDR
  | .fm q => islXP q
  | .host => islHL

/-- An access meets a poisoned unit: its memory counts it, and a record is written (R51, R58, R414, R446). -/
def noteUE (s : State) (m : Master) (ga : Nat) : State :=
  match place s m ga with
  | none => s
  | some p =>
    if !poisoned s p then s
    else
      let src := (regionIsland p).val
      match p.region with
      | .lm =>
        let n := (lmPlace p.key).1
        if h : n < 12 then
          offer (modLmc s ⟨n, h⟩ (fun x => { x with ue := satInc x.ue, ueAddr := BitVec.ofNat 57 (unitOf p) }))
            0x0201 sevFault src (ga % 2 ^ 32) (ga / 2 ^ 32) n
        else s
      | .fm q => offer (modXpt s q (fun x => { x with poisonCnt := satInc x.poisonCnt })) 0x0211 sevFault src (ga % 2 ^ 32) (ga / 2 ^ 32) q.val
      | .host => offer s 0x0218 sevFault src (ga % 2 ^ 32) (ga % hostBase / 2 ^ 32) 4
      | r => match memIndex r with
        | some i =>
          offer (modMem s i (fun x => { x with ue := satInc x.ue, ueAddr := BitVec.ofNat 32 (unitOf p - onDieBase) }))
            0x0301 sevFault src i (unitOf p - onDieBase) 0
        | none => s

/-- What a master's read finds in the unit of a GA: a corrected error, or one that cannot be corrected, or FM data received with
poison, after which the unit is poisoned (R51, R52, R414). Host memory has no such code of the module's. -/
def meetError (s : State) (m : Master) (ga : Nat) (found : CodeWord) : State :=
  match place s m ga with
  | none => s
  | some p =>
    if poisoned s p || errorAt s p || decide (p.region = .host) then s
    else meetUnit { s with upset := tset .clean s.upset (unitOf p) .clean } p found

/-- A unit whose code word has come to hold an error, which the next read of it meets. Log entry 137. -/
def ariseAt (s : State) (ga : Nat) (found : CodeWord) : State :=
  match place s .mgmt ga with
  | some p => if poisoned s p || decide (p.region = .host) then s else { s with upset := tset .clean s.upset (unitOf p) found }
  | none => s

/-- What a read of a range finds in its units, with those that it met already; an error elsewhere waits for the read of its unit. -/
def meetErrors (s : State) (m : Master) (ga len : Nat) (found : List (BitVec 57 × CodeWord)) : State :=
  found.foldl (fun a e => if ga ≤ e.1.toNat ∧ e.1.toNat < ga + len then meetError a m e.1.toNat e.2 else ariseAt a e.1.toNat e.2)
    (touch s m ga len)

/-- The code of the event that an uncorrectable access at a GA is (R370, R446). -/
def memCause (s : State) (m : Master) (ga : Nat) : Nat :=
  match place s m ga with
  | none => 0x0201
  | some p => match p.region with
    | .lm => 0x0201
    | .fm q => if poisoned s p then 0x0211 else if s.map.portEn.getLsbD q.val then 0x0212 else 0x0213
    | .host => 0x0218
    | _ => 0x0301

/-- An uncorrectable error at a GA voids a job's guarantee (R52). -/
def voidMem (s : State) (m : Master) (c ga : Nat) : State := voidJob (noteUE s m ga) c (memCause s m ga)

/-- Marks the streams of a context cancelled (R79); one that has not been issued, or is held for its STRM,
leaves its table at once. -/
def cancelStreams (s : State) (c : Nat) : State :=
  { s with pipes := s.pipes.map (fun p =>
      { p with table := p.table.map (fun e => match e with
                 | some t => if t.ctx = c then (if t.phase = .held then none else some { t with cancel := true }) else some t
                 | none => none),
               waiting := p.waiting.filter (fun w => w.ctx ≠ c) }) }

/-- What a switch waits for (R300, R306): long loads and F-slot operations of the outgoing context, and the result of its multiply
or divide. -/
def switchBusy (x : Seq) (b : Fin 8) : Bool :=
  x.loads.any (fun l => l.bank = b) || x.fq.any (fun o => o.bank = b) || x.md.any (fun m => m.bank = b)

/-- A job must end: its streams are cancelled, it issues nothing more, and it leaves RUN, at once or, once the waits of R306 are over,
at the next switch; CONTEXT_ENDING follows (R320). -/
def kill (s : State) (c : Nat) : State :=
  let x := getCtx s c
  if x.st = .free ∨ x.st = .ending then s
  else
    let s0 := cancelStreams (modCtx s c (fun y => { y with dying := true })) c
    if x.st = .run ∧ switchBusy s.seqs[x.seq.val] x.bank = true then unlist s0 c
    else
      let s1 := makeWait s0 c 0
      if x.st = .run then stopRunning s1 x.seq else s1

/-- The completion status of a job by the precedence of R168, and its CAUSE. -/
def jobStatus (x : Ctx) : Byte × BitVec 16 :=
  if x.void then (0x02, x.vcause)
  else if x.cancel then (0x03, 0)
  else if x.ovr then (0x01, 0)
  else if x.late then (0x02, 0x0501)
  else (0, 0)

/-- A job's completion (R370, R373); RES1's slot is set when the entry is issued. -/
def jobCompl (c : Nat) (x : Ctx) : Compl :=
  let st := jobStatus x
  { q := x.queue, cid := x.cid, res0 := BitVec.ofNat 64 (c + 2 ^ 32 * x.arrslot.toNat),
    res1 := BitVec.ofNat 64 (2 ^ 32 * x.ovrClass.toNat), cause := st.2, status := st.1,
    detail := if st.1 = 0x01 then BitVec.ofNat 8 x.ovrClass.toNat else 0,
    ovr := x.ovr, late := x.late, cfg := false, ctx := some c }

/-- Adds a completion to those that wait to be written. -/
def postCompl (s : State) (k : Compl) : State := { s with rqe := { s.rqe with compl := s.rqe.compl ++ [k] } }

/-- A completion of a command other than a job. -/
def post (s : State) (q : Fin 4096) (cid : BitVec 16) (cfg : Bool) (status detail : Nat) (res0 res1 : Nat) : State :=
  postCompl s { q := q, cid := cid, res0 := BitVec.ofNat 64 res0, res1 := BitVec.ofNat 64 res1, cause := 0,
                status := BitVec.ofNat 8 status, detail := BitVec.ofNat 8 detail, ovr := false, late := false,
                cfg := cfg, ctx := none }

/-- The fetched entry of a queue is no longer outstanding (R379). -/
def settleOutst (s : State) (g : Nat) : State :=
  setQp s g { getQp s g with outst := (getQp s g).outst - 1 }

/-- Completes the EVC sources that a context's open frames hold, each at the target that claimed it (R393, R394). -/
def completeFrames (s : State) (c : Nat) : State :=
  let fs := (getCtx s c).frameSrc.toList
  let s1 := fs.foldl (fun a o => match o with
    | some n => completeAt a n.2 n.1
    | none => a) s
  modCtx s1 c (fun x => { x with frameSrc := Vector.replicate 5 none })

/-- A job that a JOB_CANCEL waits for has had its entry written: the cancel completes (R374). -/
def finishCancels (s : State) (c : Nat) : State :=
  let done := s.rqe.running.filter (fun r => decide (r.kind = .cancel c))
  let s1 : State := { s with rqe := { s.rqe with running := s.rqe.running.filter (fun r => !decide (r.kind = .cancel c)) } }
  done.foldl (fun a r => post a r.q r.cid r.cfg 0 0 0 0) s1

/-- A context becomes FREE (R320 step 4): its save areas and their reservation are released. -/
def freeCtx (s : State) (c : Nat) : State :=
  let x := getCtx s c
  let s1 : State := { s with csc := { s.csc with poolRsv := s.csc.poolRsv - x.need }, dau := { s.dau with credits := s.dau.credits.filter (· ≠ c) } }
  finishCancels (setCtx (unlist s1 c) c Ctx.free) c

/-- A context enters ENDING (R320 steps 1 to 3): the bank is freed, the demand removed, the entry asked for; a job
whose entry is not written becomes FREE at once (R362). -/
def beginEnding (s : State) (c : Nat) : State :=
  let x := getCtx s c
  let s1 := completeFrames s c
  let s2 := if x.res then freeBank s1 x.seq x.bank else s1
  let s3 := unlist (modCtx s2 c (fun y => { dropDemand y with st := .ending, res := false, waiton := 0 })) c
  let y := getCtx s3 c
  if y.silent then freeCtx (settleOutst s3 y.queue.val) c
  else
    let s4 : State := if (jobStatus y).1 = 0x02 then { s3 with dau := { s3.dau with void := satInc s3.dau.void } } else s3
    let s5 := if (jobStatus y).1 = 0x02 ∧ y.void = false then
      offer s4 0x0501 sevWarning 32 c y.queue.val y.cid.toNat else s4
    postCompl s5 (jobCompl c y)

/-- CONTEXT_ENDING's condition (R320): every stream stopped, every store drained, no load or F-slot work. -/
def canEnd (s : State) (c : Nat) : Bool := !hasStream s c && !hasStore s c && !hasWork s c && !inXfer s c

/-- Contexts that belong to an accepted job that has not begun to end. -/
def jobsOf (s : State) (p : Ctx → Bool) : List Nat :=
  (s.ctxs.filter (fun e => p e.2 && decide (e.2.st ≠ .free) && decide (e.2.st ≠ .ending))).map (·.1)

/-- Voids and ends every accepted job (R363, R463, R465). -/
def endAllVoid (s : State) (cause : Nat) : State :=
  (jobsOf s (fun _ => true)).foldl (fun a c => kill (voidJob a c cause) c) s

/-! ## Admission closes -/

/-- CLOSE_CAUSE and BCLOSE_CAUSE as they read: 0 while their bit is open (R190). -/
def closeCause (s : State) : Nat := if s.dau.gopen then 0 else s.dau.cause.toNat
def bcloseCause (s : State) : Nat := if s.dau.bopen then 0 else s.dau.bcause.toNat

/-- The record of an admission close (R446). -/
def closeRecord (s : State) : State := offer s 0x0503 sevNotice 32 (closeCause s) (bcloseCause s) 0

/-- Clears GOPEN and BOPEN for a cause (R187, R190): an event that closes writes its cause. Log entry 18. -/
def closeBoth (s : State) (cause : BitVec 3) : State :=
  let s1 : State := { s with dau := { s.dau with gopen := false, bopen := false, cause := cause, bcause := cause } }
  if s.dau.gopen || s.dau.bopen then closeRecord s1 else s1

/-- Clears GOPEN for a cause (R187). -/
def closeG (s : State) (cause : BitVec 3) : State :=
  let s1 : State := { s with dau := { s.dau with gopen := false, cause := cause } }
  if s.dau.gopen then closeRecord s1 else s1

/-! ## Transactions on a crossing (R433) -/

def xQos (t : Crossing) : Nat := bits t.w0.toNat 0 4
def xOp (t : Crossing) : Nat := bits t.w0.toNat 4 4
def xSrc (t : Crossing) : Nat := bits t.w0.toNat 8 6
def xPort (t : Crossing) : Nat := bits t.w0.toNat 14 6
def xTag (t : Crossing) : BitVec 12 := BitVec.ofNat 12 (bits t.w0.toNat 20 12)
def xGa (t : Crossing) : Nat := t.w1.toNat + 2 ^ 32 * bits t.w2.toNat 0 25
def xGuaranteed (t : Crossing) : Bool := bit t.w2.toNat 25
def xLen (t : Crossing) : Nat := bits t.w3.toNat 0 10 + 1
def xRstat (t : Crossing) : Nat := bits t.w3.toNat 11 2

/-- READ, WRITE and FENCE are requests. -/
def isRequest (t : Crossing) : Bool := decide (xOp t ≤ 2)

/-- A header with a reserved value. -/
def xReserved (t : Crossing) : Bool :=
  decide (5 < xOp t) || decide (33 < xSrc t) || decide (bits t.w2.toNat 26 6 ≠ 0) || decide (bits t.w3.toNat 13 19 ≠ 0)
    || decide (xRstat t = 3) || decide (t.rest ≠ 0)

/-- Beats of a transaction: its header, and 64 bytes of data each (R425). -/
def xBeats (t : Crossing) : Nat := 1 + cdiv t.data.length 64

/-- The master of a transaction. -/
def xMaster (t : Crossing) : Nat := 64 * xSrc t + xPort t

/-- The island it came from. -/
def srcIsl (t : Crossing) : Fin 34 := if h : xSrc t < 34 then ⟨xSrc t, h⟩ else islMG

/-! ## Credits and responses (R430) -/

/-- Credits of a channel. -/
def channelCredits (ch : Nat) : Nat := match ch with | 0 => 8 | 1 => 8 | 2 => 16 | _ => 2

/-- The key of a channel of a link. -/
def creditKey (src dst : Fin 34) (link : Fin 256) (ch : Fin 4) : Nat := 1024 * (src.val * 34 + dst.val) + link.val * 4 + ch.val

/-- Credits in use on a channel of a link. -/
def creditsUsed (s : State) (k : Nat) : Nat := tget 0 s.fab.credits k

/-- Sets the credits in use. -/
def setCredits (s : State) (k n : Nat) : State := { s with fab := { s.fab with credits := tset 0 s.fab.credits k n } }

/-- A transaction of some beats goes out on a channel: it holds a credit for each beat that the receiver has not passed on. -/
def takeCredits (s : State) (k : Nat) (ch : Fin 4) (beats : Nat) : State :=
  setCredits s k (min (channelCredits ch.val) (creditsUsed s k + beats))

/-- The channel that carries the response to a request: MGT for one of QoS 15, RSP for another. -/
def rspChannel (t : Crossing) : Fin 4 := if xQos t = 15 then 3 else 2

/-- The credits of a response's channel. Of the links between two islands, whose number software cannot see, responses use the first.
DESIGN CHOICE, log entry 146. -/
def rspKey (r : FabRsp) : Nat := creditKey r.src (srcIsl r.t) 0 (rspChannel r.t)

/-- A response goes out, or waits for a credit behind those that wait for the same channel (R430). -/
def sendRsp (s : State) (r : FabRsp) : State :=
  if creditsUsed s (rspKey r) < channelCredits (rspChannel r.t).val ∧ s.fab.rsps.any (fun y => rspKey y == rspKey r) = false then
    send (takeCredits s (rspKey r) (rspChannel r.t) (1 + cdiv r.bytes.length 64)) (.rsp (srcIsl r.t) (xTag r.t) r.rstat r.poisoned r.bytes)
  else { s with fab := { s.fab with rsps := s.fab.rsps ++ [r] } }

/-- Responses that wait go out where a credit has come free. -/
def releaseRsps (s : State) : State := s.fab.rsps.foldl sendRsp { s with fab := { s.fab with rsps := [] } }

/-- An island answers a request with a status of R433, and data with its poison. -/
def respondData (s : State) (isl : Fin 34) (t : Crossing) (rstat : Fin 4) (poisoned : Bool) (bs : List Byte) : State :=
  sendRsp s ⟨isl, t, rstat, poisoned, bs⟩

/-- An island answers a request with a status of R433. -/
def respond (s : State) (isl : Fin 34) (t : Crossing) (rstat : Fin 4) (bs : List Byte) : State := respondData s isl t rstat false bs

/-! ## Eighth-slots of guaranteed traffic (R33) -/

/-- The 32-byte sectors that a range touches. -/
def sectorsOf (ga len : Nat) : List Nat :=
  if len = 0 then [] else (List.range ((ga + len - 1) / 32 - ga / 32 + 1)).map (fun i => (ga / 32 + i) * 32)

/-- A metered context's access takes an eighth-slot of its LM controller for each sector in LM. Log entry 28. -/
def useSlots (s : State) (m : Master) (c : Nat) (secs : List Nat) : State :=
  if metered (getCtx s c) then
    secs.foldl (fun a g => match place a m g with
      | some p =>
        let n := (lmPlace p.key).1
        if p.region = .lm then (if h : n < 12 then modLmc a ⟨n, h⟩ (fun x => { x with used := x.used + 1 }) else a) else a
      | none => a) s
  else s

end Sys2Proof.Machine
end

