-- ==== Sys2Proof/Machine/Operands.lean ====
section
/-! DEFINITION. Operand forms: segment descriptors and the access check, registers of the running context,
control registers, immediates, displacements and targets (R221 to R238, R246, R324 to R331). -/

namespace Sys2Proof.Machine

/-! ## Segment descriptors (R324) -/

def dBase (d : Desc256) : Nat := bits d.toNat 0 57
def dLimit (d : Desc256) : Nat := bits d.toNat 64 57
def dV (d : Desc256) : Bool := d.getLsbD 128
def dR (d : Desc256) : Bool := d.getLsbD 129
def dW (d : Desc256) : Bool := d.getLsbD 130
def dX (d : Desc256) : Bool := d.getLsbD 131
def dSR (d : Desc256) : Bool := d.getLsbD 132
def dSW (d : Desc256) : Bool := d.getLsbD 133
def dG (d : Desc256) : Bool := d.getLsbD 134
def dSE (d : Desc256) : Bool := d.getLsbD 135
def dPlmax (d : Desc256) : Nat := bits d.toNat 136 2

/-- A descriptor of a base, a limit and the word at 0x10. -/
def mkDesc (base limit word : Nat) : Desc256 := BitVec.ofNat 256 (base + 2 ^ 64 * limit + 2 ^ 128 * word)

/-- The format check (R325). -/
def descOk (d : Desc256) : Bool :=
  let n := d.toNat
  decide (bits n 57 7 = 0) && decide (bits n 0 6 = 0) && decide (bits n 121 7 = 0) && decide (bits n 140 52 = 0)
    && decide (bits n 192 64 = 0) && (dV d || decide (n = 0)) && decide (dPlmax d ≠ 3)
    && decide (dBase d + dLimit d < 2 ^ 57) && (!dSE d || !(dX d || dSR d || dSW d || dG d))

/-- The rights that an access kind requires (R327). -/
inductive Right where
  | read | write | exec | none
  deriving DecidableEq, Repr

/-- Whether a descriptor has the right of an access kind. -/
def hasRight (d : Desc256) : Right → Bool
  | .read => dR d
  | .write => dW d
  | .exec => dX d
  | .none => true

/-- A failure of the access check: exception code, sub-code and FADDR. -/
structure SegFail where
  code : Byte
  sub : Byte
  faddr : BitVec 57
  deriving DecidableEq, Repr

def failRights (sub : Nat) (ga : Nat) : SegFail := ⟨0x04, BitVec.ofNat 8 sub, BitVec.ofNat 57 ga⟩
def failLimit (ga : Nat) : SegFail := ⟨0x03, 0x03, BitVec.ofNat 57 ga⟩

/-- The access check of R327 on z bytes at offset o: level, right, alignment, limit, mapping. Alignment 0 asks
for none beyond what SE asks. FADDR follows R329. -/
def segCheck (s : State) (m : Master) (d : Desc256) (pl : Nat) (r : Right) (o z align : Nat) : Option SegFail :=
  if !dV d then some (failRights 0x02 0)
  else if pl > dPlmax d || !hasRight d r then some (failRights 0x04 (dBase d + o))
  else if (dSE d && decide (o % z ≠ 0)) || (decide (align ≠ 0) && decide (o % align ≠ 0)) then
    some (failRights 0x05 (dBase d + o))
  else if z ≠ 0 ∧ dLimit d < o + z - 1 then some (failLimit (dBase d + max o (dLimit d + 1)))
  else match firstUnmapped s m (dBase d + o) z with
    | some ga => some (failRights 0x01 ga)
    | none => none

/-- A descriptor lies within another (R255); a null descriptor lies within every descriptor (R326). -/
def descWithin (n o : Desc256) : Bool :=
  !dV n ||
  (dV o && decide (dBase o ≤ dBase n) && decide (dBase n + dLimit n ≤ dBase o + dLimit o)
    && (!dR n || dR o) && (!dW n || dW o) && (!dX n || dX o) && (!dSR n || dSR o) && (!dSW n || dSW o) && (!dG n || dG o)
    && (!dSE o || dSE n) && decide (dPlmax n ≤ dPlmax o))

/-! ## STAT (R331) and FCSR (R202) -/

/-- The STAT word. -/
def statWord (x : Stat) : Nat :=
  x.pl.toNat + b2n x.gm * 4 + b2n x.ct * 8 + x.cwp.toNat * 16 + x.wres.toNat * 128 + 1024 * b2n x.wt
    + 2048 * x.ld.toNat + 16384 * b2n x.esc

/-- The fields of a STAT word. -/
def statOf (n : Nat) : Stat :=
  { pl := BitVec.ofNat 2 (bits n 0 2), gm := bit n 2, ct := bit n 3, cwp := BitVec.ofNat 3 (bits n 4 3),
    wres := BitVec.ofNat 3 (bits n 7 3), wt := bit n 10, ld := BitVec.ofNat 3 (bits n 11 3), esc := bit n 14 }

/-- The fields that MTC of STAT and RESTL write: GM, CT, CWP, WRES and LD; GM only while ESC = 0 (R331). -/
def statMtc (old : Stat) (n : Nat) : Stat :=
  let v := statOf n
  { old with gm := if old.esc then old.gm else v.gm, ct := v.ct, cwp := v.cwp, wres := v.wres, ld := v.ld }

/-- The Illegal Instruction sub-code of a value written to STAT, if any (R331). -/
def statBad (n : Nat) : Option Nat :=
  if bits n 7 3 = 0 ∨ 4 < bits n 11 3 then some 0x03 else if bits n 15 49 ≠ 0 then some 0x04 else none

/-- The Illegal Instruction sub-code of a value written to FCSR, if any (R203). -/
def fcsrBad (n : Nat) : Option Nat :=
  if 4 < bits n 6 3 ∨ 64 < bits n 16 7 then some 0x03 else if bits n 24 40 ≠ 0 then some 0x04 else none

/-- The rounding mode of FCSR. -/
def fcsrRM (f : Reg32) : Nat := bits f.toNat 6 3

/-- An FP trap is pending (R214). -/
def fpCond (f : Reg32) : Bool :=
  decide (bits f.toNat 1 5 &&& bits f.toNat 10 5 ≠ 0) || decide (bits f.toNat 16 7 ≠ 0) || f.getLsbD 23

/-! ## Registers of a bank -/

/-- The physical window that w0 to w15 name (R263): the reserved window while WT = 1. -/
def winIdx (x : Stat) : Fin 8 :=
  ⟨(x.cwp.toNat + (if x.wt then 1 else 0)) % 8, Nat.mod_lt _ (by decide)⟩

/-- Reads an integer register (R227). -/
def rdInt (l : Lower) (r : Fin 32) : Word :=
  if h : r.val < 16 then l.g[r.val] else (l.wins[(winIdx l.stat).val]).w[r.val - 16]

/-- Writes an integer register. -/
def wrInt (l : Lower) (r : Fin 32) (v : Word) : Lower :=
  if h : r.val < 16 then { l with g := vset l.g ⟨r.val, h⟩ v }
  else { l with wins := vmod l.wins (winIdx l.stat) (fun y => { y with w := vset y.w ⟨r.val - 16, by omega⟩ v }) }

/-- Writes an integer register of a given window, for results of a bundle that changes the window (R225). -/
def wrIntIn (l : Lower) (win : Fin 8) (r : Fin 32) (v : Word) : Lower :=
  if h : r.val < 16 then { l with g := vset l.g ⟨r.val, h⟩ v }
  else { l with wins := vmod l.wins win (fun y => { y with w := vset y.w ⟨r.val - 16, by omega⟩ v }) }

/-- Replaces the low bits of a vector register: f64 writes bits 63 to 0, f32 writes 31 to 0 and clears 63 to 32
(R93). -/
def placeScalar (v : BitVec 8192) (x : Word) (z : Nat) : BitVec 8192 :=
  let lo := if z = 8 then x.toNat else x.toNat % 2 ^ 32
  BitVec.ofNat 8192 (2 ^ 64 * (v.toNat / 2 ^ 64) + lo)

/-- A mask register: k0 reads as all ones (R94). -/
def rdK (u : Upper) (k : Fin 8) : BitVec 1024 := if k = 0 then BitVec.allOnes 1024 else u.k[k.val]

/-- Writes a mask register; a write to k0 is ignored (R227). -/
def wrK (u : Upper) (k : Fin 8) (v : BitVec 1024) : Upper := if k = 0 then u else { u with k := vset u.k k v }

/-- The results of one F-slot operation, as the vector state will hold them. -/
def fopUpper (u : Upper) (o : FOp) : Upper :=
  let u1 := match o.vd with | some (r, v) => { u with v := vset u.v r v } | none => u
  match o.kd with | some (k, v) => wrK u1 k v | none => u1

/-- The vector state that the next F-slot operation of a bank sees: every earlier one applied (R97). -/
def upperAfter (s : State) (q : Fin 16) (b : Fin 8) : Upper :=
  let x := s.seqs[q.val]
  (x.fq.filter (fun o => o.bank = b)).foldl fopUpper x.banks[b.val].up

/-- A result for an integer register of a window stands in the way of a bank's register r. -/
def sameInt (x : Seq) (b : Fin 8) (win : Fin 8) (rd r : Fin 32) : Bool :=
  rd = r && (decide (r.val < 16) || decide (win = winIdx (x.banks[b.val]).lo.stat))

/-- A register with an outstanding result in a bank (R281): integer register r. -/
def intBusy (x : Seq) (b : Fin 8) (r : Fin 32) : Bool :=
  x.loads.any (fun l => l.bank = b && (match l.dest with
      | .int rd _ _ => sameInt x b (winIdx l.before.lo.stat) rd r
      | .mask m => decide (r.val < 16) && m.getLsbD r.val
      | _ => false))
    || (match x.md with | some m => m.bank = b && !m.drop && sameInt x b m.win m.rd r | none => false)
    || x.fq.any (fun o => o.bank = b && (match o.rd with | some (d, _) => sameInt x b o.win d r | none => false))
    || x.slow.contains r.val

/-- An f register that an outstanding load writes (R247). -/
def fBusy (x : Seq) (b : Fin 8) (r : Fin 32) : Bool :=
  x.loads.any (fun l => l.bank = b && (match l.dest with | .fp rd _ => rd = r | _ => false)) || x.slow.contains (32 + r.val)

/-- A segment register that an outstanding SLD writes (R281). -/
def segBusy (x : Seq) (b : Fin 8) (n : Fin 16) : Bool :=
  x.loads.any (fun l => l.bank = b && (match l.dest with | .seg k => k = n | _ => false)) || x.slow.contains (80 + n.val)

/-- A result that arrives late is written into its bank, and into the banks that the loads of younger bundles would be taken back
to (R252). Where its own bundle is cancelled, by a load of it that failed, it is dropped. -/
def lateBank (s : State) (q : Fin 16) (b : Fin 8) (stamp : Nat) (f : Bank → Bank) : State :=
  modSeq s q (fun x =>
    { x with
      banks := if x.loads.any (fun l => l.bank = b && l.failed.isSome && decide (l.stamp ≤ stamp)) then x.banks else vmod x.banks b f,
      loads := x.loads.map (fun l => if l.bank = b ∧ stamp < l.stamp then { l with before := f l.before } else l) })

/-! ## Loads beside the store buffer (R251) -/

/-- Two ranges of bytes have a byte in common. -/
def overlaps (a z b w : Nat) : Bool := decide (a < b + w) && decide (b < a + z)

/-- The buffered stores, oldest first: the entries of a split store stand together as one (R249). -/
def bufStores : List SbEntry → List (Nat × List Byte)
  | [] => []
  | e :: es =>
    match e.pair, bufStores es with
    | true, (ga, bs) :: rest => if ga = e.ga + e.bytes.length then (e.ga, e.bytes ++ bs) :: rest else (e.ga, e.bytes) :: (ga, bs) :: rest
    | _, l => (e.ga, e.bytes) :: l

/-- What the store buffer says of a load (R251): no overlap, bytes to forward, or a partial overlap. -/
inductive Fwd where
  | none | bytes (bs : List Byte) | stall
  deriving DecidableEq, Repr

/-- The check of a load against the store buffer: the youngest overlapping store holds every byte, or the load waits. -/
def forward (sb : List SbEntry) (ga z : Nat) : Fwd :=
  match (bufStores sb).reverse.find? (fun e => overlaps e.1 e.2.length ga z) with
  | none => .none
  | some e => if e.1 ≤ ga ∧ ga + z ≤ e.1 + e.2.length then .bytes ((e.2.drop (ga - e.1)).take z) else .stall

/-- A read of memory that takes its bytes from the store buffer where one store holds them all. -/
def readThrough (s : State) (m : Master) (sb : List SbEntry) (ga z : Nat) : ReadResult :=
  match forward sb ga z with
  | .bytes bs => ⟨bs, none, none, none⟩
  | _ => reqRead s m ga z

/-! ## Control registers (R236) -/

/-- Reads a control register by its number. -/
def rdCtl (k : Bank) (cr : Nat) : Word :=
  match cr with
  | 0 => k.pc
  | 1 => BitVec.ofNat 64 (statWord k.lo.stat)
  | 2 => k.tsbp
  | 3 => k.edtb
  | 4 => k.lo.vl.zeroExtend 64
  | 5 => k.lo.vstart.zeroExtend 64
  | 6 => k.lo.fcsr.zeroExtend 64
  | 7 => k.lo.wsp
  | 8 => k.lo.lps[0] | 9 => k.lo.lps[1] | 10 => k.lo.lps[2] | 11 => k.lo.lps[3]
  | 12 => k.lo.lpe[0] | 13 => k.lo.lpe[1] | 14 => k.lo.lpe[2] | 15 => k.lo.lpe[3]
  | 16 => k.lo.lpc[0] | 17 => k.lo.lpc[1] | 18 => k.lo.lpc[2] | 19 => k.lo.lpc[3]
  | _ => 0

/-- Writes a control register by its number (R245, R331). -/
def wrCtl (k : Bank) (cr : Nat) (v : Word) : Bank :=
  match cr with
  | 1 => { k with lo := { k.lo with stat := statMtc k.lo.stat v.toNat } }
  | 2 => { k with tsbp := v }
  | 3 => { k with edtb := v }
  | 4 => { k with lo := { k.lo with vl := v.setWidth 11 } }
  | 5 => { k with lo := { k.lo with vstart := v.setWidth 11 } }
  | 6 => { k with lo := { k.lo with fcsr := v.setWidth 32 } }
  | 7 => { k with lo := { k.lo with wsp := v } }
  | 8 => { k with lo := { k.lo with lps := k.lo.lps.set 0 v } } | 9 => { k with lo := { k.lo with lps := k.lo.lps.set 1 v } }
  | 10 => { k with lo := { k.lo with lps := k.lo.lps.set 2 v } } | 11 => { k with lo := { k.lo with lps := k.lo.lps.set 3 v } }
  | 12 => { k with lo := { k.lo with lpe := k.lo.lpe.set 0 v } } | 13 => { k with lo := { k.lo with lpe := k.lo.lpe.set 1 v } }
  | 14 => { k with lo := { k.lo with lpe := k.lo.lpe.set 2 v } } | 15 => { k with lo := { k.lo with lpe := k.lo.lpe.set 3 v } }
  | 16 => { k with lo := { k.lo with lpc := k.lo.lpc.set 0 v } } | 17 => { k with lo := { k.lo with lpc := k.lo.lpc.set 1 v } }
  | 18 => { k with lo := { k.lo with lpc := k.lo.lpc.set 2 v } } | 19 => { k with lo := { k.lo with lpc := k.lo.lpc.set 3 v } }
  | _ => k

/-- The levels at which MFC of a register is allowed (R236). -/
def mfcAllowed (cr pl : Nat) : Bool :=
  match cr with
  | 2 | 3 | 7 => decide (pl ≤ 1)
  | _ => true

/-- The levels at which MTC of a register is allowed. -/
def mtcAllowed (cr pl : Nat) : Bool :=
  match cr with
  | 1 | 7 => decide (pl ≤ 1)
  | 2 | 3 => decide (pl = 0)
  | _ => true

/-- The Illegal Instruction sub-code of a value that MTC writes to a register (R236, R331, R332, R203). -/
def mtcBad (cr n : Nat) : Option Nat :=
  match cr with
  | 1 => statBad n
  | 2 | 3 => if bits n 0 6 ≠ 0 ∨ bits n 57 7 ≠ 0 then some 0x03 else none
  | 4 => if 1024 < n then some 0x03 else none
  | 5 => if 1023 < n then some 0x03 else none
  | 6 => fcsrBad n
  | _ => none

/-! ## Immediates, displacements and targets (R226) -/

/-- The value of a format II immediate, sign-extended to 64 bits. -/
def immVal : Imm → Word
  | .short v => v.signExtend 64
  | .long v => v.signExtend 64

/-- Syllables an operand's extension adds. -/
def immWords : Imm → Nat
  | .short _ => 1
  | .long _ => 2

/-- A displacement of format MA: DISP8 scaled, or 32 bits in bytes. -/
def dispVal (scale : Nat) : Disp → Word
  | .short v => v.signExtend 64 * BitVec.ofNat 64 scale
  | .long v => v.signExtend 64

def dispWords : Disp → Nat
  | .short _ => 1
  | .long _ => 2

/-- A displacement of format BC, in bytes. -/
def bdispVal : BDisp → Word
  | .short v => v.signExtend 64 * 4
  | .long v => v.signExtend 64 * 4

def bdispWords : BDisp → Nat
  | .short _ => 1
  | .long _ => 2

/-- The offset of a memory operand: RB + disp modulo 2^64 (R230). -/
def memOff (k : Bank) (scale : Nat) (m : MemOp) : Word := rdInt k.lo m.rb + dispVal scale m.disp

/-- The bank a sequencer's syllables act on. -/
def curBank (s : State) (q : Fin 16) : Bank :=
  match running s q with
  | some (b, _) => s.seqs[q.val].banks[b.val]
  | none => Bank.empty

/-- The level the running context executes at. -/
def curPl (s : State) (q : Fin 16) : Nat := (curBank s q).lo.stat.pl.toNat

/-- The master that a sequencer's accesses go out as; ESC opens the escalation area (R330). -/
def seqMaster (s : State) (q : Fin 16) : Master := .seq q (curBank s q).lo.stat.esc

/-- The segment register that a memory operand names: s0 is always null (R326). -/
def segReg (l : Lower) (n : Fin 16) : Desc256 := if n = 0 then 0 else l.segs[n.val]

end Sys2Proof.Machine
end

