-- ==== Sys2Proof/Machine/Exceptions.lean ====
section
/-! DEFINITION. Exception entry, escalation, LOCKED and RETX: one shared operation each (R332 to R349). -/

namespace Sys2Proof.Machine

/-- What an exception carries into its frame (R334). -/
structure Exc where
  code : Nat
  sub : Nat
  pc : Word
  faddr : Nat
  /-- SYLV and SYL. -/
  syl : Option Nat
  tcode : Nat
  /-- STRM and TSLOT. -/
  strm : Option (Fin 16)
  defer : Bool
  async : Bool
  /-- The event source of an interrupt (R394). -/
  src : Option (Fin 2048 × Fin 18)
  deriving DecidableEq, Repr

/-- A plain exception. -/
def Exc.plain (code sub : Nat) (pc : Word) (faddr : Nat) (syl : Option Nat) : Exc :=
  { code := code, sub := sub, pc := pc, faddr := faddr, syl := syl, tcode := 0, strm := none, defer := false,
    async := false, src := none }

/-- The INFO word of a frame (R334). -/
def excInfo (x : Exc) (code sub orig : Nat) : Nat :=
  code % 256 + 2 ^ 8 * (sub % 256) + (match x.syl with | some i => 2 ^ 16 * (i % 16) + 2 ^ 20 | none => 0)
    + 2 ^ 21 * b2n x.async + 2 ^ 22 * b2n x.defer
    + (match x.strm with | some t => 2 ^ 23 + 2 ^ 32 * t.val | none => 0)
    + 2 ^ 24 * (orig % 256) + 2 ^ 48 * (x.tcode % 65536)

/-- The 128 bytes of a frame (R334). -/
def frameBytes (k : Bank) (x : Exc) (code sub orig : Nat) : List Byte :=
  bytesOf x.pc.toNat 8 ++ bytesOf (statWord k.lo.stat) 8 ++ bytesOf (excInfo x code sub orig) 8
    ++ bytesOf (x.faddr % 2 ^ 57) 8 ++ bytesOf k.lo.vstart.toNat 8 ++ bytesOf k.lo.g[15].toNat 8 ++ bytesOf 0 16
    ++ bytesOf k.lo.segs[1].toNat 32 ++ bytesOf k.lo.segs[2].toNat 32

/-- The memory that hardware may touch for entry and return (R332): software-visible LM, or the own scratchpad
below the escalation area. -/
def privRange (s : State) (q : Fin 16) (ga len : Nat) : Bool :=
  let sp := onDieBase + 0x100000 * q.val
  (decide (lmSoft ≤ ga) && decide (ga + len ≤ GiB * lmTopG s)) || (decide (sp ≤ ga) && decide (ga + len ≤ sp + 0xFF000))

/-- Reads such memory: none where it lies elsewhere or cannot be read. -/
def readPriv (s : State) (q : Fin 16) (ga len : Nat) : Option Nat :=
  if privRange s q ga len then
    let r := reqRead s (.seq q false) ga len
    if readClean r then some (natOf r.bytes) else none
  else none

/-- A sequencer goes LOCKED (R346): it issues nothing more, a record and the source's pulse tell of it, and its
resident contexts end with VOID (R25, R320). -/
def lockSeq (s : State) (q : Fin 16) (why : Nat) : State :=
  let cs := (s.seqs[q.val].banks.toList.filterMap (·.occ))
  let s1 := modSeq s q (fun y => { y with st := 2, run := none, open_ := [] })
  let s2 := evcPulse (offer s1 0x0401 sevFault (islSQ q).val q.val why 0) ⟨0x40 + q.val, by omega⟩
  let s3 := cs.foldl (fun a c =>
    let a1 := completeFrames (cancelStreams (voidJob a c 0x0401) c) c
    unlist (modCtx a1 c (fun y => { dropDemand y with st := .ending, res := false, dying := true, waiton := 0 })) c) s2
  modSeq s3 q (fun y => { y with banks := Vector.replicate 8 Bank.empty, loads := [], fq := [], md := none, xfer := none })

/-- The reads of an entry (R336), or of an escalation (R344), meet errors that no read has met: the EDT entry, the code descriptor, and the
stack descriptor. -/
def entryReads (s : State) (q : Fin 16) (k : Bank) (c code : Nat) : State :=
  let at_ := k.edtb.toNat + 32 * code
  let e := natOf (gaRead s (.seq q false) at_ 32).bytes
  ([at_, bits e 64 57] ++ (if code = 0xFF then [] else [bits e 128 57])).foldl (fun a g =>
    useSlots (touch a (.seq q false) g 32) (.seq q false) c (sectorsOf g 32)) s

/-- The accesses of an entry, of one of some classes or of an escalation, wait for a block that holds (R336, R344, R482). -/
def entryWaits (s : State) (q : Fin 16) (k : Bank) (fdepth : Nat) (codes : List Nat) : Bool :=
  let m : Master := .seq q false
  s.pages.any (·.held) && (waits s m (k.tsbp.toNat + 128 * fdepth) 128 || (codes ++ [0xFF]).any (fun n =>
    let at_ := k.edtb.toNat + 32 * n
    let e := natOf (gaRead s m at_ 32).bytes
    waits s m at_ 32 || waits s m (bits e 64 57) 32 || waits s m (bits e 128 57) 32))

/-- Escalation (R344): entry 0xFF of the EDT, the escalation frame in the own scratchpad, and PL0. An item of R343 marks the
frame, so that RETX from it lets the item recur (R214). -/
def escalate (s : State) (q : Fin 16) (b : Fin 8) (c : Nat) (x : Exc) (cause : Nat) (item : Bool) : State :=
  let k := s.seqs[q.val].banks[b.val]
  if k.lo.stat.esc then lockSeq s q (if cause = 0x06 then 4 else 1)
  else
    match readPriv s q (k.edtb.toNat + 32 * 255) 32 with
    | none => lockSeq s q 2
    | some e =>
      match readPriv s q (bits e 64 57) 32 with
      | none => lockSeq s q 2
      | some cd =>
        let d : Desc256 := BitVec.ofNat 256 cd
        if bit e 51 && descOk d && dV d && dX d && decide (dPlmax d = 0) then
          let sp := onDieBase + 0x100000 * q.val
          let w := gaWrite (entryReads s q k c 0xFF) (.seq q true) (sp + 0xFF000) (frameBytes k x 0xFF cause x.code)
          match w.2 with
          | some _ => lockSeq s q 5
          | none =>
            let s1 := modCtx w.1 c (fun y => { y with escShadow := k.lo.stat.pl, frameSrc := y.frameSrc.set 4 x.src,
                                                      frameItem := y.frameItem.set 4 item })
            modBank s1 q b (fun y => { y with
              pc := BitVec.ofNat 64 (bits e 0 48),
              lo := { y.lo with
                stat := { y.lo.stat with pl := 0, gm := true, esc := true, ld := 0 }, vstart := 0,
                segs := (y.lo.segs.set 1 d).set 2 (mkDesc (sp + 0xFF080) 0xF7F 0x7),
                g := y.lo.g.set 15 0xF80 } })
        else lockSeq s q 2

/-- The stack check of R337. -/
def stackOk (s : State) (q : Fin 16) (d : Desc256) (nl : Nat) (sp : Nat) : Bool :=
  descOk d && dV d && dR d && dW d && !dSE d && decide (nl ≤ dPlmax d) && decide (sp % 8 = 0) && decide (256 ≤ sp)
    && decide (sp ≤ dLimit d + 1) && (firstUnmapped s (.seq q false) (dBase d + sp - 256) 256).isNone

/-- Steps 3 to 6 of R336: what entry reads, or the cause with which it escalates. -/
inductive EntryPlan where
  | go (hpc : Word) (nl : Nat) (gmset : Bool) (code : Desc256) (stack : Option (Desc256 × Word))
  | fail (cause : Nat)
  deriving DecidableEq, Repr

/-- Reads the EDT entry, the code descriptor and the stack of an entry (R336 steps 3 to 6). -/
def entryPlan (s : State) (q : Fin 16) (k : Bank) (code : Nat) : EntryPlan :=
  match readPriv s q (k.edtb.toNat + 32 * code) 32 with
  | none => .fail 0x03
  | some e =>
    if !bit e 51 || decide (1 < bits e 48 2) || decide (bits e 52 12 ≠ 0) || decide (bits e 0 2 ≠ 0)
        || decide (bits e 121 7 ≠ 0) || decide (bits e 185 7 ≠ 0) then .fail 0x03
    else
      let pl := k.lo.stat.pl.toNat
      let nl := min (bits e 48 2) pl
      match readPriv s q (bits e 64 57) 32 with
      | none => .fail 0x03
      | some cd =>
        let d : Desc256 := BitVec.ofNat 256 cd
        if !(descOk d && dV d && dX d && decide (nl ≤ dPlmax d)) then .fail 0x03
        else if nl = pl then
          if stackOk s q (segReg k.lo 2) nl k.lo.g[15].toNat then
            .go (BitVec.ofNat 64 (bits e 0 48)) nl (bit e 50) d none
          else .fail 0x02
        else match readPriv s q (bits e 128 57) 32 with
          | none => .fail 0x02
          | some sd =>
            let hsp := bits e 192 64
            if stackOk s q (BitVec.ofNat 256 sd) nl hsp then
              .go (BitVec.ofNat 64 (bits e 0 48)) nl (bit e 50) d (some (BitVec.ofNat 256 sd, BitVec.ofNat 64 hsp))
            else .fail 0x02

/-- Items 2 to 4 of R343 are held. -/
def itemsHeld (x : Ctx) (k : Bank) : Bool :=
  k.lo.stat.wt || k.lo.stat.esc || decide (x.fdepth = 4)
    || (List.range x.fdepth.toNat).any (fun i => x.frameItem.toList.getD i false)

/-- A pending FP trap that has not been raised since it arose (R214, R215). -/
def fpPending (x : Ctx) (k : Bank) : Bool := fpCond k.lo.fcsr && !x.fpRaised

/-- A delivery point that a pending FP trap reaches while R343 holds it: the trap stays pending, to be taken at the first boundary
after the RETX that ends the hold (R215, R343). -/
def keepFp (k : Bank) (x : Ctx) : Ctx :=
  if fpPending x k && itemsHeld x k && !x.fppend then { x with fppend := true, fpRaised := true } else x

/-- keepFp of the context in a bank. -/
def holdFp (s : State) (q : Fin 16) (b : Fin 8) (c : Nat) : State := modCtx s c (keepFp (s.seqs[q.val].banks[b.val]))

/-- Exception entry (R336): steps 1 to 9. An item of R343 marks the frame it takes. -/
def enterExc (s : State) (q : Fin 16) (b : Fin 8) (c : Nat) (x : Exc) (item : Bool) : State :=
  let k := s.seqs[q.val].banks[b.val]
  let y := getCtx s c
  if k.lo.stat.esc then lockSeq s q 1
  else if k.lo.stat.wt then escalate s q b c x 0x05 item
  else if h : y.fdepth.toNat < 4 then
    match entryPlan s q k x.code with
    | .fail cause => escalate s q b c x cause item
    | .go hpc nl gmset d stack =>
      let fga := k.tsbp.toNat + 128 * y.fdepth.toNat
      if privRange s q fga 128 then
        let w := gaWrite (entryReads s q k c x.code) (.seq q false) fga (frameBytes k x x.code x.sub 0)
        match w.2 with
        | some _ => escalate s q b c x 0x04 item
        | none =>
          let i := y.fdepth.toNat
          let s1 := modCtx (useSlots w.1 (.seq q false) c (sectorsOf fga 128)) c (fun z => { keepFp k z with
            shadow := BitVec.ofNat 8 (z.shadow.toNat - bits z.shadow.toNat (2 * i) 2 * 4 ^ i + k.lo.stat.pl.toNat * 4 ^ i),
            fdepth := z.fdepth + 1, frameSrc := z.frameSrc.set i x.src, frameItem := z.frameItem.set i item })
          let trap := x.code = 0x07 ∨ x.code = 0x08
          modBank s1 q b (fun z => { z with
            pc := hpc,
            lo := { z.lo with
              stat := { z.lo.stat with pl := BitVec.ofNat 2 nl, gm := z.lo.stat.gm || gmset, ld := 0,
                                       wt := z.lo.stat.wt || decide trap },
              vstart := 0,
              segs := (match stack with | some st => (z.lo.segs.set 1 d).set 2 st.1 | none => z.lo.segs.set 1 d),
              g := (match stack with | some st => z.lo.g.set 15 st.2 | none => z.lo.g),
              wins := if trap then vset z.lo.wins ⟨(z.lo.stat.cwp.toNat + 1) % 8, Nat.mod_lt _ (by decide)⟩ Win.zero
                      else z.lo.wins } })
      else escalate s q b c x 0x04 item
  else escalate s q b c x 0x01 item

/-- FP Imprecise from the context, delivered with a saved PC (R215). -/
def raiseFp (s : State) (q : Fin 16) (b : Fin 8) (c : Nat) (pc : Word) : State :=
  enterExc (modCtx s c (fun x => { x with fpRaised := true })) q b c (Exc.plain 0x06 0x02 pc 0 none) true

/-- A pending FP trap is entered in place of another fault or interrupt (R215). -/
def fpFirst (s : State) (q : Fin 16) (b : Fin 8) (c : Nat) : Bool :=
  fpPending (getCtx s c) (s.seqs[q.val].banks[b.val]) && !itemsHeld (getCtx s c) (s.seqs[q.val].banks[b.val])

/-- Entry of a fault or an interrupt; a pending FP trap is entered instead (R215). -/
def raiseExc (s : State) (q : Fin 16) (b : Fin 8) (c : Nat) (x : Exc) : State :=
  if fpFirst s q b c then raiseFp s q b c x.pc else enterExc s q b c x false

/-- The pending items of R310 and R343 that a context takes at a bundle boundary: none, or the state after the
first of them is entered. The entry of items 3 and 4 is a delivery point of FP traps (R215). -/
def pendingItem (s : State) (q : Fin 16) (b : Fin 8) (c : Nat) : Option State :=
  let k := s.seqs[q.val].banks[b.val]
  let y := getCtx s c
  if itemsHeld y k then none
  else if y.fppend then
    some (enterExc (modCtx s c (fun z => { z with fppend := false, fpStream := false, fpRaised := z.fpRaised || !z.fpStream })) q b c
      (Exc.plain 0x06 (if y.fpStream then 0x01 else 0x02) k.pc 0 none) true)
  else if (y.defer || y.bopend) && fpPending y k then some (raiseFp s q b c k.pc)
  else if y.defer then
    some (enterExc (modCtx s c (fun z => { z with defer := false })) q b c
      { Exc.plain 0x0D 0 k.pc y.deferGa.toNat none with defer := true } true)
  else if y.bopend then
    some (enterExc (modCtx s c (fun z => { z with bopend := false })) q b c
      (Exc.plain 0x0E y.ovrClass.toNat k.pc 0 none) true)
  else none

/-- A context is masked (R341). -/
def masked (x : Ctx) (k : Bank) : Bool := k.lo.stat.gm || k.lo.stat.wt || k.lo.stat.esc || decide (x.fdepth = 4)

/-- The frame that RETX selects: its address and the shadow that guards it (R339 step 1). -/
def retxFrame (q : Fin 16) (y : Ctx) (k : Bank) : Option (Nat × Nat) :=
  if k.lo.stat.esc then some (onDieBase + 0x100000 * q.val + 0xFF000, y.escShadow.toNat)
  else if y.fdepth = 0 then none
  else some (k.tsbp.toNat + 128 * (y.fdepth.toNat - 1), bits y.shadow.toNat (2 * (y.fdepth.toNat - 1)) 2)

/-- The fields a frame must hold for RETX (R339 step 3). -/
def frameOk (f : Nat) : Bool :=
  let st := bits f 64 64
  decide (bits st 0 2 ≠ 3) && decide (bits st 7 3 ≠ 0) && decide (bits st 11 3 ≤ 4)
    && descOk (BitVec.ofNat 256 (bits f 512 256)) && descOk (BitVec.ofNat 256 (bits f 768 256))

/-- The bank after RETX restores a frame (R339 step 5, R340). -/
def retxBank (k : Bank) (f : Nat) (esc : Bool) : Bank :=
  let st := bits f 64 64
  { k with
    pc := BitVec.ofNat 64 (bits f 0 64),
    lo := { k.lo with
      stat := { k.lo.stat with pl := BitVec.ofNat 2 (bits st 0 2), gm := bit st 2, ct := bit st 3,
                               ld := BitVec.ofNat 3 (bits st 11 3), wt := false,
                               esc := if esc then false else k.lo.stat.esc },
      vstart := BitVec.ofNat 11 (bits f 256 11), g := k.lo.g.set 15 (BitVec.ofNat 64 (bits f 320 64)),
      segs := (k.lo.segs.set 1 (BitVec.ofNat 256 (bits f 512 256))).set 2 (BitVec.ofNat 256 (bits f 768 256)) } }

/-- What RETX finds (R339 steps 1 to 4): a frame to restore, a reason to refuse it, or a frame that cannot be read. -/
inductive RetxPlan where
  | go (frame : Nat)
  | bad (sub : Nat)
  | unread (ga : Nat)
  deriving DecidableEq, Repr

/-- RETX reads and checks its frame. The frame is read as a long load, so from the store buffer where one buffered store holds it
(R251). -/
def retxPlan (s : State) (q : Fin 16) (y : Ctx) (k : Bank) : RetxPlan :=
  match retxFrame q y k with
  | none => .bad 0x02
  | some (ga, sh) =>
    if !k.lo.stat.esc && !privRange s q ga 128 then .bad 0x03
    else
      let r := readThrough s (.seq q k.lo.stat.esc) (s.seqs[q.val]).sb ga 128
      match r.error.orElse (fun _ => r.poison.orElse (fun _ => r.unmapped)) with
      | some g => .unread g
      | none =>
        let f := natOf r.bytes
        if !frameOk f then .bad 0x03
        else if bits (bits f 64 64) 0 2 < sh then .bad 0x01
        else .go f

/-- RETX (R339): through the escalation frame while ESC = 1, through frame FDEPTH - 1 otherwise. The event source that the frame
holds completes at the target that claimed it (R393, R394). -/
def retx (s : State) (q : Fin 16) (b : Fin 8) (c : Nat) : State :=
  let k := s.seqs[q.val].banks[b.val]
  let y := getCtx s c
  let esc := k.lo.stat.esc
  match retxPlan s q y k with
  | .bad sub => raiseExc s q b c (Exc.plain 0x0C sub k.pc 0 (some 0))
  | .unread g => raiseExc (voidMem s (.seq q esc) c g) q b c (Exc.plain 0x0D 0 k.pc g (some 0))
  | .go f =>
    let i : Nat := if esc then 4 else y.fdepth.toNat - 1
    let src := y.frameSrc.toList.getD i none
    let s1 := match src with
      | some n => completeAt s n.2 n.1
      | none => s
    let fp := y.frameItem.toList.getD i false
    let s2 := modCtx s1 c (fun z => { z with
      fdepth := if esc then z.fdepth else z.fdepth - 1,
      frameSrc := (if h : i < 5 then z.frameSrc.set i none else z.frameSrc),
      frameItem := (if h : i < 5 then z.frameItem.set i false else z.frameItem),
      fpRaised := if fp then false else z.fpRaised })
    modBank s2 q b (fun z => retxBank z f esc)

end Sys2Proof.Machine
end

