-- ==== Sys2Proof/Machine/Save.lean ====
section
/-! DEFINITION. The records of a context's halves and SAVEL, SAVEH, RESTL, RESTH (R268 to R272, R303, R304), the
window spills (R267), and the tickets of a context (R73 to R77). -/

namespace Sys2Proof.Machine

/-! ## Window records (R268) -/

/-- The 144 bytes of a window record. -/
def winBytes (w : Win) : List Byte :=
  (w.w.toList.flatMap (fun x => bytesOf x.toNat 8)) ++ bytesOf w.rpc.toNat 8
    ++ bytesOf (w.rmask.toNat + 2 ^ 16 * w.rld.toNat) 8

/-- The window that a record holds; RMASK bit 15 is cleared. -/
def winOf (n : Nat) : Win :=
  { w := Vector.ofFn (fun i => BitVec.ofNat 64 (bits n (64 * i.val) 64)), rpc := BitVec.ofNat 64 (bits n 1024 64),
    rmask := BitVec.ofNat 16 (bits n 1088 15), rld := BitVec.ofNat 3 (bits n 1104 3) }

/-! ## Lower and upper halves (R303, R304) -/

/-- The 4,088 bytes of a lower-half record. -/
def lowerBytes (l : Lower) : List Byte :=
  let words (v : List Word) : List Byte := v.flatMap (fun x => bytesOf x.toNat 8)
  words l.g.toList ++ l.wins.toList.flatMap winBytes ++ bytesOf 0 32
    ++ ((l.segs.toList.drop 1).flatMap (fun d => bytesOf d.toNat 32)) ++ bytesOf (statWord l.stat) 8
    ++ bytesOf l.vl.toNat 8 ++ bytesOf l.vstart.toNat 8 ++ bytesOf l.fcsr.toNat 8 ++ bytesOf l.wsp.toNat 8
    ++ words l.lps.toList ++ words l.lpe.toList ++ words l.lpc.toList ++ bytesOf 0 (0xFF8 - 0x788)

/-- The first failure of a lower-half record, in ascending offset (R270): code, sub-code, and the record offset of a
descriptor that fails. -/
def lowerBad (n : Nat) : Option (Nat × Nat × Option Nat) :=
  match (List.range 15).find? (fun i => !descOk (BitVec.ofNat 256 (bits n (8 * (0x520 + 32 * i)) 256))) with
  | some i => some (0x04, 0x06, some (0x520 + 32 * i))
  | none =>
    match statBad (bits n (8 * 0x700) 64) with
    | some e => some (0x01, (if bits n (8 * 0x700 + 15) 49 ≠ 0 then 0x04 else e), none)
    | none =>
      if 1024 < bits n (8 * 0x708) 64 then some (0x01, 0x03, none)
      else (fcsrBad (bits n (8 * 0x718) 64)).map (fun e =>
        (0x01, (if bits n (8 * 0x718 + 24) 40 ≠ 0 then 0x04 else e), none))

/-- The lower half after RESTL: VSTART and the STAT fields that MTC may not write stay (R270). -/
def lowerOf (old : Lower) (n : Nat) : Lower :=
  let word (o : Nat) : Word := BitVec.ofNat 64 (bits n (8 * o) 64)
  { g := Vector.ofFn (fun i => word (8 * i.val)),
    wins := Vector.ofFn (fun i => winOf (bits n (8 * (0x80 + 0x90 * i.val)) 1152)),
    segs := Vector.ofFn (fun i => if i.val = 0 then 0 else BitVec.ofNat 256 (bits n (8 * (0x500 + 32 * i.val)) 256)),
    stat := statMtc old.stat (bits n (8 * 0x700) 64), vl := BitVec.ofNat 11 (bits n (8 * 0x708) 11),
    vstart := old.vstart, fcsr := BitVec.ofNat 32 (bits n (8 * 0x718) 32), wsp := word 0x720,
    lps := Vector.ofFn (fun i => word (0x728 + 8 * i.val)), lpe := Vector.ofFn (fun i => word (0x748 + 8 * i.val)),
    lpc := Vector.ofFn (fun i => word (0x768 + 8 * i.val)) }

/-- The 36,792 bytes of an upper-half record; fix-up entries at VFIXN and above are zero (R212). -/
def upperBytes (u : Upper) (vfixn : Nat) : List Byte :=
  u.v.toList.flatMap (fun x => bytesOf x.toNat 1024) ++ bytesOf 0 128
    ++ (u.k.toList.drop 1).flatMap (fun x => bytesOf x.toNat 128)
    ++ (u.fix.toList.zipIdx.flatMap (fun e => bytesOf (if e.2 < vfixn then e.1.toNat else 0) 16))
    ++ bytesOf 0 (36792 - 0x8800)

/-- The upper half of a record. -/
def upperOf (bs : List Byte) : Upper :=
  let part (o z : Nat) : Nat := natOf ((bs.drop o).take z)
  { v := Vector.ofFn (fun i => BitVec.ofNat 8192 (part (0x400 * i.val) 1024)),
    k := Vector.ofFn (fun i => if i.val = 0 then 0 else BitVec.ofNat 1024 (part (0x8000 + 0x80 * i.val) 128)),
    fix := Vector.ofFn (fun i => BitVec.ofNat 128 (part (0x8400 + 16 * i.val) 16)) }

/-! ## Context store and save-area pool as memory (R28, R297, R302) -/

/-- The STATE field of a record (R296). -/
def ctxCode : CtxState → Nat
  | .free => 0 | .wait => 1 | .ready => 2 | .run => 3 | .ending => 4

/-- A half of a record that a pool area holds: its head's pool offset, and its valid bit. -/
def headWord (l : List Nat) : Nat :=
  match l with
  | [] => 0
  | k :: _ => 4096 * k + 1

/-- A ticket slot's word. -/
def ticketWord (t : Ticket) : Nat :=
  b2n t.out + 2 * b2n t.done + 2 ^ 4 * t.gen.toNat + 2 ^ 16 * t.pipe.toNat + 2 ^ 24 * t.entry.toNat

/-- The 1,024 bytes of a cursor record (R297). -/
def recordBytes (x : Ctx) : List Byte :=
  let word := fun (n : Nat) => bytesOf n 8
  word (ctxCode x.st + 2 ^ 3 * b2n x.be + 2 ^ 4 * b2n x.res + 2 ^ 5 * b2n x.started + 2 ^ 6 * b2n x.novec + 2 ^ 7 * b2n x.pre
      + 2 ^ 8 * b2n x.late + 2 ^ 9 * b2n x.ovr + 2 ^ 10 * b2n x.void + 2 ^ 11 * b2n x.cancel + 2 ^ 12 * x.waiton.toNat
      + 2 ^ 16 * x.seq.val + 2 ^ 20 * x.bank.val + 2 ^ 24 * x.aff.toNat + 2 ^ 26 * x.affseq.val + 2 ^ 30 * x.wslot.val)
    ++ word (x.queue.val + 2 ^ 12 * x.cid.toNat + 2 ^ 28 * x.func.val)
    ++ word (x.dlslot.toNat + 2 ^ 20 * x.arrslot.toNat + 2 ^ 40 * x.relslot.toNat)
    ++ word (x.prog.toNat + 2 ^ 16 * x.depth.toNat)
    ++ x.budget.toList.flatMap (fun b => bytesOf b.toNat 4) ++ bytesOf 0 4
    ++ x.meter.toList.flatMap (fun m => word m.toNat)
    ++ word x.vcause.toNat ++ word (headWord x.lareas) ++ word (headWord x.uareas)
    ++ word x.pc.toNat ++ word x.tsbp.toNat ++ word x.edtb.toNat
    ++ word (x.shadow.toNat + 2 ^ 8 * x.fdepth.toNat + 2 ^ 16 * x.maskq.toNat)
    ++ word (b2n x.defer + 2 * b2n x.fppend + 4 * b2n x.bopend) ++ word x.deferGa.toNat
    ++ x.dirSlots.toList.flatMap (fun d => bytesOf (match d with | some h => h.val + 2 ^ 15 | none => 0) 2)
    ++ (x.initseg.toList.drop 1).flatMap (fun d => bytesOf d.toNat 32) ++ bytesOf 0 32
    ++ x.tickets.toList.flatMap (fun t => word (ticketWord t)) ++ bytesOf 0 128

/-- The link at the end of an area: the pool offset of the next area, all ones in the last (R302). -/
def areaLink (l : List Nat) (i : Nat) : Nat :=
  match l[i + 1]? with
  | some k => 4096 * k
  | none => 2 ^ 64 - 1

/-- The bytes of the i-th area of a saved half, if the context holds that area. -/
def areaOf (x : Ctx) (k : Nat) : Option (List Byte) :=
  match x.lower, x.upper with
  | some l, u =>
    if x.lareas.contains k then some (lowerBytes l ++ bytesOf (areaLink x.lareas (x.lareas.idxOf k)) 8)
    else match u with
      | some v =>
        if x.uareas.contains k then
          let i := x.uareas.idxOf k
          some (((upperBytes v (bits l.fcsr.toNat 16 7)).drop (0xFF8 * i)).take 0xFF8 ++ bytesOf (areaLink x.uareas i) 8)
        else none
      | none => none
  | none, _ => none

/-- A byte of the context store or of the pool: record c lies at GA c × 1,024, and area k at pool offset k × 4,096. An area that
holds no saved half keeps what memory holds. -/
def storeByte (s : State) (ga : Nat) : Byte :=
  if ga < dirBase then ((recordBytes (getCtx s (ga / 1024)))[ga % 1024]?).getD 0
  else
    match s.ctxs.findSome? (fun e => areaOf e.2 ((ga - poolBase) / 4096)) with
    | some bs => (bs[(ga - poolBase) % 4096]?).getD 0
    | none => rdByte s ga

/-- Whether a GA lies in the context store or the pool. -/
def inStore (ga : Nat) : Bool := decide (ga < dirBase) || (decide (poolBase ≤ ga) && decide (ga < 0x1C0000000))

/-! ## Save areas (R269) -/

/-- What the link-reading phase answers: the area offsets, or its fault. -/
inductive Areas where
  | ok (offs : List Nat)
  | fail (code sub faddr : Nat)
  | unread (ga : Nat)
  deriving DecidableEq, Repr

/-- Reads the links and checks the areas: each area aligned, checked for its access, then its link read. -/
def areas (s : State) (m : Master) (d : Desc256) (pl : Nat) (r : Right) (o : Nat) : Nat → Areas
  | 0 => .ok []
  | n + 1 =>
    match segCheck s m d pl r o 4096 64 with
    | some f => .fail f.code.toNat f.sub.toNat f.faddr.toNat
    | none =>
      if n = 0 then .ok [o]
      else
        let l := reqRead s m (dBase d + o + 0xFF8) 8
        match l.error.orElse (fun _ => l.poison) with
        | some ga => .unread ga
        | none =>
          match areas s m d pl r (natOf l.bytes) n with
          | .ok offs => .ok (o :: offs)
          | e => e

/-- Writes the pieces of a record, 4,088 bytes an area, leaving each link as it is; stops at the first failure. -/
def writeAreas (s : State) (m : Master) (base : Nat) : List Nat → List Byte → State × Option Nat
  | [], _ => (s, none)
  | o :: offs, bs =>
    let w := reqWrite s m (base + o) (bs.take 0xFF8)
    match w.2 with
    | some ga => (w.1, some ga)
    | none => writeAreas w.1 m base offs (bs.drop 0xFF8)

/-- The accesses to areas take their slots (R33). -/
def slotAreas (s : State) (m : Master) (c base : Nat) (offs : List Nat) : State :=
  useSlots s m c (offs.flatMap (fun o => sectorsOf (base + o) 4096))

/-- The reads of areas meet errors that no read has met. -/
def touchAreas (s : State) (m : Master) (c base : Nat) (offs : List Nat) : State :=
  slotAreas (offs.foldl (fun a o => touch a m (base + o) 4096) s) m c base offs

/-- Reads the pieces of a record: its bytes, and the first GA that failed. -/
def readAreas (s : State) (m : Master) (base : Nat) (offs : List Nat) : List Byte × Option Nat :=
  let rs := offs.map (fun o => reqRead s m (base + o) 0xFF8)
  (rs.flatMap (·.bytes), rs.findSome? (fun r => r.error.orElse (fun _ => r.poison)))

/-- Raises Memory Uncorrectable at the running bundle: the job's guarantee is void (R167, R252). -/
def memUncorr (s : State) (q : Fin 16) (b : Fin 8) (c : Nat) (pc : Word) (ga : Nat) : State :=
  raiseExc (voidMem s (.seq q (s.seqs[q.val].banks[b.val]).lo.stat.esc) c ga) q b c (Exc.plain 0x0D 0 pc ga (some 0))

/-- SAVEL and SAVEH (R270 to R272): the record's bytes into a list of areas. -/
def saveRecord (s : State) (q : Fin 16) (b : Fin 8) (c : Nat) (seg : Fin 16) (off : Word) (n : Nat) (bs : List Byte) :
    State × Bool :=
  let k := s.seqs[q.val].banks[b.val]
  let d := segReg k.lo seg
  let m := Master.seq q k.lo.stat.esc
  match areas s m d k.lo.stat.pl.toNat .write off.toNat n with
  | .fail code sub fa => (raiseExc s q b c (Exc.plain code sub k.pc fa (some 0)), false)
  | .unread ga => (memUncorr s q b c k.pc ga, false)
  | .ok offs =>
    let w := writeAreas s m (dBase d) offs bs
    match w.2 with
    | some ga => (memUncorr w.1 q b c k.pc ga, false)
    | none => (slotAreas w.1 m c (dBase d) offs, true)

/-- RESTL (R270). -/
def restLower (s : State) (q : Fin 16) (b : Fin 8) (c : Nat) (seg : Fin 16) (off : Word) : State × Bool :=
  let k := s.seqs[q.val].banks[b.val]
  let d := segReg k.lo seg
  let m := Master.seq q k.lo.stat.esc
  match areas s m d k.lo.stat.pl.toNat .read off.toNat 1 with
  | .fail code sub fa => (raiseExc s q b c (Exc.plain code sub k.pc fa (some 0)), false)
  | .unread ga => (memUncorr s q b c k.pc ga, false)
  | .ok offs =>
    let s1 := touchAreas s m c (dBase d) offs
    let r := readAreas s1 m (dBase d) offs
    match r.2 with
    | some ga => (memUncorr s1 q b c k.pc ga, false)
    | none =>
      match lowerBad (natOf r.1) with
      | some e =>
        (raiseExc s1 q b c (Exc.plain e.1 e.2.1 k.pc (match e.2.2 with | some x => dBase d + offs.headD 0 + x | none => 0) (some 0)), false)
      | none => (modBank s1 q b (fun y => { y with lo := lowerOf y.lo (natOf r.1) }), true)

/-- RESTH (R271). -/
def restUpper (s : State) (q : Fin 16) (b : Fin 8) (c : Nat) (seg : Fin 16) (off : Word) : State × Bool :=
  let k := s.seqs[q.val].banks[b.val]
  let d := segReg k.lo seg
  let m := Master.seq q k.lo.stat.esc
  match areas s m d k.lo.stat.pl.toNat .read off.toNat 9 with
  | .fail code sub fa => (raiseExc s q b c (Exc.plain code sub k.pc fa (some 0)), false)
  | .unread ga => (memUncorr s q b c k.pc ga, false)
  | .ok offs =>
    let s1 := touchAreas s m c (dBase d) offs
    let r := readAreas s1 m (dBase d) offs
    match r.2 with
    | some ga => (memUncorr s1 q b c k.pc ga, false)
    | none => (modBank s1 q b (fun y => { y with up := upperOf r.1 }), true)

/-! ## Tickets (R73 to R77) -/

/-- The lowest slot that is not outstanding (R73). -/
def freeTicket (x : Ctx) : Option (Fin 16) :=
  (List.finRange 16).find? (fun i => !(x.tickets[i.val]).out)

/-- Whether a ticket value names an outstanding ticket (R75). -/
def ticketOk (x : Ctx) (v : Word) : Bool :=
  let t := x.tickets.toList.getD (v.toNat % 16) Ticket.zero
  t.out && decide (v.toNat / 16 = t.gen.toNat)

/-- The status word of an ended stream (R75). -/
def statusWord (t : Ticket) : Word :=
  BitVec.ofNat 64 (1 + b2n (decide (bits t.fstat.toNat 16 8 ≠ 0)) * 2 + 2 ^ 23 * t.wcount.toNat)

/-- FCSR[5:0] from the FP flags of an FSTAT word: the same layout (R61, R202). -/
def fstatFlags (f : Word) : Nat := bits f.toNat 24 6

/-- Whether an FP Imprecise fault is pending after an ended stream (R77): the trap enables are those that STRM copied (R74,
R204). -/
def streamFp (t : Ticket) : Bool :=
  decide (bits t.fstat.toNat 16 8 ≠ 0) || decide (bits (fstatFlags t.fstat) 1 5 &&& t.traps.toNat ≠ 0)

end Sys2Proof.Machine
end

