-- ==== Sys2Proof/Machine/Directory.lean ====
section
/-! DEFINITION. The Scarab directory: hash, walk, placement, the operations on one element and on a wave, and the
register form (R136 to R164). -/

namespace Sys2Proof.Machine

/-! ## Buckets (R136, R142 to R145) -/

/-- The GA of bucket j. -/
def bucketGa (j : Nat) : Nat := dirBase + 64 * j

/-- The bucket-head cache's array (R29, R405). -/
def hcacheBase : Nat := onDieBase + 0x04000000

/-- The line of the bucket-head cache that holds a bucket (R160). -/
def cacheSlot (s : State) (j : Nat) : Option Nat := (s.dir.cache.find? (fun e => e.1 = j)).map (·.2)

/-- The key at which a bucket is read: its line in the bucket-head cache, or in LM (R160). -/
def bucketKey (s : State) (j : Nat) : Nat :=
  match cacheSlot s j with
  | some k => hcacheBase + 64 * k
  | none => bucketGa j

/-- A bucket line as a number: 0 where nothing is stored. -/
def bucket (s : State) (j : Nat) : Nat := natOf ((List.range 64).map (fun i => rdByte s (bucketKey s j + i)))

/-- A bucket line that reads as poisoned, in the bucket-head cache or in LM, or whose LM island answers with an error. -/
def bucketBad (s : State) (j : Nat) : Bool :=
  match cacheSlot s j with
  | some k => (List.range 16).any (fun i => s.poison.contains (hcacheBase + 64 * k + 4 * i))
  | none =>
    let r := gaRead s .scarab (bucketGa j) 64
    r.poison.isSome || r.error.isSome

/-- Writes 64 bytes at a key whole, which clears their poison. -/
def putLine64 (s : State) (key line : Nat) : State :=
  wrBytes { s with poison := s.poison.filter (fun k => decide (k < key) || decide (key + 64 ≤ k)),
                   upset := s.upset.filter (fun e => decide (e.1 < key) || decide (key + 64 ≤ e.1)) } key (bytesOf line 64)

/-- Writes a bucket line: LM and the cached line together (R160). -/
def putBucket (s : State) (j line : Nat) : State :=
  let s1 := putLine64 s (bucketGa j) line
  match cacheSlot s j with
  | some k => putLine64 s1 (hcacheBase + 64 * k) line
  | none => s1

/-- Entry i of a bucket line. -/
def entry (line i : Nat) : Nat := bits line (128 * i) 128
def entTag (e : Nat) : Nat := bits e 0 24
def entFlags (e : Nat) : Nat := bits e 24 8
def entLink (e : Nat) : Nat := bits e 32 32
def entPay (e : Nat) : Nat := bits e 64 64

/-- A key entry and a link entry. -/
def keyEntry (h pay : Nat) : Nat := bits h 40 24 + 2 ^ 24 + 2 ^ 32 * bits h 8 32 + 2 ^ 64 * (pay % 2 ^ 64)
def linkEntry (j : Nat) : Nat := 2 ^ 25 + 2 ^ 32 * (j % 2 ^ 32)

/-- Writes entry i of bucket j: the engine writes the whole line. -/
def putEntry (s : State) (j i e : Nat) : State :=
  let line := bucket s j
  putBucket s j (line - 2 ^ (128 * i) * entry line i + 2 ^ (128 * i) * e)

/-- The hash of a key under a directory (R142). -/
def dirHash (x : Directory) (key : Nat) : Nat := zh64 (zhBits x.ktype.toNat key) (tySize x.ktype.toNat) x.seed.toNat

/-- The main bucket of a hash. -/
def mainBucket (x : Directory) (h : Nat) : Nat := x.mainBase.toNat + h % 2 ^ x.mainLog2.toNat

/-! ## Filter and cache (R160, R161) -/

/-- The filter bit of a hash. -/
def filterBit (x : Directory) (h : Nat) : Nat := x.filtBase.toNat + h >>> (64 - x.filtLog2.toNat)

def filterGet (s : State) (n : Nat) : Bool := (rdByte s (filterBase + n / 8)).getLsbD (n % 8)
def filterSet (s : State) (n : Nat) : State :=
  wrByte s (filterBase + n / 8) (rdByte s (filterBase + n / 8) ||| BitVec.ofNat 8 (2 ^ (n % 8)))

/-- The line of the array that a new line takes: a free one, or that of the least recently used bucket. -/
def cacheVictim (l : List (Nat × Nat)) : Nat :=
  if l.length < 262144 then ((List.range (l.length + 1)).find? (fun k => !l.any (fun e => e.2 = k))).getD 0
  else (l.getLast?.map (·.2)).getD 0

/-- A main-area line is read through the bucket-head cache: a hit counts, and a miss that can be read allocates (R160). -/
def cacheTouch (s : State) (x : Directory) (j : Nat) : State :=
  if !x.cache then s
  else
    match cacheSlot s j with
    | some k => { s with dir := { s.dir with cache := (j, k) :: s.dir.cache.filter (fun e => e.1 ≠ j), hcHit := satInc s.dir.hcHit } }
    | none =>
      if bucketBad s j then s
      else
        let k := cacheVictim s.dir.cache
        let s1 := putLine64 s (hcacheBase + 64 * k) (bucket s j)
        { s1 with dir := { s1.dir with cache := (j, k) :: s1.dir.cache.filter (fun e => e.2 ≠ k) } }

/-! ## The walk (R146) -/

/-- What the walk of a chain finds. -/
inductive Walk where
  | present (j slot : Nat)
  | absent (hole : Option (Nat × Nat)) (j lvl : Nat)
  | overflow (ga : Nat)
  | bad (ga : Nat)
  deriving DecidableEq, Repr

/-- Walks a chain from bucket j at a level, to the declared depth; a chain has at most 8 levels. -/
def walk (s : State) (h depth : Nat) : Nat → Nat → Nat → Option (Nat × Nat) → Walk
  | 0, j, _, _ => .overflow (bucketGa j)
  | n + 1, lvl, j, hole =>
    if bucketBad s j then .bad (bucketGa j)
    else
      let line := bucket s j
      match (List.range 4).find? (fun i => let e := entry line i
          decide (entFlags e = 1) && decide (entTag e = bits h 40 24) && decide (entLink e = bits h 8 32)) with
      | some i => .present j i
      | none =>
        let hole' := match hole with
          | some x => some x
          | none => ((List.range 4).find? (fun i => decide (entFlags (entry line i) = 0))).map (fun i => (j, i))
        let e3 := entry line 3
        if entFlags e3 = 2 then
          (if depth < lvl + 1 then .overflow (bucketGa j) else walk s h depth n (lvl + 1) (entLink e3) hole')
        else .absent hole' j lvl

/-- A bucket line that is read meets an error that no read has met. -/
def touchBucket (s : State) (j : Nat) : State :=
  match cacheSlot s j with
  | some k => touch s .mgmt (hcacheBase + 64 * k) 64
  | none => touch s .scarab (bucketGa j) 64

/-- The reads of a walk meet errors that no read has met (R51, R414). -/
def walkReads (s : State) (depth : Nat) : Nat → Nat → Nat → State
  | 0, _, _ => s
  | n + 1, lvl, j =>
    let s1 := touchBucket s j
    let e3 := entry (bucket s1 j) 3
    if s.upset.isEmpty || bucketBad s1 j || decide (entFlags e3 ≠ 2) || decide (depth < lvl + 1) then s1
    else walkReads s1 depth n (lvl + 1) (entLink e3)

/-- What a directory operation of one element answers. -/
structure DirOut where
  st : State
  val : Nat
  /-- The fault: its code and FADDR. -/
  bad : Option (Nat × Nat)
  fl : Nat
  tiny : Bool
  sub : Bool
  deriving DecidableEq, Repr

/-- A directory becomes SUSPECT (R141), with its record; only a READY one changes. -/
def suspect (s : State) (h cause : Nat) : State :=
  let x := getDir s h
  if x.st = .ready then offer (setDir s h { x with st := .suspect }) 0x0601 sevWarning islDR.val h cause 0 else s

/-- A Directory Overflow is counted (DIR_OVF_CNT). -/
def dirOverflow (s : State) (ga : Nat) : DirOut :=
  ⟨{ s with dir := { s.dir with ovfCnt := satInc s.dir.ovfCnt } }, 0, some (0x0F, ga), 0, false, false⟩

/-- An unreadable bucket makes the directory SUSPECT (R155). -/
def dirUnread (s : State) (h ga : Nat) : DirOut := ⟨suspect s h 2, 0, some (0x0D, ga), 0, false, false⟩

/-- Places an absent key with a payload (R146, R150, R161): the new state, or the fault. -/
def dirPlace (s : State) (dh hash depth : Nat) (hole : Option (Nat × Nat)) (j lvl pay : Nat) : State ⊕ DirOut :=
  let x := getDir s dh
  let fin := fun (t : State) (y : Directory) =>
    let t1 := setDir t dh { y with entries := y.entries + 1 }
    if y.filtLog2 = 0 then t1 else filterSet t1 (filterBit y hash)
  match hole with
  | some (hj, hi) => .inl (fin (putEntry s hj hi (keyEntry hash pay)) x)
  | none =>
    if depth < lvl + 1 then .inr (dirOverflow s (bucketGa j))
    else if x.ovfUsed.toNat = x.ovfCount.toNat then .inr (dirOverflow s 0)
    else
      let b := x.ovfBase.toNat + x.ovfUsed.toNat
      if (gaRead s .scarab (bucketGa b) 64).error.isSome then .inr (dirUnread s dh (bucketGa b))
      else
        let old := entry (bucket s j) 3
        let s1 := putEntry (putBucket s b (old + 2 ^ 128 * keyEntry hash pay)) j 3 (linkEntry b)
        .inl (fin s1 { x with ovfUsed := x.ovfUsed + 1,
                              depth := if x.depth.toNat < lvl + 1 then BitVec.ofNat 3 (lvl + 1) else x.depth })

/-- The payload update of DAGG (R151): with the flags of an FP function. -/
def daggOp (var rm : Nat) (sg : Bool) (p b : Nat) : FpRes :=
  let t := if sg then 3 else 7
  match var with
  | 0 => plain ((p + b) % 2 ^ 64)
  | 1 => plain (if tyVal t p ≤ tyVal t b then p else b)
  | 2 => plain (if tyVal t p ≥ tyVal t b then p else b)
  | 3 => plain ((p + 1) % 2 ^ 64)
  | 4 | 5 => fpAdd fmt64 rm p b
  | 6 => fpMinMax fmt64 false p b
  | _ => fpMinMax fmt64 true p b

/-- One operation retires and is counted, or faults and does not retire (R150, R153, R155). sg tells i64 from u64 for DAGG. -/
def dirOp (s0 : State) (dh op var depth rm : Nat) (sg : Bool) (key b : Nat) : DirOut :=
  let x := getDir s0 dh
  let h := dirHash x key
  let ok := fun (t : State) (v : Nat) =>
    (⟨{ t with dir := { t.dir with ops := t.dir.ops + 1 } }, v, none, 0, false, false⟩ : DirOut)
  if (op = 0x10 ∨ op = 0x13) ∧ x.fvalid = true ∧ filterGet s0 (filterBit x h) = false then
    ok { s0 with dir := { s0.dir with filtSkip := satInc s0.dir.filtSkip } } (if op = 0x10 ∧ var = 0 then x.miss.toNat else 0)
  else
    let s := cacheTouch (walkReads s0 depth 8 0 (mainBucket x h)) x (mainBucket x h)
    let place := fun (hole : Option (Nat × Nat)) (j lvl pay val : Nat) (seq : Bool) =>
      match dirPlace s dh h depth hole j lvl pay with
      | .inl t => ok (if seq then setDir t dh { getDir t dh with seq := (getDir t dh).seq + 1 } else t) val
      | .inr r => r
    match walk s h depth 8 0 (mainBucket x h) none with
    | .overflow ga => dirOverflow s ga
    | .bad ga => dirUnread s dh ga
    | .present j i =>
      let p := entPay (entry (bucket s j) i)
      match op with
      | 0x10 => ok s (if var = 0 then p else 1)
      | 0x11 => match var with
        | 1 => ok (putEntry s j i (keyEntry h b)) p
        | 2 => ok s 0
        | _ => ok s p
      | 0x12 =>
        let r := daggOp var rm sg p b
        { ok (putEntry s j i (keyEntry h r.val)) 0 with fl := r.fl, tiny := r.tiny, sub := r.sub }
      | _ => ok (setDir (putEntry s j i 0) dh { getDir s dh with entries := (getDir s dh).entries - 1 }) 1
    | .absent hole j lvl =>
      match op with
      | 0x10 => ok s (if var = 0 then x.miss.toNat else 0)
      | 0x11 => match var with
        | 0 => place hole j lvl b b false
        | 1 => place hole j lvl b x.miss.toNat false
        | 2 => place hole j lvl b 1 false
        | _ => place hole j lvl x.seq.toNat x.seq.toNat true
      | 0x12 => place hole j lvl (if var = 3 then 1 else b) 1 false
      | _ => ok s 0

/-! ## Waves (R153, R156) -/

/-- An element that reaches the engine: index, key, operand b. -/
structure DirEl where
  i : Nat
  key : Nat
  b : Nat
  deriving DecidableEq, Repr

/-- What a group of elements answers: results by element, flags, affected elements, the first fault. -/
structure DirWave where
  st : State
  res : List (Nat × Nat)
  fl : Nat
  fix : List (Nat × Bool × Bool)
  bad : Option (Nat × Nat × Nat)
  deriving DecidableEq, Repr

/-- Elements in ascending order, each seeing those before it. -/
def dirSeq (dh op var depth rm : Nat) (sg : Bool) : DirWave → List DirEl → DirWave
  | w, [] => w
  | w, e :: es =>
    let r := dirOp w.st dh op var depth rm sg e.key e.b
    match r.bad with
    | some f => { w with st := r.st, bad := some (e.i, f.1, f.2) }
    | none =>
      dirSeq dh op var depth rm sg { w with
        st := r.st, res := w.res ++ [(e.i, r.val)], fl := w.fl ||| r.fl,
        fix := if r.tiny || r.sub then w.fix ++ [(e.i, r.tiny, r.sub)] else w.fix } es

/-- A permutation of a list, chosen by a number (R151 VAR 5). -/
def permute {α : Type} : Nat → Nat → List α → List α
  | 0, _, xs => xs
  | _ + 1, _, [] => []
  | n + 1, k, x :: xs =>
    let len := xs.length + 1
    match (x :: xs)[k % len]? with
    | some y => y :: permute n (k / len) ((x :: xs).eraseIdx (k % len))
    | none => x :: xs

/-- Adds a value to the payload of a key that is present, or makes it the payload of one this wave placed. -/
def dirCombine (s : State) (dh depth rm : Nat) (placed : Bool) (key v : Nat) : State × FpRes :=
  let x := getDir s dh
  let h := dirHash x key
  match walk s h depth 8 0 (mainBucket x h) none with
  | .present j i =>
    let r := if placed then plain v else fpAdd fmt64 rm (entPay (entry (bucket s j) i)) v
    (putEntry s j i (keyEntry h r.val), r)
  | _ => (s, plain 0)

/-- Ordered FSUM over one wave of 64 positions (R156): the keys are looked up or placed in ascending order, then each
key's tree sum is added to its payload. A fix-up entry names the lowest element of a key's combination (R211). -/
def dirOrdered (s : State) (dh depth rm : Nat) (es : List DirEl) : DirWave :=
  let x := getDir s dh
  let w := dirSeq dh 0x11 2 depth rm false ⟨s, [], 0, [], none⟩ (es.map (fun e => { e with b := 0 }))
  let live : List DirEl := (match w.bad with | some f => es.filter (fun e => decide (e.i < f.1)) | none => es)
  let hashes := live.map (fun e => dirHash x e.key)
  let first := (live.zip hashes).zipIdx.filter (fun p => (hashes.take p.2).all (fun h => h ≠ p.1.2))
  first.foldl (fun a p =>
    let mine := live.filter (fun e => dirHash x e.key = p.1.2)
    let tr := treeSum fmt64 rm 6 ((List.range 64).map (fun q =>
      ((mine.find? (fun e => e.i % 64 = q)).map (fun e => (e.b, e.i))))) 0 []
    let node := tr.1.getD (0, 0)
    let placed := a.res.any (fun r => decide (r.1 = p.1.1.i) && decide (r.2 = 1))
    let c := dirCombine a.st dh depth rm placed p.1.1.key node.1
    { a with st := c.1, fl := a.fl ||| tr.2.1 ||| c.2.fl,
             fix := let tiny := c.2.tiny || tr.2.2.any (·.2.1)
                    let sub := c.2.sub || tr.2.2.any (·.2.2)
                    if tiny || sub then a.fix ++ [(p.1.1.i, tiny, sub)] else a.fix }) w

/-- Unordered FSUM over one wave: the keys are looked up or placed in ascending order, then the values are added in an
order that the manual leaves open (R156). -/
def dirUnordered (s : State) (dh depth rm : Nat) (es : List DirEl) : DirWave :=
  let w := dirSeq dh 0x11 2 depth rm false ⟨s, [], 0, [], none⟩ (es.map (fun e => { e with b := 0 }))
  let live : List DirEl := (match w.bad with | some f => es.filter (fun e => decide (e.i < f.1)) | none => es)
  let k := Config.freeOrder w.st.free
  let s1 : State := { w.st with free := w.st.free + 1 }
  (permute live.length k live).foldl (fun (p : DirWave × List Nat) e =>
    let h := dirHash (getDir p.1.st dh) e.key
    let placed := decide (h ∉ p.2) && live.any (fun d => dirHash (getDir p.1.st dh) d.key = h && w.res.any (fun r => r.1 = d.i && r.2 = 1))
    let c := dirCombine p.1.st dh depth rm placed e.key e.b
    ({ p.1 with st := c.1, fl := p.1.fl ||| c.2.fl,
                fix := (if c.2.tiny || c.2.sub then
                    p.1.fix ++ [(((live.find? (fun d => dirHash (getDir p.1.st dh) d.key = h)).map (·.i)).getD e.i, c.2.tiny, c.2.sub)]
                  else p.1.fix) }, h :: p.2))
    ({ w with st := s1 }, []) |>.1

/-- A group of elements of at most one wave retires. -/
def dirGroup (s : State) (dh op var depth rm : Nat) (sg : Bool) (es : List DirEl) : DirWave :=
  if op = 0x12 ∧ var = 4 then dirOrdered s dh depth rm es
  else if op = 0x12 ∧ var = 5 then dirUnordered s dh depth rm es
  else dirSeq dh op var depth rm sg ⟨s, [], 0, [], none⟩ es

/-- Whether a directory step takes an operand b (R150, R151). -/
def dirHasB (op var : Nat) : Bool := (op = 0x11 && var != 3) || (op = 0x12 && var != 3)

/-- A VAR that the tables list. -/
def dirVarOk (op var : Nat) : Bool :=
  match op with
  | 0x10 => decide (var ≤ 1)
  | 0x11 => decide (var ≤ 3)
  | 0x12 => decide (var ≤ 7)
  | _ => decide (var = 0)

/-- Whether a result is b1. -/
def dirB1 (op var : Nat) : Bool :=
  match op with
  | 0x10 => decide (var = 1)
  | 0x11 => decide (var = 2)
  | _ => true

/-- Whether an operation changes its directory. -/
def dirUpdates (op : Nat) : Bool := decide (op ≠ 0x10)

/-- A GA of the directory region of LM (R28). -/
def inDirs (ga : Nat) : Bool := decide (dirBase ≤ ga) && decide (ga < 0x140000000)

/-- The directory engine serves requests: its island is up (R13). The EN of its page always reads 1 (R472). -/
def dirServed (s : State) : Bool := islandUp s islDR

/-! ## The register form (R164) -/

def immHandle (imm : Nat) : Nat := bits imm 0 10
def immVar (imm : Nat) : Nat := bits imm 10 4

/-- The result of a register-form directory instruction is a mask. -/
def dirResB1 (op : Nat) (aux : BitVec 16) : Bool := dirB1 op (immVar aux.toNat)

/-- The encoding checks of a register-form directory instruction (R139, R149, R233). -/
def dirEnc (s : State) (c : Nat) (op : Nat) (a : FArgs) : List SFault :=
  let x := a.ext.getD { km := 0, mz := false, bs := false, sc := false, mbz := 0, aux := 0 }
  let n := x.aux.toNat
  let t := a.ty.toNat
  let bad := decide (12 ≤ t) || !dirVarOk op (immVar n)
    || !(getCtx s c).dirs.any (fun h => h.val == immHandle n)
    || decide (t ≠ (getDir s (immHandle n)).ktype.toNat) || (dirResB1 op x.aux && decide (8 ≤ a.vd.val))
    || (x.bs && !dirHasB op (immVar n)) || x.sc
  let nz := decide (x.mbz ≠ 0) || decide (bits n 14 2 ≠ 0) || (!dirHasB op (immVar n) && decide (a.vb ≠ 0))
  if bad then [⟨3, 0, 0x01, 0x03, 0⟩] else if nz then [⟨3, 0, 0x01, 0x04, 0⟩] else []

/-- Splits elements into the waves of R156: 64 consecutive elements. -/
def dirWaves (es : List DirEl) : List (List DirEl) :=
  ((List.range 16).map (fun w => es.filter (fun e => decide (e.i / 64 = w)))).filter (fun g => !g.isEmpty)

/-- Waves in order, up to the first fault. -/
def dirRun (dh op var depth rm : Nat) (sg : Bool) : DirWave → List (List DirEl) → DirWave
  | w, [] => w
  | w, g :: gs =>
    let r := dirGroup w.st dh op var depth rm sg g
    let w1 : DirWave := { st := r.st, res := w.res ++ r.res, fl := w.fl ||| r.fl, fix := w.fix ++ r.fix, bad := r.bad }
    match r.bad with
    | some _ => w1
    | none => dirRun dh op var depth rm sg w1 gs

/-- Replaces element i of width w in a register. -/
def putReg (v w i x : Nat) : Nat := v - 2 ^ (w * i) * bits v (w * i) w + 2 ^ (w * i) * x

/-- A vector fix-up entry and the list's count (R212). -/
def fixInto (k : Bank) (vd : Fin 32) (f : Nat × Bool × Bool) : Bank :=
  let n := bits k.lo.fcsr.toNat 16 7
  let e : BitVec 128 := BitVec.ofNat 128 (f.1 % 1024 + 2 ^ 10 * b2n f.2.2 + 2 ^ 11 * b2n f.2.1 + 2 ^ 16 * vd.val + 2 ^ 64 * k.pc.toNat)
  if h : n < 64 then { k with up := { k.up with fix := k.up.fix.set n e }, lo := { k.lo with fcsr := k.lo.fcsr + 0x10000#32 } }
  else { k with lo := { k.lo with fcsr := k.lo.fcsr ||| 0x800000#32 } }

/-- Puts affected elements in ascending order, one entry an element. -/
def sortFix (xs : List (Nat × Bool × Bool)) : List (Nat × Bool × Bool) :=
  xs.foldl (fun acc f =>
    if acc.any (fun g => g.1 = f.1) then acc.map (fun g => if g.1 = f.1 then (g.1, g.2.1 || f.2.1, g.2.2 || f.2.2) else g)
    else (acc.takeWhile (fun g => decide (g.1 < f.1))) ++ f :: acc.dropWhile (fun g => decide (g.1 < f.1))) []

/-- A register-form directory instruction (R164): every element retires before the bundle completes. Answers the state
and the fault with the syllable index 0. -/
def dirRegister (s : State) (q : Fin 16) (b : Fin 8) (c : Nat) (op : Nat) (imm : BitVec 16) (a : FArgs) :
    State × Option (SFault × Nat) :=
  let k := s.seqs[q.val].banks[b.val]
  let y := getCtx s c
  let x := a.ext.getD { km := 0, mz := false, bs := false, sc := false, mbz := 0, aux := 0 }
  let n := imm.toNat
  let var := immVar n
  let wk := tyW a.ty.toNat
  let b1 := dirB1 op var
  let cnt := min (8192 / wk) (if dirHasB op var || !b1 then 128 else 1024)
  let hi := min k.lo.vl.toNat cnt
  let lo := k.lo.vstart.toNat
  let km := rdK k.up x.km
  let idx := (List.range (hi - lo)).map (· + lo)
  let bval := fun (i : Nat) => if x.bs then (rdInt k.lo a.vb).toNat else bits (k.up.v[a.vb.val]).toNat (64 * i) 64
  let els := (idx.filter (fun i => km.getLsbD i)).map (fun i => (⟨i, bits (k.up.v[a.va.val]).toNat (wk * i) wk, bval i⟩ : DirEl))
  let s1 := charge (charge (charge s c 7 2) c 8 k.lo.vl.toNat) c 0 (64 * (1 + y.depth.toNat) * k.lo.vl.toNat)
  let r := if dirServed s1 && !(s1.seqs[q.val]).lost.any inDirs then
      dirRun (immHandle n) op var y.depth.toNat (fcsrRM k.lo.fcsr) Config.daggSigned ⟨s1, [], 0, [], none⟩ (dirWaves els)
    else
      let f := els.head?.map (fun e => (e.i, 0x0D, bucketGa (getDir s1 (immHandle n)).mainBase.toNat))
      ⟨if dirUpdates op && f.isSome then suspect s1 (immHandle n) 4 else s1, [], 0, [], f⟩
  let upto : Nat := match r.bad with | some f => f.1 | none => hi
  let k7 : Fin 8 := ⟨a.vd.val % 8, Nat.mod_lt _ (by decide)⟩
  let w := if b1 then 1 else 64
  let old := if b1 then (rdK k.up k7).toNat else (k.up.v[a.vd.val]).toNat
  let out := (idx.filter (fun (i : Nat) => decide (i < upto))).foldl (fun (v i : Nat) =>
    match r.res.find? (fun e => e.1 = i) with
    | some e => putReg v w i e.2
    | none => if x.mz then putReg v w i 0 else v) old
  let trap := !k.lo.fcsr.getLsbD 9 && !k.lo.stat.ct
  let s2 := modBank r.st q b (fun z =>
    let z1 := if b1 then { z with up := wrK z.up k7 (BitVec.ofNat 1024 out) }
      else { z with up := { z.up with v := vset z.up.v a.vd (BitVec.ofNat 8192 out) } }
    let z2 := { z1 with lo := { z1.lo with fcsr := z1.lo.fcsr ||| BitVec.ofNat 32 r.fl,
                                           vstart := match r.bad with | some f => BitVec.ofNat 11 f.1 | none => 0 } }
    if trap then (sortFix r.fix).foldl (fun t f => fixInto t a.vd f) z2 else z2)
  (s2, r.bad.map (fun f => (⟨6, 0, BitVec.ofNat 8 f.2.1, 0, BitVec.ofNat 57 f.2.2⟩, 0)))

end Sys2Proof.Machine
end

