-- ==== Sys2Proof/Machine/StreamCheck.lean ====
section
/-! DEFINITION. The stream block: descriptors, the chain program, the checks made at issue in the order of R501, and
the cost of a stream (R59 to R69, R80 to R83, R103, R107 to R109, R180 to R183). -/

namespace Sys2Proof.Machine

/-- A stream-table entry as STRM issues it (R74). -/
def Stream.issued (c : Nat) (slot : Fin 16) (q : Fin 16) (blk : Nat) (x : Ctx) (k : Bank) (order : Nat) : Stream :=
  { ctx := c, slot := slot, phase := .issued, seq := q, blk := blk, be := x.be, dl := x.dlslot, pl := k.lo.stat.pl,
    rm := BitVec.ofNat 3 (fcsrRM k.lo.fcsr), subn := k.lo.fcsr.getLsbD 9,
    traps := BitVec.ofNat 5 (bits k.lo.fcsr.toNat 10 5), ct := k.lo.stat.ct, func := x.func, depth := x.depth.toNat,
    dirs := x.dirs, segs := k.lo.segs, out := 0, a := 0, b := 0, chain := 0, consts := 0, keys := [], n := 0, start := 0,
    next := 0, com := 0,
    cur := { wcount := 0, result := 0, carry := 0, flags := 0, fixn := 0, fixovf := false, fix := [] },
    saved := { wcount := 0, result := 0, carry := 0, flags := 0, fixn := 0, fixovf := false, fix := [] },
    recs := [], els := [], notes := [], leaves := [], dirRec := [], lines := [], lost := [], drLost := false, fault := none, cancel := false, charged := false, bad := none, demoted := false,
    ports := [], updated := none,
    order := order }

/-! ## Descriptors (R63, R64) -/

/-- The operand numbers of FSRC.OPND (R61): data, index and mask of the input A 0, B 1 and the output 2. -/
def opData (k : Nat) : Nat := 1 + k
def opIndex (k : Nat) : Nat := 4 + k
def opMask (k : Nat) : Nat := 7 + k

def sdBase (d : Nat) : Nat := bits d 0 57
/-- The signed stride: 48 bits. -/
def sdStride (d : Nat) : Int :=
  let n := bits d 64 48
  if n.testBit 47 then (n : Int) - 281474976710656 else n
def sdCount (d : Nat) : Nat := bits d 128 41
def sdCtrl (d : Nat) : Nat := bits d 192 64
def sdType (d : Nat) : Nat := bits (sdCtrl d) 0 4
def sdSeg (d : Nat) : Nat := bits (sdCtrl d) 4 4
def sdEn (d : Nat) : Bool := bit (sdCtrl d) 8
def sdMode (d : Nat) : Nat := bits (sdCtrl d) 10 2
def sdIdx (d : Nat) : Bool := bit (sdCtrl d) 12
def sdMsk (d : Nat) : Bool := bit (sdCtrl d) 13
def sdMinv (d : Nat) : Bool := bit (sdCtrl d) 14
def sdIseg (d : Nat) : Nat := bits (sdCtrl d) 16 4
def sdMseg (d : Nat) : Nat := bits (sdCtrl d) 20 4
/-- The size of an index in bytes. -/
def sdIsize (d : Nat) : Nat := 2 ^ bits (sdCtrl d) 24 2
def sdBitoff (d : Nat) : Nat := bits (sdCtrl d) 32 6
def sdMbitoff (d : Nat) : Nat := bits (sdCtrl d) 38 6
def sdIbase (d : Nat) : Nat := bits d 256 57
def sdMbase (d : Nat) : Nat := bits d 320 57

/-- The bits of CTRL that belong to the index (IDX, ISEG, ITYPE) and to the mask (MSK, MINV, MSEG, MBITOFF). -/
def ctrlIndexBits : Nat := 2 ^ 12 + 15 * 2 ^ 16 + 3 * 2 ^ 24
def ctrlMaskBits : Nat := 2 ^ 13 + 2 ^ 14 + 15 * 2 ^ 20 + 63 * 2 ^ 38

/-- The segment register of a number, as the stream copied it (R74); s0 is null. -/
def strmSeg (t : Stream) (n : Nat) : Desc256 := if n = 0 then 0 else t.segs.toList.getD n 0

/-- The input A 0, input B 1 and output 2 of a stream. -/
def strmDesc (t : Stream) (k : Nat) : Nat :=
  match k with
  | 0 => t.a.toNat
  | 1 => t.b.toNat
  | _ => t.out.toNat

/-- A failure of the checks at issue: sub-code, FADDR, OPND and STEP. -/
structure IssueFail where
  sub : Nat
  faddr : Nat
  opnd : Nat
  step : Nat
  deriving DecidableEq, Repr

/-- A failure under a condition. -/
def failIf (p : Bool) (sub opnd : Nat) : Option IssueFail := if p then some ⟨sub, 0, opnd, 0⟩ else none

/-- The first failure of a list. -/
def firstFail (l : List (Option IssueFail)) : Option IssueFail := l.findSome? id

/-- N of R66. -/
def strmN (t : Stream) : Nat := if sdEn t.out.toNat then sdCount t.out.toNat else sdCount t.a.toNat

/-- Row 1 of R501 for one descriptor. R501 leaves open which of several failures of one descriptor FSRC names: of several
must-be-zero or reserved values, of several fields that R66 finds at odds, of several misaligned ones; and R66 whether IBASE and MBASE
must be aligned where IDX or MSK is 0. DESIGN CHOICE (log entry 130): must-be-zero and reserved values, and misaligned fields, of the
data come first, then of the index, then of the mask; of the fields at odds, STRIDE of b1 comes first, then IDX, then COUNT; IBASE and
MBASE are tested only with IDX = 1 and MSK = 1. -/
def descFail (t : Stream) (k : Nat) : Option IssueFail :=
  let d := strmDesc t k
  let c := sdCtrl d
  let ci := c &&& ctrlIndexBits
  let cm := c &&& ctrlMaskBits
  let n := strmN t
  if !sdEn d then
    firstFail
      [failIf (bits d 0 192 ≠ 0 || c - ci - cm ≠ 0 || bits d 384 128 ≠ 0) 6 (opData k),
       failIf (bits d 256 64 ≠ 0 || ci ≠ 0) 6 (opIndex k),
       failIf (bits d 320 64 ≠ 0 || cm ≠ 0) 6 (opMask k)]
  else
    let b1 := decide (sdType d = 11)
    let z := (tySize (sdType d) : Int)
    firstFail
      [failIf (bits d 57 7 ≠ 0 || decide (bits d 111 17 ≠ 0 ∧ bits d 111 17 ≠ 2 ^ 17 - 1) || bits d 169 23 ≠ 0
          || bits d 384 128 ≠ 0 || bits c 44 20 ≠ 0 || bits c 26 6 ≠ 0 || bit c 15 || bit c 9 || decide (11 < sdType d)
          || (if k = 2 then decide (sdMode d = 3) else decide (sdMode d ≠ 0)) || (!b1 && decide (sdBitoff d ≠ 0)))
          6 (opData k),
       failIf (bits d 313 7 ≠ 0) 6 (opIndex k),
       failIf (bits d 377 7 ≠ 0) 6 (opMask k),
       failIf (decide (2 ^ 40 < sdCount d)) 7 (opData k),
       failIf (b1 && decide (sdStride d ≠ 0)) 6 (opData k),
       failIf ((b1 && sdIdx d) || (k = 2 && sdIdx d && decide (sdMode d ≠ 0))) 6 (opIndex k),
       failIf (decide (sdCount d ≠ n)) 6 (opData k),
       failIf (if b1 then decide (sdBase d % 8 ≠ 0) else decide ((sdBase d : Int) % z ≠ 0) || decide (sdStride d % z ≠ 0))
          5 (opData k),
       failIf (sdIdx d && decide (sdIbase d % sdIsize d ≠ 0)) 5 (opIndex k),
       failIf (sdMsk d && decide (sdMbase d % 8 ≠ 0)) 5 (opMask k)]

/-! ## Chain programs (R68, R69) -/

/-- A chain step's fields. -/
structure ChainStep where
  word : Nat
  last : Bool
  wmask : Bool
  unit : Nat
  op : Nat
  ty : Nat
  s1 : Nat
  s2 : Nat
  s3 : Nat
  imm : Nat
  deriving DecidableEq, Repr

/-- The fields of a step word. -/
def chainStep (w : Nat) : ChainStep :=
  { word := w, last := bit w 63, wmask := bit w 62, unit := bits w 58 4, op := bits w 50 8, ty := bits w 46 4,
    s1 := bits w 41 5, s2 := bits w 36 5, s3 := bits w 31 5, imm := bits w 0 16 }

/-- The eight step words. -/
def chainWords (t : Stream) : List Nat := (List.range 8).map (fun i => bits t.chain.toNat (64 * i) 64)

/-- The steps of the chain, up to the first with LAST. -/
def chainOf (t : Stream) : List ChainStep :=
  let l := (chainWords t).map chainStep
  match l.findIdx? (·.last) with
  | some n => l.take (n + 1)
  | none => l

/-- The sources a step names. -/
def ChainStep.srcs (x : ChainStep) : List Nat := [x.s1, x.s2, x.s3].filter (· ≠ 0)

def isDirStep (x : ChainStep) : Bool := decide (x.unit = 5) && decide (0x10 ≤ x.op) && decide (x.op ≤ 0x13)
def isAccStep (x : ChainStep) : Bool := match catRow x.unit x.op with | some r => r.acc | none => false
def isExpand (x : ChainStep) : Bool := decide (x.unit = 4) && decide (x.op = 1)
/-- A whole-stream reduction, whose result goes to RESULT (R116, R122). -/
def isWhole (x : ChainStep) : Bool :=
  (decide (x.unit ≤ 1) && decide (0x30 ≤ x.op) && decide (x.op ≤ 0x36)) || (decide (x.unit = 3) && decide (0x20 ≤ x.op))

/-- The type that a source of step k has: none for a constant or the index; some 99 for one that names nothing valid. -/
def srcType (t : Stream) (ch : List ChainStep) (k x : Nat) : Option Nat :=
  if x = 1 ∨ x = 2 then (if sdEn (strmDesc t (x - 1)) then some (sdType (strmDesc t (x - 1))) else some 99)
  else if x = 3 ∨ (8 ≤ x ∧ x ≤ 15) then none
  else if 16 ≤ x ∧ x < 16 + k then some ((ch.map (·.ty)).getD (x - 16) 99)
  else some 99

/-- The types that a step's operands have, from the types its sources declare (R107, R150, R151): the free type S is that
of the first typed source, or u64. R107 gives a constant or the index 64 bits; as a shift count, whose row says Int, the model takes it
as u64, so that E of R108 is at most 64. DESIGN CHOICE, log entry 144. -/
def operTypes (x : ChainStep) (ktype : Nat) (decl : List (Option Nat)) : Option (List Nat) :=
  match catRow x.unit x.op with
  | none => none
  | some r =>
    let s := (decl.findSome? id).getD 7
    let var := bits x.imm 10 4
    let srcs := if isDirStep x && !dirHasB x.op var then [SrcTy.key] else r.srcs
    some (srcs.zipIdx.map (fun p =>
      let d := (decl.getD p.2 none)
      match p.1 with
      | .t => x.ty
      | .count => d.getD 7
      | .sInt | .sFp | .sCvt | .sCvtz | .sHash => s
      | .b1 => 11
      | .u64 => 7
      | .key => ktype
      | .dirB => if x.op = 0x12 ∧ 4 ≤ var then 10 else if x.op = 0x12 ∧ d = some 3 then 3 else 7))

/-- A step's types, operands and immediate are ones its operation accepts (R69, R106, R107, R112, R113, R134, R149). R107 accepts a
constant or the index for integer and b1 operands only, and gives a key its low bits: as the key of a directory of an FP type the model
refuses it. DESIGN CHOICE, log entry 144. -/
def stepTypesOk (s : State) (t : Stream) (ch : List ChainStep) (k : Nat) (x : ChainStep) : Bool :=
  let decl := x.srcs.map (srcType t ch k)
  let dh := immHandle x.imm
  let kt := (getDir s dh).ktype.toNat
  match catRow x.unit x.op, operTypes x kt decl with
  | some r, some req =>
    let st := (decl.findSome? id).getD 7
    let var := immVar x.imm
    r.stream && r.ts.contains x.ty
      && decide (x.srcs.length = req.length) && decide (([x.s1, x.s2, x.s3].take req.length).all (· ≠ 0))
      && (decl.zip req).all (fun p => match p.1 with
          | none => tyInt p.2 || decide (p.2 = 11)
          | some d => decide (d = p.2))
      && r.srcs.all (fun q => match q with
          | .sInt => tyInt st
          | .sFp => tyFp st
          | .sCvt | .sCvtz => cvtOk x.unit x.op x.ty st
          | .sHash => tyInt st || tyFp st
          | _ => true)
      && (!(r.srcs.contains .count) || tyInt (req.getD 1 7))
      && (!isBf x.unit x.op || bfImmOk x.ty x.imm)
      && (!isDirStep x || (decide (bits x.imm 14 2 = 0) && dirVarOk x.op var && decide (x.ty = if dirB1 x.op var then 11 else 7)
          && t.dirs.any (fun h => h.val == dh) && decide ((getDir s dh).st ≠ .free) && decide ((getDir s dh).func = t.func)))
      && (decide (x.unit ≠ 6) || (decide (bits x.imm 12 4 = 0) && t.keys.any (fun k => k.1 == bits x.imm 0 12)))
  | _, _ => false

/-- The step that a broken rule of R69 names, at step k of the chain; none where every rule up to it holds. -/
def stepFail (s : State) (t : Stream) (ch : List ChainStep) (k : Nat) (x : ChainStep) : Option Nat :=
  let before := ch.take k
  let out := t.out.toNat
  let same := before.zipIdx.filter (fun p => p.1.unit = x.unit)
  if decide (6 < x.unit) || decide (11 < x.ty) || bits x.word 16 15 ≠ 0 || !stepTypesOk s t ch k x then some k
  else if (if x.unit ≤ 1 then 2 else 1) ≤ same.length then some ((same.map (·.2)).headD k)
  else if x.wmask && before.any (·.wmask) then some (before.findIdx (·.wmask))
  else if x.wmask && decide (x.ty ≠ 11) then some k
  else if isAccStep x && before.any isAccStep then some (before.findIdx isAccStep)
  else if isWhole x && (!x.last || sdEn out) then some k
  else if x.unit = 4 ∧ sdEn out = true ∧ sdMode out = 2 then some k
  else none

/-- The chain program under R69 (row 3 of R501): the step that the first broken rule names. -/
def chainFail (s : State) (t : Stream) : Option Nat :=
  let ws := (chainWords t).map chainStep
  match ws.findIdx? (·.last) with
  | none => some 0
  | some n =>
    let ch := ws.take (n + 1)
    let out := t.out.toNat
    let aReads := ch.zipIdx.filter (fun p => p.1.srcs.contains 1)
    match (ws.drop (n + 1)).findIdx? (fun x => x.word ≠ 0) with
    | some j => some (n + 1 + j)
    | none =>
      match ch.zipIdx.findSome? (fun p => stepFail s t ch p.2 p.1) with
      | some k => some k
      | none =>
        let l := ch.getD n (chainStep 0)
        if sdEn out && decide (l.ty ≠ sdType out) then some n
        else if !sdEn out && !isWhole l then some n
        else if sdEn t.b.toNat && !ch.any (fun x => x.srcs.contains 2) then some 0
        else match ch.findIdx? isExpand with
          | none => none
          | some e =>
            let a := t.a.toNat
            if (match aReads with | [p] => decide (p.2 = e) && decide (p.1.s1 = 1) && decide (p.1.s2 ≠ 1) | _ => false)
                && !sdIdx a && !sdMsk a && decide (sdStride a = (tySize (sdType a) : Int)) then none
            else some ((aReads.map (·.2)).foldl min e)

/-! ## Extents and segments (R80, row 4 of R501) -/

/-- The first and last byte offset that bits lo to hi - 1 of a packed operand touch. -/
def bitExtent (base bitoff lo hi : Nat) : Option (Int × Int) :=
  if hi ≤ lo then none else some (((base + (bitoff + lo) / 8 : Nat) : Int), ((base + (bitoff + hi - 1) / 8 : Nat) : Int))

/-- The extent of an affine data operand over n positions from position p. -/
def dataExtent (d p n : Nat) : Option (Int × Int) :=
  if n = 0 then none
  else if sdType d = 11 then bitExtent (sdBase d) (sdBitoff d) p (p + n)
  else
    let o1 := (sdBase d : Int) + (p : Int) * sdStride d
    let o2 := (sdBase d : Int) + ((p + n - 1 : Nat) : Int) * sdStride d
    some (min o1 o2, max o1 o2 + (tySize (sdType d) : Int) - 1)

/-- The check of R327 for a stream operand: NULL_SEG, RIGHTS with SE and PLMAX, LIMIT, with FADDR by R329. Where an operand forms no
byte address at issue (indexed data, an empty extent), R329 gives a RIGHTS failure no FADDR; the model gives the segment's base.
DESIGN CHOICE, log entry 130. -/
def segFail (t : Stream) (seg : Nat) (right : Desc256 → Bool) (ext : Option (Int × Int)) (opnd : Nat) : Option IssueFail :=
  let d := strmSeg t seg
  let lo := match ext with | some e => e.1 | none => 0
  let ga := fun (o : Int) => (((dBase d : Int) + o) % ((2 ^ 57 : Nat) : Int)).toNat
  if !dV d then some ⟨2, 0, opnd, 0⟩
  else if dSE d || decide (dPlmax d < t.pl.toNat) || !right d then some ⟨4, ga lo, opnd, 0⟩
  else match ext with
    | none => none
    | some e =>
      if e.1 < 0 then some ⟨3, ga e.1, opnd, 0⟩
      else if (dLimit d : Int) < e.2 then some ⟨3, ga (max e.1 ((dLimit d : Int) + 1)), opnd, 0⟩
      else none

/-- Row 4 of R501 for one operand, in the order index, mask, data. -/
def operandFail (t : Stream) (k start wcount : Nat) : Option IssueFail :=
  let d := strmDesc t k
  let n := strmN t - start
  if !sdEn d then none
  else
    let right := fun (x : Desc256) => if k = 2 then dSW x else dSR x
    firstFail
      [if sdIdx d then segFail t (sdIseg d) dSR
          (if n = 0 then none else some (((sdIbase d + start * sdIsize d : Nat) : Int), ((sdIbase d + strmN t * sdIsize d : Nat) : Int) - 1))
          (opIndex k) else none,
       if sdMsk d then segFail t (sdMseg d) dSR (bitExtent (sdMbase d) (sdMbitoff d) start (strmN t)) (opMask k) else none,
       if sdIdx d then segFail t (sdSeg d) (fun x => right x && dG x) none (opData k)
       else segFail t (sdSeg d) right (dataExtent d (if k = 2 ∧ sdMode d = 2 then wcount else start) n) (opData k)]

/-- The checks of R501 in their order; start and wc are the words of the status area. -/
def issueFail (s : State) (t : Stream) (start wc : Nat) : Option IssueFail :=
  firstFail
    [descFail t 0, descFail t 1, descFail t 2,
     failIf (decide (2 ^ 41 ≤ start) || (decide (start ≠ 0) && decide (2 ^ 41 ≤ wc))) 6 0,
     failIf (decide (strmN t < start)) 7 0,
     (chainFail s t).map (fun k => ⟨8, 0, 10, k⟩),
     operandFail t 0 start wc, operandFail t 1 start wc, operandFail t 2 start (if start = 0 then 0 else wc)]

/-! ## The cost of a stream (R103, R108, R109, R163, R181 to R183) -/

/-- Bytes of a range of a set's window that one member serves, from position 0 to a. -/
def memberBytes (v : Ilv) (j a : Nat) : Nat :=
  let g := ilvGran v
  let w := ilvWays v
  a / (g * w) * g + min g (a % (g * w) - j * g)

/-- Bytes of two ranges that overlap. -/
def overlap (lo hi a b : Nat) : Nat := min hi b - max lo a

/-- Bytes of a GA range that each class serves (R182): an interleaved range by its members. -/
def spread (s : State) (lo hi : Nat) (k : Fin 11) : Nat :=
  if k.val = 0 then overlap lo hi lmSoft (GiB * lmTopG s)
  else if k.val = 10 then overlap lo hi hostBase (2 * hostBase)
  else if 7 ≤ k.val then 0
  else
    let p := k.val - 1
    overlap lo hi (fmBase p) (fmBase (p + 1))
      + ((s.map.sets.active.toList.filter (·.en)).map (fun v =>
          let b := ilvBase + GiB * v.baseG.toNat
          let x := max lo b - b
          let y := min hi (b + GiB * v.sizeG.toNat) - b
          if x < y then ((List.range (ilvWays v)).map (fun j =>
            if ilvMember v j = p then memberBytes v j y - memberBytes v j x else 0)).sum else 0)).sum

/-- The class of one byte, as a count of 1 in the class that serves it. -/
def classOne (s : State) (ga : Nat) (k : Fin 11) : Nat := spread s ga (ga + 1) k

/-- How many of n elements, d bytes apart, lie in a class. In an interleave set the pattern of members repeats. -/
def strided (s : State) (lo d n : Nat) (k : Fin 11) : Nat :=
  let hi := lo + (n - 1) * d + 1
  if ilvBase ≤ lo ∧ hi ≤ ilvBase + 196608 * GiB then
    match ilvFind s.map.sets.active.toList (lo % ilvBase) with
    | none => 0
    | some v =>
      let p := ilvGran v * ilvWays v
      let per := p / Nat.gcd d p
      let count := fun (m : Nat) => ((List.range m).map (fun i => classOne s (lo + i * d) k)).sum
      n / per * count per + count (n % per)
  else if classOne s lo k = 1 ∧ classOne s (hi - 1) k = 1 then n else 0

/-- The concentration factor of R32, doubled, for a stride of S granules. -/
def factor2 (g : Nat) : Nat :=
  if g = 0 ∨ g % 12 ≠ 0 then 2
  else
    let b := ctzNat 48 (g / 12)
    if b ≤ 10 then 3 else if b = 11 then 6 else if b = 12 then 12 else if b = 13 then 24 else if b = 14 then 48 else 768

/-- Bytes charged per element of a stride of 256 bytes or more: 256 times the factor of R32. -/
def strideBytes (d : Nat) : Nat :=
  128 * (if d % 256 = 0 then factor2 (d / 256) else max (factor2 (d / 256)) (factor2 (d / 256 + 1)))

/-- Strips that elements a to b - 1 touch. -/
def stripsOf (a b : Nat) : Nat := if b ≤ a then 0 else (b - 1) / 512 - a / 512 + 1

/-- The memory bytes of a packed bit operand in a class. -/
def bitCost (s : State) (ga n : Nat) (k : Fin 11) : Nat :=
  spread s (ga - ga % 8) (ga - ga % 8 + 8 * (cdiv n 64 + 1)) k

/-- The class that serves a byte. -/
def classAt (s : State) (ga : Nat) : Option (Fin 11) := (List.finRange 11).find? (fun k => classOne s ga k = 1)

/-- The GA of an offset in a segment of a stream. -/
def strmGa (t : Stream) (seg : Nat) (off : Int) : Nat := (((dBase (strmSeg t seg) : Int) + off) % ((2 ^ 57 : Nat) : Int)).toNat

/-- The memory bytes that one operand charges to a class over elements a to b - 1 (R181). -/
def operandCost (s : State) (t : Stream) (o a b wcount : Nat) (expand : Bool) (k : Fin 11) : Nat :=
  let d := strmDesc t o
  let n := b - a
  if !sdEn d then 0
  else
    let z := tySize (sdType d)
    let ad := (sdStride d).natAbs
    let p := if o = 2 ∧ sdMode d = 2 then wcount else a
    let ext := (dataExtent d p (max n 1)).getD (0, 0)
    let lo := strmGa t (sdSeg d) ext.1
    let hi := strmGa t (sdSeg d) ext.2
    let idx := if sdIdx d then
        let g := strmGa t (sdIseg d) (sdIbase d + a * sdIsize d : Nat)
        spread s g (g + n * sdIsize d) k else 0
    let msk := if sdMsk d then bitCost s (strmGa t (sdMseg d) (sdMbase d + (sdMbitoff d + a) / 8 : Nat)) n k else 0
    let ends := if o = 2 ∧ sdIdx d = false then 64 * classOne s lo k + 64 * classOne s hi k else 0
    let data :=
      if sdIdx d then 64 * (t.ports.filter (fun e => e.1 == o && decide (a ≤ e.2.1) && decide (e.2.1 < b) && e.2.2 == k.val)).length
      else if sdType d = 11 then bitCost s lo n k
      else if ad = z ∨ (expand = true ∧ o = 0) then spread s lo (lo + n * z) k
      else if ad = 0 then 256 * stripsOf a b * classOne s lo k
      else if ad < 256 then spread s (lo - lo % 256) (lo - lo % 256 + 256 * (cdiv ((n - 1) * ad) 256 + 1)) k
      else strideBytes ad * strided s lo ad n k
    data + idx + msk + ends

/-- The P-cycles of a port over n elements (R103). A COMPRESS output with another stride fits two rows of R103; the model takes that of
COMPRESS. DESIGN CHOICE, log entry 144. -/
def portCycles (d n : Nat) : Nat :=
  let ad := (sdStride d).natAbs
  let z := tySize (sdType d)
  if !sdEn d then 0
  else if sdIdx d then cdiv n 8
  else if sdType d = 11 ∨ ad = 0 ∨ ad = z ∨ sdMode d = 2 then cdiv n (tyWave (sdType d))
  else if ad < 256 then cdiv (n * ad) 512
  else cdiv n 2

/-- Elements per wave of a chain (R108). -/
def chainE (s : State) (t : Stream) : Nat :=
  let ch := chainOf t
  (ch.zipIdx.flatMap (fun p =>
    tyWave p.1.ty :: ((operTypes p.1 (getDir s (immHandle p.1.imm)).ktype.toNat (p.1.srcs.map (srcType t ch p.2))).getD []).map tyWave)).foldl
    min 512

/-- ALU0 or ALU1 appears twice (R70). -/
def chainTwice (t : Stream) : Bool :=
  let us := (chainOf t).map (·.unit)
  decide (us.count 0 = 2) || decide (us.count 1 = 2)

/-- The wave interval of a chain (R108). -/
def chainI (t : Stream) : Nat :=
  ((chainOf t).map (fun x => if x.unit = 2 then catInterval 2 x.op x.ty else 1)).foldl max (if chainTwice t then 2 else 1)

/-- PCY of a stream over n elements (R109, R163). -/
def pcyCost (s : State) (t : Stream) (n : Nat) : Nat :=
  let w := max (portCycles t.a.toNat n) (max (portCycles t.b.toNat n) (portCycles t.out.toNat n))
  let w2 := if chainTwice t then 2 * w else w
  let w3 := if (chainOf t).any isDirStep then max w2 (cdiv (n * 5) 32) else w2
  max w3 (cdiv n (chainE s t) * chainI t)

/-- What a stream charges to a class over elements a to N - 1 (R109, R180). -/
def strmCost (s : State) (t : Stream) (a : Nat) (k : Fin 11) : Nat :=
  let n := t.n - a
  let dirN := if (chainOf t).any isDirStep then n else 0
  let ex := (chainOf t).any isExpand
  let mem := operandCost s t 0 a t.n 0 ex k + operandCost s t 1 a t.n 0 ex k + operandCost s t 2 a t.n t.saved.wcount ex k
  if k.val = 7 then (if n = 0 then 0 else pcyCost s t n)
  else if k.val = 8 then dirN
  else if k.val = 9 then 0
  else mem + (if k.val = 0 then 64 * (1 + t.depth) * dirN else 0)

/-- Charges a stream's cost over elements a to N - 1 (R180). -/
def chargeStrm (s : State) (t : Stream) (a : Nat) : State :=
  (List.finRange 11).foldl (fun x k => charge x t.ctx k (strmCost s t a k)) s

/-- Credits a stream's cost over elements a to N - 1 back (R180). -/
def creditStrm (s : State) (t : Stream) (a : Nat) : State :=
  (List.finRange 11).foldl (fun x k => creditMeter x t.ctx k (strmCost s t a k)) s

/-! ## The block at issue (R60, R62, R134, R180, R502) -/

/-- One 64-bit word of a block: its value, or the GA of the byte that failed. -/
def blkWord (s : State) (p : Fin 8) (ga : Nat) : Nat × Option Nat :=
  let r := gaRead s (.pipe p) ga 8
  (natOf r.bytes, r.unmapped.orElse (fun _ => r.error.orElse (fun _ => r.poison)))

/-- A key handle that names a key of the function, whole at its copy (R134, R411). -/
def strmKeys (s : State) (t : Stream) : List (Nat × BitVec 256) :=
  (((chainOf t).filter (fun x => x.unit = 6)).filter (fun x => keyOk s t.func (bits x.imm 0 12))).map (fun x =>
    (bits x.imm 0 12, (getVault s (bits x.imm 0 12)).key))

/-- The identity from which the accumulating step starts (R62, R115), as RESULT and CARRY hold it. -/
def strmIdent (t : Stream) : Nat :=
  match (chainOf t).find? isAccStep with
  | some x => accOut x.ty (catIdent x.unit x.op x.ty)
  | none => 0

/-- A key whose KCHK does not match at the copy is recorded (R411). -/
def keyCheck (s : State) (p : Fin 8) (t : Stream) : State :=
  match ((chainOf t).filter (fun x => x.unit = 6)).find? (fun x =>
      let v := getVault s (bits x.imm 0 12)
      v.valid && decide (v.func = t.func) && !s.objs.vaultFail && !keyIntact s (bits x.imm 0 12)) with
  | some x => offer s 0x0305 sevFault islMG.val (bits x.imm 0 12) p.val 0
  | none => s

/-- The classes that the elements of the indexed operands charge, from START to N - 1 (R109, R129, R182): of an interleave set, that of
the member which serves the element; else that of the segment, which also serves for an element that its index leads to no byte of the
segment. Log entry 87. -/
def strmPorts (s : State) (p : Fin 8) (t : Stream) (start n : Nat) : List (Nat × Nat × Nat) :=
  [0, 1, 2].flatMap (fun o =>
    let d := strmDesc t o
    if !sdEn d || !sdIdx d then []
    else (List.range (n - start)).filterMap (fun j =>
      let r := gaRead s (.pipe p) (strmGa t (sdIseg d) (sdIbase d + (start + j) * sdIsize d : Nat)) (sdIsize d)
      let off := sdBase d + natOf r.bytes * tySize (sdType d)
      let at_ := if off ≤ dLimit (strmSeg t (sdSeg d)) then classAt s (strmGa t (sdSeg d) (off : Nat)) else none
      (at_.orElse (fun _ => classAt s (strmGa t (sdSeg d) 0))).map (fun k => (o, start + j, k.val))))

/-- A stream with its block read (R60, R62): its descriptors, chain, constants and keys, and the status from which it goes on. Of a
block that cannot be read, the words of failing sectors count as zero (R502). FSTAT.FIXN of a status area is 0 to 64; the manual says
nothing of a value that software left above 64, and the model takes 64. DESIGN CHOICE, log entry 130. -/
def readBlock (s : State) (p : Fin 8) (t : Stream) : Stream :=
  let words := (List.range 36).map (fun i => blkWord s p (t.blk + 8 * i))
  let w := fun (i : Nat) => (words.getD i (0, none)).1
  let start := w 32
  let stat := blkWord s p (t.blk + 0x120)
  let consts := (List.range 8).map (fun i => blkWord s p (t.blk + 0x340 + 8 * i))
  let bad := (words ++ (if start ≠ 0 then [stat] else []) ++ consts).findSome? (·.2)
  let join := fun (lo : Nat) => BitVec.ofNat 512 (natOf ((List.range 8).flatMap (fun i => bytesOf (w (lo + i)) 8)))
  let t1 := { t with out := join 0, a := join 8, b := join 16, chain := join 24, bad := bad,
                     consts := BitVec.ofNat 512 (natOf (consts.flatMap (fun c => bytesOf c.1 8))) }
  if bad.isSome then
    let keep := fun (i : Nat) => if (words.getD i (0, none)).2.isSome then 0 else w i
    let acc : StrmAcc := { wcount := keep 33, result := keep 34, carry := keep 35, flags := 0, fixn := 0, fixovf := false, fix := [] }
    { t1 with n := keep 32, start := keep 32, next := keep 32, com := keep 32, cur := acc, saved := acc }
  else
    let id := strmIdent t1
    let acc : StrmAcc :=
      if start = 0 then { wcount := 0, result := id, carry := id, flags := 0, fixn := 0, fixovf := false, fix := [] }
      else { wcount := w 33, result := w 34, carry := w 35, flags := BitVec.ofNat 6 (bits stat.1 24 6),
             fixn := min (bits stat.1 16 7) 64, fixovf := bit stat.1 23, fix := [] }
    { t1 with n := strmN t1, start := start, next := start, com := start, cur := acc, saved := acc, charged := true,
              keys := strmKeys s t1, ports := strmPorts s p t1 start (strmN t1) }

/-- A stream enters the table: its block is read, once, and its cost is charged (R60, R180). -/
def enterStrm (s : State) (p : Fin 8) (e : Fin 64) (t : Stream) : State :=
  let s0 := useSlots (touch (touch s (.pipe p) t.blk 0x128) (.pipe p) (t.blk + 0x340) 64) (.pipe p) t.ctx
    (sectorsOf t.blk 0x128 ++ sectorsOf (t.blk + 0x340) 64)
  let u := readBlock s0 p t
  let s1 := setStream s0 p e (some u)
  if u.charged then chargeStrm (keyCheck s1 p u) u u.start else s1

end Sys2Proof.Machine
end

