-- ==== Sys2Proof/Machine/Bundle.lean ====
section
/-! DEFINITION. The bundle: fetch, the order of faults, waits, and what its syllables do together when it issues
(R221 to R225, R238, R251 to R253, R259 to R267, R278 to R292). Each syllable command stages what it will do;
the one with STOP, or the first that breaks the structure, issues the bundle. Log entry 14. -/

namespace Sys2Proof.Machine

/-- A syllable of a slot that does nothing yet. -/
def SyllOut.of (slot : Slot) (rank words : Nat) : SyllOut :=
  { slot := slot, rank := rank, words := words, solo := false, dests := [], hold := false, sbStall := false, drain := false,
    faults := [], writes := [], acts := [] }

/-- The entry of a pipe that is granted to a context and held for its STRM (R72, R313). The manual does not say what becomes of the entry
where the context runs next on a sequencer of another pipe: it stays held for the context on the first pipe, and STRM waits for one on
the new pipe. DESIGN CHOICE, log entry 144. -/
def heldEntry (s : State) (p : Fin 8) (c : Nat) : Option (Fin 64) :=
  (List.finRange 64).find? (fun e => match getStream s p e with
    | some t => t.ctx == c && decide (t.phase = .held)
    | none => false)

/-- A sequencer that issues bundles: its island runs, it is neither LOCKED nor in reset, its page is enabled and not
held, and the grace has not stopped it (R279, R346, R451, R476, R482). -/
def seqRuns (s : State) (q : Fin 16) : Bool :=
  islandUp s (islSQ q) && decide ((s.seqs[q.val]).st = 1) && (hdr s (.seq q)).en && !(hdr s (.seq q)).held && !s.pwr.stopped

/-- Lane b is served: it has not failed, or a spare that works serves it. -/
def laneServed (x : Pipe) (b : Nat) : Bool :=
  !x.laneFail.getLsbD b || (x.sp0.used && !x.sp0.fail && x.sp0.lane.toNat == b)
    || (x.sp1.used && !x.sp1.fail && x.sp1.lane.toNat == b)

/-- A pipe that goes on with what it has started: its island is up, its page is enabled, every lane is served, and no grace has stopped
it (R92, R451, R476). -/
def pipeWorks (s : State) (p : Fin 8) : Bool :=
  islandUp s (islPP p) && (hdr s (.pipe p)).en && !s.pwr.stopped && (List.range 64).all (laneServed s.pipes[p.val])

/-- A pipe that starts something new: it is not held by QUIESCE (R482). -/
def pipeRuns (s : State) (p : Fin 8) : Bool := pipeWorks s p && !(hdr s (.pipe p)).held

/-- A context that runs an interrupt handler of the classes 0x20 to 0x3F: its Q-cycles are metered to no class (R319). -/
def inInterrupt (x : Ctx) : Bool := x.frameSrc.toList.any (·.isSome)

/-- Charges Q-cycles of SQT (R180), but for those of an interrupt handler (R319) and those between a preemption decision and the
switch (R309). -/
def chargeQ (s : State) (c : Nat) (n : Nat) : State :=
  if inInterrupt (getCtx s c) || (getCtx s c).leaving then s else charge s c 9 n

/-- MASKQ after some Q-cycles (R342). -/
def countMask (s : State) (q : Fin 16) (b : Fin 8) (c : Nat) (n : Nat) : State :=
  let k := s.seqs[q.val].banks[b.val]
  modCtx s c (fun x => if x.st = .free then x else { x with maskq := if masked x k then satAdd x.maskq n else 0 })

/-- The Q-cycles of a bundle that issues: its own, and those for which it stalled beyond the times it was held (R180, R279). -/
def stallOf (s : State) (q : Fin 16) : Nat := Config.stallTime q.val (s.seqs[q.val]).issued

/-- A bundle that does not issue: it is held in DE, and one Q-cycle passes (R279, R180). A stall on a partial overlap with the
store buffer is counted once (R294). -/
def holdBundle (s : State) (q : Fin 16) (b : Fin 8) (c : Nat) (why : HeldFor) : State :=
  let s1 := modSeq s q (fun x => { x with
    stalls := x.stalls + 1, held := why, slow := [],
    sbStall := if why = .overlap ∧ x.held ≠ .overlap then satInc x.sbStall else x.sbStall })
  countMask (chargeQ s1 c 1) q b c 1

/-! ## Fetch (R224, R280, R289, R290) -/

/-- The line of a GA in a partition. -/
def lineOf (k : Bank) (ga : Nat) : Option IbLine := k.ibuf.find? (fun l => l.ga.toNat = ga)

/-- Puts a line at the front of a partition of 128 lines. -/
def putLine (k : Bank) (l : IbLine) : Bank :=
  { k with ibuf := (l :: k.ibuf.filter (fun y => y.ga ≠ l.ga)).take 128 }

/-- Reads a line of code from LM. -/
def readLine (s : State) (q : Fin 16) (ga : Nat) : IbLine :=
  let r := reqRead s (.seq q false) ga 64
  let g := (r.error.orElse (fun _ => r.poison)).getD ga
  { ga := BitVec.ofNat 57 ga, data := BitVec.ofNat 512 (natOf r.bytes), failed := !readClean r,
    bad := BitVec.ofNat 57 (g - g % 32), used := false }

/-- Makes a line present: a demand fetch where it is absent (R290). -/
def needLine (s : State) (q : Fin 16) (b : Fin 8) (ga : Nat) : State :=
  let k := s.seqs[q.val].banks[b.val]
  match lineOf k ga with
  | some l => modBank s q b (fun y => putLine y l)
  | none =>
    let s0 := touch s (.seq q false) ga 64
    let s1 := match k.occ with | some c => useSlots s0 (.seq q false) c (sectorsOf ga 64) | none => s0
    modSeq (modBank s1 q b (fun y => putLine y (readLine s1 q ga))) q (fun x => { x with ibMiss := satInc x.ibMiss })

/-- The lines that a range of code touches. -/
def codeLines (ga len : Nat) : List Nat :=
  if len = 0 then [] else (List.range ((ga + len - 1) / 64 - ga / 64 + 1)).map (fun i => (ga / 64 + i) * 64)

/-- Fetches a bundle: the state with its lines present, or the fault of R224 and R280. -/
def fetchBundle (s : State) (q : Fin 16) (b : Fin 8) (len : Nat) : State × Option SFault :=
  let k := s.seqs[q.val].banks[b.val]
  let d := segReg k.lo 1
  match segCheck s (.seq q false) d k.lo.stat.pl.toNat .exec k.pc.toNat len 0 with
  | some f => (s, some ⟨1, 0, f.code, f.sub, f.faddr⟩)
  | none =>
    let ga := dBase d + k.pc.toNat
    if ga < lmSoft ∨ GiB * lmTopG s < ga + len then (s, some ⟨1, 0, 0x04, 0x01, BitVec.ofNat 57 ga⟩)
    else
      let s1 := (codeLines ga len).foldl (fun a g => needLine a q b g) s
      let k1 := s1.seqs[q.val].banks[b.val]
      match (codeLines ga len).findSome? (fun g => (lineOf k1 g).filter (·.failed)) with
      | some l => (s1, some ⟨1, 0, 0x0D, 0, l.bad⟩)
      | none => (s1, none)

/-- An executed bundle uses its lines: 64 bytes of LMB at the first use in this bank load (R290). -/
def useLines (s : State) (q : Fin 16) (b : Fin 8) (c : Nat) (ga len : Nat) : State :=
  (codeLines ga len).foldl (fun a g =>
    match lineOf (a.seqs[q.val].banks[b.val]) g with
    | some l => if l.used then a else
        charge (modBank a q b (fun y => { y with ibuf := y.ibuf.map (fun z => if z.ga = l.ga then { z with used := true } else z) })) c 0 64
    | none => a) s

/-! ## Branches and loops (R258 to R262, R291) -/

/-- A mispredict: 3 Q-cycles in which no bundle issues (R184, R291, R294), and which count for MASKQ (R342). -/
def mispredict (s : State) (q : Fin 16) (b : Fin 8) (c : Nat) : State :=
  countMask (chargeQ (modSeq s q (fun x => { x with mispred := satInc x.mispred, stalls := x.stalls + 3 })) c 3) q b c 3

/-- Resolves a branch against the BTB (R291). -/
def resolveBranch (s : State) (q : Fin 16) (b : Fin 8) (c : Nat) (ga : Nat) (taken : Bool) (target : Nat) : State :=
  let k := s.seqs[q.val].banks[b.val]
  let put := fun (a : State) => modBank a q b (fun y => { y with btb := ((ga, target) :: y.btb.filter (fun e => e.1 ≠ ga)).take 64 })
  match k.btb.find? (fun e => e.1 = ga), taken with
  | none, false => s
  | none, true => mispredict (put s) q b c
  | some e, true => if e.2 = target then put s else mispredict (put s) q b c
  | some _, false => mispredict (modBank s q b (fun y => { y with btb := y.btb.filter (fun e => e.1 ≠ ga) })) q b c

/-- Reads an entry of the loop registers, by a level. -/
def lget (v : Vector Word 4) (n : Nat) : Word := v.toList.getD n 0

/-- Writes an entry of the loop registers. -/
def lput (v : Vector Word 4) (n : Nat) (x : Word) : Vector Word 4 := if h : n < 4 then v.set n x else v

/-- The loop-end check (R261), at most one round per open level. -/
def loopEnd (addr : Word) : Nat → Lower → Word → Lower × Word
  | 0, l, nx => (l, nx)
  | n + 1, l, nx =>
    let ld := l.stat.ld.toNat
    if ld = 0 then (l, nx)
    else if addr = lget l.lpe (ld - 1) then
      let cnt := lget l.lpc (ld - 1) - 1
      let l1 := { l with lpc := lput l.lpc (ld - 1) cnt }
      if cnt ≠ 0 then (l1, lget l.lps (ld - 1))
      else loopEnd addr n { l1 with stat := { l1.stat with ld := l1.stat.ld - 1 } } nx
    else (l, nx)

/-- A taken branch closes the loops whose range its target leaves (R262). -/
def closeLoops (target : Word) : Nat → Lower → Lower
  | 0, l => l
  | n + 1, l =>
    let ld := l.stat.ld.toNat
    if ld = 0 then l
    else if (lget l.lps (ld - 1)).toNat ≤ target.toNat ∧ target.toNat ≤ (lget l.lpe (ld - 1)).toNat then l
    else closeLoops target n { l with stat := { l.stat with ld := l.stat.ld - 1 } }

/-! ## Stores and loads on their way -/

/-- The register writes of RET from the bytes it reads (R265). -/
def retWrites (mask : BitVec 16) (n : Nat) : List RegW :=
  let rank := fun (i : Nat) => ((List.range i).filter (fun j => mask.getLsbD j)).length
  ((List.finRange 16).filter (fun i => mask.getLsbD i.val)).map (fun i =>
    .int ⟨i.val, by omega⟩ (BitVec.ofNat 64 (bits n (64 * rank i.val) 64)))

/-- Splits bytes at 64-byte GA lines (R249). -/
def lineSplit (ga : Nat) (bs : List Byte) : List (Nat × List Byte) :=
  (codeLines ga bs.length).map (fun g =>
    let lo := max g ga
    let hi := min (g + 64) (ga + bs.length)
    (lo, (bs.drop (lo - ga)).take (hi - lo)))

/-- Store-buffer entries that a store takes. -/
def storeEntries (ga len : Nat) : Nat := (codeLines ga len).length

/-- A GA of the sequencer's own scratchpad (R248). -/
def ownSp (q : Fin 16) (ga : Nat) : Bool :=
  decide (onDieBase + 0x100000 * q.val ≤ ga) && decide (ga < onDieBase + 0x100000 * (q.val + 1))

/-- A store of the sequencer is performed with its bundle: it goes to the own scratchpad, no long load is outstanding, and no
store to the own scratchpad or to an SE segment is buffered before it; one to an SE segment also waits for every buffered store
(R248, R250, R252). -/
def directSt (x : Seq) (q : Fin 16) (ga : Nat) (se : Bool) : Bool :=
  ownSp q ga && x.loads.isEmpty && !x.sb.any (fun e => ownSp q e.ga || e.se || se)

/-- The store-buffer entries of a store (R249). -/
def newEntries (x : Seq) (c : Nat) (esc : Bool) (ga : Nat) (bs : List Byte) (se : Bool) : List SbEntry :=
  let ps := lineSplit ga bs
  ps.zipIdx.map (fun e =>
    { ctx := c, ga := e.1.1, bytes := e.1.2, sent := false, coll := 0, pair := decide (e.2 + 1 < ps.length), esc := esc, se := se,
      stamp := x.issued })

/-- A context has a deferred Memory Uncorrectable. Of two errors before the fault is taken, the record keeps the GA of the first. DESIGN
CHOICE, log entry 139. -/
def deferAt (s : State) (c : Nat) (ga : Nat) : State :=
  modCtx s c (fun x => if x.st = .free ∨ x.defer then x else { x with defer := true, deferGa := BitVec.ofNat 57 ga })

/-- A store's error reaches the sequencer: a deferred Memory Uncorrectable of its context (R253, R306). -/
def deferFault (s : State) (c : Nat) (ga : Nat) : State := voidMem (deferAt s c ga) .mgmt c ga

/-- A store leaves its bundle: at once in the own scratchpad, where a refused partial write is a deferred fault (R415), through the
store buffer elsewhere, and there too while an older access must come first (R248, R250, R252). -/
def doStore (s : State) (q : Fin 16) (c : Nat) (esc : Bool) (ga : Nat) (bs : List Byte) (se : Bool) : State :=
  if directSt s.seqs[q.val] q ga se then
    let w := gaWrite s (.seq q esc) ga bs
    match w.2 with | some _ => deferFault w.1 c ga | none => w.1
  else modSeq s q (fun x => { x with sb := x.sb ++ newEntries x c esc ga bs se })

/-! ## Faults -/

/-- Whether one fault comes before another in the order of R238. -/
def faultBefore (a b : SFault) : Bool := decide (a.phase < b.phase) || (decide (a.phase = b.phase) && decide (a.idx < b.idx))

/-- The first fault of a list. -/
def firstFault : List SFault → Option SFault
  | [] => none
  | f :: fs => match firstFault fs with
    | none => some f
    | some g => if faultBefore g f then some g else some f

/-- The index of the syllable at a place of the bundle. -/
def sylIndex (l : List SyllOut) (n : Nat) : Nat := ((l.take n).map (·.words)).sum

/-- The index of the first syllable that breaks the structure of R222 and R225: out of the order of the slots, or beside a solo
instruction. -/
def breakFrom : Nat → List SyllOut → Option Nat
  | i, x :: y :: rest => if y.rank ≤ x.rank ∨ x.solo ∨ y.solo then some (i + x.words) else breakFrom (i + x.words) (y :: rest)
  | _, _ => none

/-- The place at which the structure of a bundle breaks first. -/
def breaksAt (l : List SyllOut) : Option Nat := breakFrom 0 l

/-- The bytes of a bundle, of which one that breaks R222 has no more than twelve syllables (R238). -/
def bundleBytes (l : List SyllOut) : Nat := 4 * min 12 (sylIndex l l.length)

/-- Two writers of one register, reported at the second (R225, R238). -/
def dupFaults : Nat → List Nat → List SyllOut → List SFault
  | _, _, [] => []
  | i, seen, o :: os =>
    if o.dests.any (fun r => seen.contains r) then [⟨4, i, 0x01, 0x03, 0⟩]
    else dupFaults (i + o.words) (seen ++ o.dests) os

/-- The faults of the syllables, each at its index. -/
def sylFaults : Nat → List SyllOut → List SFault
  | _, [] => []
  | i, o :: os => o.faults.map (fun f => { f with idx := i }) ++ sylFaults (i + o.words) os

/-- A LOOP whose last bundle would lie inside its own bundle (R260). -/
def loopFaults (pc : Word) (len : Nat) : Nat → List SyllOut → List SFault
  | _, [] => []
  | i, o :: os =>
    (if o.acts.any (fun a => match a with | .loop lpe _ => decide ((lpe - pc).toInt < (len : Int)) | _ => false)
      then [⟨3, i, 0x01, 0x03, 0⟩] else []) ++ loopFaults pc len (i + o.words) os

/-- The syllable that stands at an index. -/
def sylAt : Nat → Nat → List SyllOut → Option SyllOut
  | _, _, [] => none
  | i, idx, o :: os => if i = idx then some o else sylAt (i + o.words) idx os

/-- The elements that a faulting gather or scatter completed, and the pipe's P-cycle (R99, R105). -/
def runPartial (s : State) (q : Fin 16) (b : Fin 8) : List Act → State
  | [] => s
  | .gather vd v :: as => runPartial (modBank s q b (fun y => { y with up := { y.up with v := vset y.up.v vd v } })) q b as
  | .scatter ws :: as =>
    let k := s.seqs[q.val].banks[b.val]
    let m : Master := .seq q k.lo.stat.esc
    let s1 := ws.foldl (fun a w => (gaWrite a m w.1 w.2).1) s
    runPartial (match k.occ with | some c => useSlots s1 m c (ws.flatMap (fun w => sectorsOf w.1 w.2.length)).eraseDups | none => s1) q b as
  | .vstart e :: as =>
    runPartial (modBank s q b (fun y => { y with lo := { y.lo with vstart := BitVec.ofNat 11 e } })) q b as
  | .pcy _ :: as => runPartial (modPipe s (pipeOf q) (fun p => { p with busy := p.busy + 1 })) q b as
  | _ :: as => runPartial s q b as

/-- A fault of a syllable whose acts are known is entered; a ticket's fault names its slot and frees it (R76). A pending FP trap is
entered in its place (R215). -/
def faultExc (s : State) (q : Fin 16) (b : Fin 8) (c : Nat) (own : List Act) (f : SFault) : State :=
  let k := s.seqs[q.val].banks[b.val]
  if fpFirst s q b c then raiseFp s q b c k.pc
  else
    match own.findSome? (fun a => match a with | .stwait _ v _ => some v | _ => none) with
    | some v =>
      let i : Fin 16 := ⟨v.toNat % 16, Nat.mod_lt _ (by decide)⟩
      let t := (getCtx s c).tickets[i.val]
      let s1 := modCtx s c (fun x => { x with tickets := vset x.tickets i { t with out := false, done := false } })
      raiseExc s1 q b c { Exc.plain f.code.toNat f.sub.toNat k.pc t.faddr.toNat (some f.idx) with strm := some i }
    | none => raiseExc s q b c (Exc.plain f.code.toNat f.sub.toNat k.pc f.faddr.toNat (some f.idx))

/-- The acts of the syllable at which a fault of execution stands. -/
def faultActs (l : List SyllOut) (f : SFault) : List Act :=
  match sylAt 0 f.idx l with | some o => if f.phase = 6 then o.acts else [] | none => []

/-- Raises a bundle's fault, unless a pending FP trap is entered in its place (R215): memory faults void the job (R52, R167);
the failed line leaves the instruction buffer (R280). -/
def raiseFault (s : State) (q : Fin 16) (b : Fin 8) (c : Nat) (l : List SyllOut) (f : SFault) : State :=
  let k := s.seqs[q.val].banks[b.val]
  if fpFirst s q b c then raiseFp s q b c k.pc
  else
    let own := faultActs l f
    let s1 := runPartial (modSeq s q (fun x => { x with lost := [] })) q b own
    let line := f.faddr.toNat - f.faddr.toNat % 64
    let s2 := if f.phase = 1 ∧ f.code = 0x0D then
        modBank s1 q b (fun y => { y with ibuf := y.ibuf.filter (fun z => decide (z.ga.toNat ≠ line)) }) else s1
    let s3 := if f.code = 0x0D then voidMem s2 (.seq q k.lo.stat.esc) c f.faddr.toNat else s2
    faultExc s3 q b c own f

/-! ## Waiting instructions (R313, R345) -/

/-- The event a bundle must wait for: WAITON and the ticket slot. -/
def mustWait (s : State) (q : Fin 16) (c : Nat) : List Act → Option (BitVec 4 × Fin 16)
  | [] => none
  | .strm _ _ _ :: as => if (heldEntry s (pipeOf q) c).isNone then some (3, 0) else mustWait s q c as
  | .stwait _ v false :: as =>
    let i : Fin 16 := ⟨v.toNat % 16, Nat.mod_lt _ (by decide)⟩
    if ((getCtx s c).tickets[i.val]).done then mustWait s q c as else some (1, i)
  | .jend :: as => if (getCtx s c).tickets.any (fun t => t.out && !t.done) then some (2, 0) else mustWait s q c as
  | _ :: as => mustWait s q c as

/-- The running context waits: it leaves RUN, its PC at the waiting bundle; in escalation it waits in place. -/
def enterWait (s : State) (q : Fin 16) (b : Fin 8) (c : Nat) (on : BitVec 4) (slot : Fin 16) : State :=
  let x := getCtx s c
  let s1 := if on = 3 ∧ ¬ (s.pipes[(pipeOf q).val]).waiting.any (fun w => w.ctx == c) then
      modPipe s (pipeOf q) (fun p => { p with waiting := p.waiting ++ [⟨c, x.be, x.dlslot⟩] }) else s
  if (s.seqs[q.val].banks[b.val]).lo.stat.esc then holdBundle s1 q b c (if on = 3 then .grant else .operand)
  else stopRunning (modCtx (makeWait s1 c on) c (fun y => { y with wslot := slot })) q

/-! ## What a bundle does -/

/-- JEND's treatment of the tickets in ascending slot order (R76): the state, and whether it went through. A pending FP trap is
entered in place of a ticket's fault (R215); the FP Imprecise of a stream that cannot be entered now stays pending (R343). -/
def treatTickets (s : State) (q : Fin 16) (b : Fin 8) (c : Nat) : List (Fin 16) → State × Bool
  | [] => (s, true)
  | i :: is =>
    let x := getCtx s c
    let t := x.tickets[i.val]
    if !t.out then treatTickets s q b c is
    else
      let k := s.seqs[q.val].banks[b.val]
      let freed : State := modCtx s c (fun y => { y with tickets := vset y.tickets i { t with out := false, done := false } })
      if bits t.fstat.toNat 0 8 ≠ 0 then
        if fpFirst s q b c then (raiseFp s q b c k.pc, false)
        else
          (raiseExc freed q b c { Exc.plain (bits t.fstat.toNat 0 8) (bits t.fstat.toNat 8 8) k.pc t.faddr.toNat (some 0) with
            strm := some i }, false)
      else
        let s2 := modBank freed q b (fun y => { y with lo := { y.lo with fcsr := y.lo.fcsr ||| BitVec.ofNat 32 (fstatFlags t.fstat) } })
        if !streamFp t then treatTickets s2 q b c is
        else if itemsHeld x k then treatTickets (modCtx s2 c (fun y => { y with fppend := true, fpStream := true })) q b c is
        else (enterExc (modCtx s2 c (fun y => { y with fpRaised := true })) q b c (Exc.plain 0x06 0x01 k.pc 0 none) true, false)

/-- How JEND goes: it waits, an exception is entered in its place, or it ends the job. -/
inductive JendEnd where
  | held | entered | done
  deriving DecidableEq, Repr

/-- JEND (R276, R320): the tickets, a pending FP trap, then the end of the job. While a pending FP trap cannot be entered
(R343), JEND waits. -/
def runJend (s : State) (q : Fin 16) (b : Fin 8) (c : Nat) : State × JendEnd :=
  let r := treatTickets s q b c (List.finRange 16)
  if !r.2 then (r.1, .entered)
  else
    let k := (r.1).seqs[q.val].banks[b.val]
    let x := getCtx r.1 c
    if fpPending x k || x.fppend then
      if itemsHeld x k then (r.1, .held)
      else (if x.fppend then (pendingItem r.1 q b c).getD r.1 else raiseFp r.1 q b c k.pc, .entered)
    else (beginEnding (stopRunning r.1 q) c, .done)

/-- Where a bundle goes on. -/
inductive Flow where
  | seqn | taken (target : Word) (closes : Bool) | skip (target : Word)
  | exited
  deriving DecidableEq, Repr

/-- One register write of a syllable, into the window of issue (R225). -/
def applyWrite (win : Fin 8) (k : Bank) : RegW → Bank
  | .int rd v => { k with lo := wrIntIn k.lo win rd v }
  | .seg n d => { k with lo := { k.lo with segs := if n = 0 then k.lo.segs else vset k.lo.segs n d } }
  | .ctl cr v => wrCtl k cr.val v
  | .freg rd v z => { k with up := { k.up with v := vmod k.up.v rd (fun y => placeScalar y v z) } }
  | .idz => { k with lo := { k.lo with fcsr := k.lo.fcsr ||| 0x8000#32 } }

/-- Issues a stream on the entry that is held for it: the pipe takes the ticket's copies and reads the block (R60, R73, R74). -/
def issueStream (s : State) (q : Fin 16) (b : Fin 8) (c : Nat) (rd : Fin 32) (blk : Nat) (k : Bank) : State :=
  match heldEntry s (pipeOf q) c, freeTicket (getCtx s c) with
  | some e, some i =>
    let x := getCtx s c
    let g := (x.tickets[i.val]).gen + 1
    let t : Ticket := { out := true, done := false, gen := g, pipe := BitVec.ofNat 3 (pipeOf q).val,
                        entry := BitVec.ofNat 6 e.val, wcount := 0, fstat := 0, faddr := 0,
                        traps := BitVec.ofNat 5 (bits k.lo.fcsr.toNat 10 5) }
    let s1 := modCtx s c (fun y => { y with tickets := vset y.tickets i t })
    let s2 := enterStrm s1 (pipeOf q) e (Stream.issued c i q blk x k (s.pipes[(pipeOf q).val]).issued)
    let s3 := modPipe s2 (pipeOf q) (fun p => { p with issued := p.issued + 1 })
    modBank s3 q b (fun y => { y with lo := wrIntIn y.lo (winIdx k.lo.stat) rd (BitVec.ofNat 64 (i.val + g.toNat * 16)) })
  | _, _ => s

/-- STWAIT or STTEST on an ended stream without a fault (R75, R77), or STTEST on one that runs; RD lies in the window of issue. -/
def endWait (s : State) (q : Fin 16) (b : Fin 8) (c : Nat) (win : Fin 8) (rd : Fin 32) (v : Word) (test : Bool) : State :=
  let i : Fin 16 := ⟨v.toNat % 16, Nat.mod_lt _ (by decide)⟩
  let t := (getCtx s c).tickets[i.val]
  if test && !t.done then modBank s q b (fun y => { y with lo := wrIntIn y.lo win rd 0 })
  else
    let fc := (s.seqs[q.val].banks[b.val]).lo.fcsr ||| BitVec.ofNat 32 (fstatFlags t.fstat)
    let s1 := modBank s q b (fun y => { y with lo := { wrIntIn y.lo win rd (statusWord t) with fcsr := fc } })
    modCtx s1 c (fun x => { x with tickets := vset x.tickets i { t with out := false, done := false },
                                   fppend := x.fppend || streamFp t, fpStream := x.fpStream || streamFp t })

/-- Discards instruction-buffer lines and BTB entries that hold a byte of a range, in every bank (R273, R292). -/
def discardCode (s : State) (q : Fin 16) (ga len : Nat) : State :=
  let hit := fun (g z : Nat) => decide (g < ga + len) && decide (ga < g + z)
  modSeq s q (fun x => { x with banks := x.banks.map (fun y =>
    { y with ibuf := y.ibuf.filter (fun l => !hit l.ga.toNat 64), btb := y.btb.filter (fun e => !hit e.1 1 && !hit e.2 1) }) })

/-- A bank after CALL (R264 steps 4 and 5): what CALL writes comes from the registers k of issue, whatever another syllable of its
bundle has written into y (R225); where both write a field of STAT, CALL's value stands. DESIGN CHOICE, log entry 140. -/
def callBank (k y : Bank) (mask : BitVec 16) (ret : Word) (m : Nat) : Bank :=
  let w : Win := { w := Vector.replicate 16 0, rpc := ret, rmask := mask, rld := k.lo.stat.ld }
  let cwp := k.lo.stat.cwp + 1
  { y with lo := { y.lo with
      g := y.lo.g.set 15 (k.lo.g[15] - BitVec.ofNat 64 (8 * m)),
      wins := vset y.lo.wins ⟨cwp.toNat, cwp.isLt⟩ w,
      stat := { y.lo.stat with cwp := cwp, wres := k.lo.stat.wres + 1 } } }

/-- A bank after RET (R265 steps 4 and 5), without the restored registers: from the registers k of issue, as for CALL. Log entry 140. -/
def retBank (k y : Bank) (m : Nat) : Bank :=
  let w := k.lo.wins[(winIdx k.lo.stat).val]
  { y with lo := { y.lo with
      g := y.lo.g.set 15 (k.lo.g[15] + BitVec.ofNat 64 (8 * m)),
      stat := { y.lo.stat with ld := if w.rld.toNat < k.lo.stat.ld.toNat then w.rld else k.lo.stat.ld,
                               cwp := k.lo.stat.cwp - 1, wres := k.lo.stat.wres - 1 } } }

/-- Set bits of a mask. -/
def maskCount (m : BitVec 16) : Nat := ((List.range 16).filter (fun i => m.getLsbD i)).length

/-- SPILLW (R267), after its checks. -/
def spillBank (k : Bank) : Bank :=
  { k with lo := { k.lo with wsp := k.lo.wsp - 144, stat := { k.lo.stat with wres := k.lo.stat.wres - 1 } } }

/-- The physical window SPILLW writes, and the one FILLW fills (R267). -/
def spillWin (x : Stat) : Fin 8 := ⟨(x.cwp.toNat + 8 - x.wres.toNat + 1) % 8, Nat.mod_lt _ (by decide)⟩
def fillWin (x : Stat) : Fin 8 := ⟨(x.cwp.toNat + 8 - x.wres.toNat) % 8, Nat.mod_lt _ (by decide)⟩

/-- Sets the next PC and runs the loop-end check or the loop-closing rule (R258, R261, R262). -/
def advance (addr : Word) (len : Nat) (fl : Flow) (k : Bank) : Bank :=
  match fl with
  | .taken t true => { k with pc := t, lo := closeLoops t 4 k.lo }
  | .taken t false => { k with pc := t }
  | .skip t => let r := loopEnd addr 5 k.lo t; { k with lo := r.1, pc := r.2 }
  | .seqn => let r := loopEnd addr 5 k.lo (addr + BitVec.ofNat 64 len); { k with lo := r.1, pc := r.2 }
  | .exited => k

/-- The word of code at a GA of a line. -/
def lineWord (l : IbLine) (ga : Nat) : Nat := bits l.data.toNat (8 * (ga % 64)) 32

/-- The length in bytes of the bundle that LOOP with a count of 0 skips (R260), from its STOP bit: FE fetches the lines it decodes
(R290). None where a word of it lies beyond s1 or outside LM, or in a failed line, or where eleven words hold no STOP. -/
def skipLen (s : State) (q : Fin 16) (b : Fin 8) (d : Desc256) (ga : Nat) : Nat → State × Option Nat
  | 0 => (s, none)
  | n + 1 =>
    if dBase d + dLimit d < ga + 3 ∨ ga < lmSoft ∨ GiB * lmTopG s < ga + 4 then (s, none)
    else
      let s1 := needLine s q b (ga - ga % 64)
      match (lineOf (s1.seqs[q.val].banks[b.val]) (ga - ga % 64)).filter (fun l => !l.failed) with
      | none => (s1, none)
      | some l =>
        if bit (lineWord l ga) 31 then (s1, some 4)
        else let r := skipLen s1 q b d (ga + 4) n; (r.1, r.2.map (· + 4))

/-- LOOP with a count of 0 goes on behind the bundle at A + disp. The manual states no length for one that cannot be read: a free
value. Log entry 141. -/
def skipTo (s : State) (q : Fin 16) (b : Fin 8) (k : Bank) (lpe : Word) : State × Word :=
  let d := segReg k.lo 1
  let r := skipLen s q b d (dBase d + lpe.toNat) 11
  match r.2 with
  | some n => (r.1, lpe + BitVec.ofNat 64 n)
  | none => ({ r.1 with free := r.1.free + 1 }, lpe + BitVec.ofNat 64 (4 * (1 + Config.skippedWords r.1.free % 11)))

/-- Runs one act of a bundle that issues. k is the bank at issue, len the bundle's bytes. -/
def runAct (s : State) (q : Fin 16) (b : Fin 8) (c : Nat) (k : Bank) (len : Nat) (fl : Flow) : Act → State × Flow
  | .load ga z dest i =>
    (modSeq s q (fun x => { x with loads := x.loads ++
      [{ ctx := c, bank := b, ga := ga, len := z, dest := dest, before := k, idx := i, since := 0, stamp := x.issued,
         rest := none, failed := none }] }), fl)
  | .store ga bs se => (doStore s q c k.lo.stat.esc ga bs se, fl)
  | .muldiv rd v z n drop =>
    (modSeq s q (fun x => { x with md := some { bank := b, rd := rd, value := v, idz := z, cycles := n, win := winIdx k.lo.stat,
                                                drop := drop, stamp := x.issued } }), fl)
  | .fop vd kd rd flags fix clears n =>
    let o : FOp := { bank := b, pc := k.pc, vd := vd, kd := kd, rd := rd, flags := flags, fix := fix, clears := clears,
                     cycles := n, win := winIdx k.lo.stat, stamp := (s.seqs[q.val]).issued }
    (modPipe (modSeq (charge s c 7 n) q (fun x => { x with fq := x.fq ++ [o] })) (pipeOf q)
      (fun p => { p with busy := if n = 0 then p.busy else p.busy + 1 }), fl)
  | .branch taken target closes =>
    let ga := dBase (segReg k.lo 1)
    (resolveBranch s q b c (ga + k.pc.toNat) taken (ga + target.toNat), if taken then .taken target closes else fl)
  | .loop lpe count =>
    if count = 0 then let r := skipTo s q b k lpe; (mispredict r.1 q b c, .skip r.2)
    else
      (modBank s q b (fun y =>
        let n := k.lo.stat.ld.toNat
        { y with lo := { y.lo with
          lps := lput y.lo.lps n (k.pc + BitVec.ofNat 64 len), lpe := lput y.lo.lpe n lpe, lpc := lput y.lo.lpc n count,
          stat := { y.lo.stat with ld := k.lo.stat.ld + 1 } } }), fl)
  | .call mask target =>
    (modBank s q b (fun y => callBank k y mask (k.pc + BitVec.ofNat 64 len) (maskCount mask)), .taken target false)
  | .ret _ =>
    let w := k.lo.wins[(winIdx k.lo.stat).val]
    (modBank s q b (fun y => retBank k y (maskCount w.rmask)), .taken w.rpc false)
  | .spillw => (modBank s q b spillBank, fl)
  | .fillw =>
    let d := segReg k.lo 2
    let s := useSlots (touch s (.seq q k.lo.stat.esc) (dBase d + k.lo.wsp.toNat) 144) (.seq q k.lo.stat.esc) c
      (sectorsOf (dBase d + k.lo.wsp.toNat) 144)
    let r := readThrough s (.seq q k.lo.stat.esc) (s.seqs[q.val]).sb (dBase d + k.lo.wsp.toNat) 144
    (modBank s q b (fun y => { y with lo := { y.lo with
      wins := vset y.lo.wins (fillWin k.lo.stat) (winOf (natOf r.bytes)), wsp := y.lo.wsp + 144,
      stat := { y.lo.stat with wres := y.lo.stat.wres + 1 } } }), fl)
  | .savel seg off =>
    let r := saveRecord s q b c seg off 1 (lowerBytes k.lo)
    (r.1, if r.2 then fl else .exited)
  | .saveh seg off =>
    if fpFirst s q b c then (raiseFp s q b c k.pc, .exited)
    else
      let r := saveRecord (holdFp s q b c) q b c seg off 9 (upperBytes k.up (bits k.lo.fcsr.toNat 16 7))
      (r.1, if r.2 then fl else .exited)
  | .restl seg off =>
    let r := restLower s q b c seg off
    (r.1, if r.2 then .taken (advance k.pc len .seqn k).pc false else .exited)
  | .resth seg off => let r := restUpper s q b c seg off; (r.1, if r.2 then fl else .exited)
  | .fsync =>
    if fpFirst s q b c then
      let s1 := modBank s q b (advance k.pc len .seqn)
      (raiseFp s1 q b c (s1.seqs[q.val].banks[b.val]).pc, .exited)
    else (holdFp s q b c, fl)
  | .isync ga z => (if z = 0 then s else discardCode s q ga z, fl)
  | .trap code =>
    (raiseExc s q b c { Exc.plain 0x10 0 (k.pc + BitVec.ofNat 64 len) 0 (some 0) with tcode := code.toNat }, .exited)
  | .brk => (raiseExc s q b c (Exc.plain 0x11 0 k.pc 0 (some 0)), .exited)
  | .retx =>
    let s1 := match retxFrame q (getCtx s c) k with | some f => useSlots (touch s (.seq q k.lo.stat.esc) f.1 128) (.seq q k.lo.stat.esc) c (sectorsOf f.1 128) | none => s
    (retx (mispredict s1 q b c) q b c, .exited)
  | .jend => ((runJend s q b c).1, .exited)
  | .strm rd seg off => (issueStream s q b c rd (dBase (segReg k.lo seg) + off.toNat) k, fl)
  | .stwait rd v test => (endWait s q b c (winIdx k.lo.stat) rd v test, fl)
  | .scatter ws => (runPartial s q b [.scatter ws], fl)
  | .gather vd v => (runPartial s q b [.gather vd v], fl)
  | .vstart e => (runPartial s q b [.vstart e], fl)
  | .bytes gas => (gas.foldl (fun a g => chargeGa a (.seq q k.lo.stat.esc) c g 64) s, fl)
  | .pcy n => (modPipe (charge s c 7 n) (pipeOf q) (fun p => { p with busy := p.busy + 1 }), fl)
  | .dir op imm a i =>
    let r := dirRegister (modPipe s (pipeOf q) (fun p => { p with busy := p.busy + 1 })) q b c op imm a
    match r.2 with
    | some f => (raiseExc (if f.1.code = 0x0D then voidMem r.1 .scarab c f.1.faddr.toNat else r.1) q b c
        (Exc.plain f.1.code.toNat f.1.sub.toNat k.pc f.1.faddr.toNat (some i)), .exited)
    | none => (r.1, fl)
  | .reads rs =>
    let m : Master := .seq q k.lo.stat.esc
    (useSlots (rs.foldl (fun a r => touch a m r.1 r.2) s) m c (rs.flatMap (fun r => sectorsOf r.1 r.2)).eraseDups, fl)
  | .slow rs => (modSeq s q (fun x => { x with slow := x.slow ++ rs }), fl)

/-- Runs the acts of a bundle in order; an exception ends it. -/
def runActs (q : Fin 16) (b : Fin 8) (c : Nat) (k : Bank) (len : Nat) : State → Flow → List Act → State × Flow
  | s, fl, [] => (s, fl)
  | s, .exited, _ => (s, .exited)
  | s, fl, a :: as => let r := runAct s q b c k len fl a; runActs q b c k len r.1 r.2 as

/-- An act is a directory instruction. -/
def isDirAct : Act → Bool
  | .dir .. => true
  | _ => false

/-- A long load. -/
def isLoadAct : Act → Bool
  | .load .. => true
  | _ => false

/-- The acts of a bundle in the order in which they run: the directory instruction first, since it may fault, then the long loads,
behind which a store must wait (R252), then the others, the branch last. -/
def actsOf (l : List SyllOut) : List Act :=
  let all := l.flatMap (·.acts)
  let rest := fun (p : SyllOut → Bool) => ((l.filter p).flatMap (·.acts)).filter (fun a => !isDirAct a && !isLoadAct a)
  all.filter isDirAct ++ all.filter isLoadAct ++ rest (fun o => o.slot ≠ .b) ++ rest (fun o => o.slot = .b)

/-- The register writes of a bundle, RET's last (R265). -/
def writesOf (l : List SyllOut) : List RegW :=
  (l.filter (fun o => o.slot ≠ .b)).flatMap (·.writes) ++ (l.filter (fun o => o.slot = .b)).flatMap (·.writes)

/-- The end of a bundle: the next PC, unless an exception was entered, and MASKQ after the bundle's Q-cycles. The loop-end check of a
bundle uses what an MTC of the bundle wrote, where R245 says the next check and R281 the next bundle. DESIGN CHOICE, log entry 140. -/
def endBundle (q : Fin 16) (b : Fin 8) (c : Nat) (pc : Word) (len n : Nat) (r : State × Flow) : State :=
  match r.2 with
  | .exited => countMask r.1 q b c n
  | fl => countMask (modBank r.1 q b (advance pc len fl)) q b c n

/-- The g registers that a RET of the bundle restores (R265). -/
def restores (l : List SyllOut) : BitVec 16 :=
  ((l.flatMap (·.acts)).findSome? (fun a => match a with | .ret m => some m | _ => none)).getD 0

/-- An act of another syllable leaves a register alone that RET restores (R265), and knows its index in the bundle. -/
def placeAct (m : BitVec 16) (i : Nat) (a : Act) : Act :=
  let mine := fun (rd : Fin 32) => decide (rd.val < 16) && m.getLsbD rd.val
  match a with
  | .load ga z (.int rd w sg) _ => .load ga z (if mine rd then .mask 0 else .int rd w sg) i
  | .load ga z d _ => .load ga z d i
  | .muldiv rd v z n _ => .muldiv rd v z n (mine rd)
  | .fop vd kd (some (rd, v)) flags fix clears n => .fop vd kd (if mine rd then none else some (rd, v)) flags fix clears n
  | .dir op imm x _ => .dir op imm x i
  | x => x

/-- The syllables of a bundle with their acts placed, from an index on. -/
def placeActs (m : BitVec 16) : Nat → List SyllOut → List SyllOut
  | _, [] => []
  | i, o :: os => { o with acts := o.acts.map (placeAct m i) } :: placeActs m (i + o.words) os

/-- The register writes of RET, which stand against every other syllable of the bundle (R265). -/
def retRegs (l : List SyllOut) : List RegW :=
  ((l.filter (fun o => o.slot = .b)).flatMap (·.writes)).filter (fun w => match w with | .int rd _ => rd ≠ 15 | _ => false)

/-- What a bundle does when it issues: a directory instruction, which may fault, the register writes, the other acts, and the next
PC. n Q-cycles count for MASKQ. -/
def finishBundle (s : State) (q : Fin 16) (b : Fin 8) (c : Nat) (n : Nat) (l : List SyllOut) : State :=
  let k := s.seqs[q.val].banks[b.val]
  let len := 4 * sylIndex l l.length
  let put := fun (a : State) (ws : List RegW) => if ws.isEmpty then a else
    modBank a q b (fun y => ws.foldl (applyWrite (winIdx k.lo.stat)) y)
  let r0 := (actsOf l).partition isDirAct
  let d := runActs q b c k len s .seqn r0.1
  if d.2 = .exited then d.1
  else
    let r := runActs q b c k len (put d.1 (writesOf l)) .seqn r0.2
    endBundle q b c k.pc len n (if r.2 = .exited then r else (put r.1 (retRegs l), r.2))

/-- An act whose effect a failing load of its bundle could not take back. -/
def lasting : Act → Bool
  | .strm .. | .stwait .. | .scatter _ | .dir .. => true
  | _ => false

/-- A bundle with a long load whose other effects could not be taken back: they wait for its loads (R225, R252). Log entry 129. -/
def waitsForLoad (l : List SyllOut) : Bool :=
  (l.flatMap (·.acts)).any isLoadAct && (l.flatMap (·.acts)).any lasting

/-- A bundle leaves DE for EX, and so issues (R279): the sequencer's counters, and the Q-cycles it is charged (R180, R294). -/
def leaveDE (s : State) (q : Fin 16) (c : Nat) : State :=
  let n := stallOf s q
  chargeQ (modSeq s q (fun x => { x with
    lost := [], bundles := x.bundles + 1, issued := x.issued + 1, stalls := x.stalls + BitVec.ofNat 64 n, held := .nothing, slow := [],
    loads := x.loads.map (fun y => { y with since := y.since + 1 }) })) c (1 + n)

/-- The bundle issues: counters and charges, then its effect, or only its loads while the rest waits for them. -/
def issueBundle (s : State) (q : Fin 16) (b : Fin 8) (c : Nat) (l : List SyllOut) : State :=
  let k := s.seqs[q.val].banks[b.val]
  let len := 4 * sylIndex l l.length
  let n := stallOf s q
  let s2 := useLines (leaveDE s q c) q b c (dBase (segReg k.lo 1) + k.pc.toNat) len
  let l1 := placeActs (restores l) 0 l
  if waitsForLoad l1 then
    let r := runActs q b c k len s2 .seqn ((actsOf l1).filter isLoadAct)
    let rest := l1.map (fun o => { o with acts := o.acts.filter (fun a => !isLoadAct a) })
    countMask (modSeq r.1 q (fun x => { x with
      loads := x.loads.map (fun y => if y.stamp = x.issued then { y with rest := some rest } else y) })) q b c (1 + n)
  else finishBundle s2 q b c (1 + n) l1

/-- Whether exception entry must wait: long loads or F-slot operations are outstanding (R101, R252), or a result of the
multiply-divide unit, which the registers of the handler's window do not take. -/
def entryBusy (s : State) (q : Fin 16) (b : Fin 8) : Bool :=
  !(s.seqs[q.val]).loads.isEmpty || (s.seqs[q.val]).fq.any (fun o => o.bank = b)
    || (match (s.seqs[q.val]).md with | some m => m.bank = b | none => false)

/-- The classes of the items of R343 and of the FP traps that are entered in the place of another exception. -/
def itemCodes : List Nat := [0x06, 0x0D, 0x0E]

/-- A failed load's fault is entered once nothing older is outstanding (R101, R336), unless a pending item comes before it, after
which its bundle executes again (R343); a job that must end takes none (R320). -/
def settleLoads (s : State) (q : Fin 16) : State :=
  match (s.seqs[q.val]).loads with
  | [l] =>
    match l.failed with
    | some f =>
      if (s.seqs[q.val]).fq.any (fun o => o.bank = l.bank) || ((s.seqs[q.val]).md.any (fun m => m.bank = l.bank))
          || entryWaits s q (s.seqs[q.val].banks[l.bank.val]) (getCtx s l.ctx).fdepth.toNat (f.code.toNat :: itemCodes) then s
      else
        let s1 := modSeq s q (fun x => { x with loads := [] })
        if (getCtx s l.ctx).dying then s1
        else (pendingItem s1 q l.bank l.ctx).getD (faultExc s1 q l.bank l.ctx (faultActs (l.rest.getD []) f) f)
    | none => s
  | _ => s

/-- A bundle waits behind a load that has failed, that its own bundle waits for, or that 32 bundles have passed (R252). -/
def loadsHold (x : Seq) : Bool := x.loads.any (fun y => decide (32 ≤ y.since) || y.rest.isSome || y.failed.isSome)

/-- The store buffer after the stores of a bundle; ld: the bundle has a long load, so none of them is performed with it. -/
def bufAfter (q : Fin 16) (ld : Bool) (x : Seq) : Act → Seq
  | .store ga bs se => if !ld && directSt x q ga se then x else { x with sb := x.sb ++ newEntries x 0 false ga bs se }
  | _ => x

/-- The stores of a bundle find no room in the store buffer of 8 entries (R251). -/
def noRoom (x : Seq) (q : Fin 16) (l : List SyllOut) : Bool :=
  let acts := l.flatMap (·.acts)
  let y := acts.foldl (bufAfter q (acts.any isLoadAct)) x
  decide (x.sb.length < y.sb.length) && decide (8 < y.sb.length)

/-- With the long loads of a bundle, more than 8 would be outstanding (R283). -/
def manyLoads (x : Seq) (l : List SyllOut) : Bool :=
  let n := ((l.flatMap (·.acts)).filter isLoadAct).length
  decide (0 < n) && decide (8 < x.loads.length + n)

/-- A JEND of the bundle must wait, or an exception is entered in its place while results are on their way. -/
def jendHolds (s : State) (q : Fin 16) (b : Fin 8) (c : Nat) (l : List SyllOut) : Bool :=
  (l.flatMap (·.acts)).contains .jend &&
    (match (runJend s q b c).2 with | .held => true | .entered => entryBusy s q b | .done => false)

/-- What a bundle that does not issue waits for. -/
def whyHeld (l : List SyllOut) : HeldFor :=
  if l.any (·.sbStall) then .overlap else if l.any (·.drain) then .drain else .operand

/-- A bundle whose fault is one of execution has issued: the checks of DE are those before it (R238, R278, R279). -/
def faultInEX (s : State) (q : Fin 16) (b : Fin 8) (c : Nat) (f : SFault) : State :=
  if f.phase = 6 then countMask (leaveDE s q c) q b c (1 + stallOf s q) else s

/-- What an act of a bundle reaches waits for a block that holds (R482): the bytes that it reads or writes before the bundle completes, the
memory of a directory instruction, and the accesses of an exception that it enters. -/
def actWaits (s : State) (q : Fin 16) (c : Nat) (k : Bank) : Act → Bool
  | .reads rs => rs.any (fun r => waits s (.seq q k.lo.stat.esc) r.1 r.2)
  | .scatter ws => ws.any (fun w => waits s (.seq q k.lo.stat.esc) w.1 w.2.length)
  | .savel g o | .restl g o => waits s (.seq q k.lo.stat.esc) (dBase (segReg k.lo g) + o.toNat) 4096
  | .saveh g _ | .resth g _ => kindWaits s (.seq q k.lo.stat.esc) (dBase (segReg k.lo g))
  | .fillw => waits s (.seq q k.lo.stat.esc) (dBase (segReg k.lo 2) + k.lo.wsp.toNat) 144
  | .retx => (match retxFrame q (getCtx s c) k with | some f => waits s (.seq q k.lo.stat.esc) f.1 128 | none => false)
  | .strm _ g o => waits s (.pipe (pipeOf q)) (dBase (segReg k.lo g) + o.toNat) 0x380
  | .loop lpe 0 => waits s (.seq q false) (dBase (segReg k.lo 1) + lpe.toNat) 44
  | .dir .. => lmWaits s || (hdr s .dir).held
  | .trap _ => entryWaits s q k (getCtx s c).fdepth.toNat (0x10 :: itemCodes)
  | .brk => entryWaits s q k (getCtx s c).fdepth.toNat (0x11 :: itemCodes)
  | _ => false

/-- A line of the bundle's code is absent and its fetch waits, or an access of the bundle does (R482). -/
def bundleWaits (s : State) (q : Fin 16) (b : Fin 8) (c : Nat) (l : List SyllOut) : Bool :=
  let k := s.seqs[q.val].banks[b.val]
  s.pages.any (·.held) &&
    ((codeLines (dBase (segReg k.lo 1) + k.pc.toNat) (bundleBytes l)).any (fun g => (lineOf k g).isNone && waits s (.seq q false) g 64)
      || (l.flatMap (·.acts)).any (actWaits s q c k))

/-- Exception entry must wait: for what is outstanding, or for a block that holds (R101, R252, R482). -/
def entryStops (s : State) (q : Fin 16) (b : Fin 8) (c : Nat) (codes : List Nat) : Bool :=
  entryBusy s q b || entryWaits s q (s.seqs[q.val].banks[b.val]) (getCtx s c).fdepth.toNat (codes ++ itemCodes)

/-- A whole bundle reaches issue: pending items, waits, faults in the order of R238, waiting instructions, effect. -/
def commit (s : State) (q : Fin 16) (b : Fin 8) (c : Nat) (l : List SyllOut) : State :=
  let s0 := modSeq s q (fun x => { x with open_ := [] })
  let x := s0.seqs[q.val]
  let stop := fun (t : State) (why : HeldFor) => holdBundle t q b c why
  match pendingItem s0 q b c with
  | some s1 => if entryStops s0 q b c [] then stop s0 .operand else s1
  | none =>
    if l.any (·.hold) || segBusy x b 1 || loadsHold x || manyLoads x l || bundleWaits s0 q b c l then stop s0 (whyHeld l)
    else
      let f := fetchBundle s0 q b (bundleBytes l)
      let brk := match breaksAt l with | some i => [(⟨2, i, 0x01, 0x02, 0⟩ : SFault)] | none => []
      match firstFault (f.2.toList ++ brk ++ sylFaults 0 l ++ dupFaults 0 [] l
          ++ loopFaults (x.banks[b.val]).pc (4 * sylIndex l l.length) 0 l) with
      | some e => if entryStops f.1 q b c [e.code.toNat] then stop f.1 .operand else raiseFault (faultInEX f.1 q b c e) q b c l e
      | none =>
        if noRoom x q l then stop f.1 .drain
        else match mustWait f.1 q c (l.flatMap (·.acts)) with
        | some w => if entryBusy f.1 q b then stop f.1 .operand else enterWait f.1 q b c w.1 w.2
        | none => if jendHolds f.1 q b c l then stop (runJend f.1 q b c).1 .operand else issueBundle f.1 q b c l

/-- What a syllable sees when its bundle reads operands: the sequencer, its running bank and context (R225). -/
structure Env where
  s : State
  q : Fin 16
  b : Fin 8
  c : Nat
  x : Seq
  k : Bank
  y : Ctx
  deriving DecidableEq, Repr

/-- The level a syllable executes at. -/
def Env.pl (e : Env) : Nat := e.k.lo.stat.pl.toNat

/-- An integer register operand. -/
def Env.r (e : Env) (n : Fin 32) : Word := rdInt e.k.lo n

/-- A register that a syllable reads or writes has a result outstanding (R281). -/
def Env.busy (e : Env) (ns : List (Fin 32)) : Bool := ns.any (intBusy e.x e.b)

/-- The master of the sequencer's accesses. -/
def Env.m (e : Env) : Master := .seq e.q e.k.lo.stat.esc

/-- An F-slot operation of the context is outstanding. -/
def Env.fops (e : Env) : Bool := e.x.fq.any (fun o => o.bank = e.b)

/-- A result for a w register may be outstanding, so a change of window waits (R281). -/
def Env.resOut (e : Env) : Bool :=
  (match e.x.md with | some m => m.bank = e.b | none => false) || e.x.fq.any (fun o => o.bank = e.b && o.rd.isSome)
    || e.x.loads.any (fun l => match l.dest with | .int rd _ _ => decide (16 ≤ rd.val) | _ => false)

/-- A long load is outstanding, so an F or S syllable, a solo instruction, an SLD and an MTC wait (R252). -/
def Env.loadsOut (e : Env) : Bool := !e.x.loads.isEmpty

/-- The store buffer has not drained, or a store of the context waits in the buffer of a sequencer that it ran on before
(R23, R253, R306). -/
def Env.storesOut (e : Env) : Bool := !e.x.sb.isEmpty || hasStore e.s e.c

/-- A load from a segment with SE waits for an empty store buffer and for the long loads before it (R250). -/
def seWait (e : Env) (d : Desc256) (ok : Bool) : Bool := ok && dSE d && (e.loadsOut || e.storesOut)

/-- A store to a segment with SE waits for the stores that its context left in the buffer of another sequencer (R250, R306). -/
def seBehind (e : Env) (d : Desc256) : Bool :=
  dSE d && (List.finRange 16).any (fun p => decide (p ≠ e.q) && (e.s.seqs[p.val]).sb.any (fun y => y.ctx == e.c))

/-- A syllable of the running context's next bundle: staged, and with STOP, or with its twelfth syllable, the bundle reaches issue
(R222, R224). -/
def issue (s : State) (u : Syl) (o : Env → SyllOut) : State :=
  match running s u.seq with
  | none => s
  | some (b, c) =>
    if !seqRuns s u.seq || (getCtx s c).dying then s
    else
      let x := s.seqs[u.seq.val]
      let y := o { s := s, q := u.seq, b := b, c := c, x := x, k := x.banks[b.val], y := getCtx s c }
      let l := x.open_ ++ [y]
      if u.stop || decide (12 ≤ sylIndex l l.length) then commit s u.seq b c l
      else modSeq s u.seq (fun z => { z with open_ := l })

/-- A fault of a syllable, in a phase of R238. -/
def fault (phase code sub : Nat) (faddr : Nat) : SFault :=
  ⟨phase, 0, BitVec.ofNat 8 code, BitVec.ofNat 8 sub, BitVec.ofNat 57 faddr⟩

/-- Faults that stand under a condition. -/
def faultIf (p : Bool) (f : SFault) : List SFault := if p then [f] else []

/-- The sub-codes of Illegal Instruction in step 3 of R238 (R237). -/
def rsvdOpcode : SFault := fault 3 0x01 0x01 0
def rsvdField : SFault := fault 3 0x01 0x03 0
def nonzeroMbz : SFault := fault 3 0x01 0x04 0
def privOnly : SFault := fault 3 0x01 0x05 0
/-- Privileged Operation (R348): of MFC or MTC (R236), of SLD of s1 (R256), of vector state under NOVEC (R301). -/
def privCtl : SFault := fault 5 0x02 0x01 0
def privSld : SFault := fault 5 0x02 0x02 0
def privVec : SFault := fault 5 0x02 0x03 0

/-- The first of the faults that one syllable raises; the order of R238 within a syllable is the order of the list. -/
def oneFault (fs : List SFault) : List SFault := fs.take 1

/-- What a read of the bundle itself meets: an error response or poison (R52, R252). -/
def readFault (r : ReadResult) : List SFault :=
  match r.error.orElse (fun _ => r.poison) with
  | some g => [fault 6 0x0D 0 g]
  | none => []

/-- The fault of a ticket whose stream ended with one (R76). -/
def ticketFault (y : Ctx) (v : Word) : List SFault :=
  let t := y.tickets.toList.getD (v.toNat % 16) Ticket.zero
  faultIf (t.done && decide (bits t.fstat.toNat 0 8 ≠ 0)) (fault 6 (bits t.fstat.toNat 0 8) (bits t.fstat.toNat 8 8) t.faddr.toNat)

/-- A failed access check as a fault of execution (R327). -/
def accessFault : Option SegFail → List SFault
  | some f => [⟨6, 0, f.code, f.sub, f.faddr⟩]
  | none => []

end Sys2Proof.Machine
end

