-- ==== Sys2Proof/Machine/Control.lean ====
section
/-! DEFINITION. The B slot, and the S slot: branches, loops, calls, RETX, JEND, TRAP, BRK, STRM, STWAIT, STTEST
(R71 to R77, R231, R235, R258 to R277, R339). -/

namespace Sys2Proof.Machine

/-- A B syllable. -/
def bOut (words : Nat) : SyllOut := SyllOut.of .b 3 words

/-- A relative branch (R258): a condition on RA. -/
def branch (u : Syl) (ra : Fin 32) (d : BDisp) (p : Word → Bool) (s : State) : Host.Outcome State Fault Refusal :=
  .next (issue s u (fun e =>
    { bOut (bdispWords d) with
      hold := e.busy [ra], acts := [.branch (p (e.r ra)) (e.k.pc + bdispVal d) true] }))

/-- BR (R258). -/
def execBr (u : Syl) (d : BDisp) (s : State) : Host.Outcome State Fault Refusal :=
  .next (issue s u (fun e => { bOut (bdispWords d) with acts := [.branch true (e.k.pc + bdispVal d) true] }))
/-- BEQZ (R258). -/
def execBeqz (u : Syl) (ra : Fin 32) (d : BDisp) (s : State) := branch u ra d (fun v => decide (v = 0)) s
/-- BNEZ (R258). -/
def execBnez (u : Syl) (ra : Fin 32) (d : BDisp) (s : State) := branch u ra d (fun v => decide (v ≠ 0)) s
/-- BLTZ (R258). -/
def execBltz (u : Syl) (ra : Fin 32) (d : BDisp) (s : State) := branch u ra d (fun v => decide (v.toInt < 0)) s
/-- BGEZ (R258). -/
def execBgez (u : Syl) (ra : Fin 32) (d : BDisp) (s : State) := branch u ra d (fun v => decide (0 ≤ v.toInt)) s
/-- BGTZ (R258). -/
def execBgtz (u : Syl) (ra : Fin 32) (d : BDisp) (s : State) := branch u ra d (fun v => decide (0 < v.toInt)) s
/-- BLEZ (R258). -/
def execBlez (u : Syl) (ra : Fin 32) (d : BDisp) (s : State) := branch u ra d (fun v => decide (v.toInt ≤ 0)) s

/-- JR (R223, R258). -/
def execJr (u : Syl) (ra : Fin 32) (s : State) : Host.Outcome State Fault Refusal :=
  .next (issue s u (fun e =>
    { bOut 1 with
      hold := e.busy [ra], faults := faultIf (decide ((e.r ra).toNat % 4 ≠ 0)) rsvdField,
      acts := [.branch true (e.r ra) true] }))

/-- LOOP (R260). That disp is not below the bundle's length is checked when the bundle is complete. -/
def execLoop (u : Syl) (ra : Fin 32) (d : BDisp) (s : State) : Host.Outcome State Fault Refusal :=
  .next (issue s u (fun e =>
    let n := e.k.lo.stat.ld.toNat
    let disp := bdispVal d
    let last := e.k.pc + disp
    { bOut (bdispWords d) with
      dests := if n < 4 then [108 + n, 112 + n, 116 + n] else [],
      hold := e.busy [ra],
      faults := oneFault (faultIf (decide (disp.toInt ≤ 0)) rsvdField ++ faultIf (decide (n = 4)) (fault 6 0x0A 0 0)),
      acts := [.loop last (e.r ra)] }))

/-- The checks and effects of CALL and CALLR (R264). -/
def callOut (e : Env) (words : Nat) (mask : BitVec 16) (target : Word) (rs : List (Fin 32)) (enc : List SFault) : SyllOut :=
  let m := maskCount mask
  let sp := (e.r 15).toNat
  let d := segReg e.k.lo 2
  let o := ((e.r 15) - BitVec.ofNat 64 (8 * m)).toNat
  let bs := ((List.finRange 16).filter (fun i => mask.getLsbD i.val)).flatMap (fun i => bytesOf (e.k.lo.g[i.val]).toNat 8)
  let run :=
    if e.k.lo.stat.wt then [fault 6 0x09 0 0]
    else if e.k.lo.stat.wres = 7 then [fault 6 0x07 0 0]
    else if m = 0 then faultIf (decide (sp % 8 ≠ 0)) (fault 6 0x04 0x05 (dBase d + o))
    else accessFault (segCheck e.s e.m d e.pl .write o (8 * m) 8)
  { bOut words with
    dests := [15],
    hold := e.busy (15 :: rs ++ (List.finRange 32).filter (fun r => decide (r.val < 16) && mask.getLsbD r.val))
      || e.resOut || segBusy e.x e.b 2 || (decide (m ≠ 0) && seBehind e d),
    drain := decide (m ≠ 0) && seBehind e d,
    faults := oneFault (enc ++ faultIf (mask.getLsbD 15) rsvdField ++ run),
    acts := (if m = 0 then [] else
        .store (dBase d + o) bs (dSE d) :: (if ownSp e.q (dBase d + o) then [] else [.bytes (codeLines (dBase d + o) (8 * m))])) ++
      [.branch true target false, .call mask target] }

/-- CALL (R264): its X displacement is required. -/
def execCall (u : Syl) (mask : BitVec 16) (disp : BitVec 28) (s : State) : Host.Outcome State Fault Refusal :=
  .next (issue s u (fun e => callOut e 2 mask (e.k.pc + disp.signExtend 64 * 4) [] []))

/-- CALLR (R223, R264). -/
def execCallr (u : Syl) (mask : BitVec 16) (ra : Fin 32) (s : State) : Host.Outcome State Fault Refusal :=
  .next (issue s u (fun e => callOut e 1 mask (e.r ra) [ra] (faultIf (decide ((e.r ra).toNat % 4 ≠ 0)) rsvdField)))

/-- RET (R265). R223 checks the targets of JR and CALLR only: a misaligned RPC, which FILLW or RESTL can load, is taken as it is.
DESIGN CHOICE, log entry 127. -/
def execRet (u : Syl) (s : State) : Host.Outcome State Fault Refusal :=
  .next (issue s u (fun e =>
    let w := e.k.lo.wins[(winIdx e.k.lo.stat).val]
    let m := maskCount w.rmask
    let d := segReg e.k.lo 2
    let o := (e.r 15).toNat
    let ga := dBase d + o
    let run :=
      if e.k.lo.stat.wt then [fault 6 0x09 0 0]
      else if e.k.lo.stat.wres = 1 then [fault 6 0x08 0 0]
      else if m = 0 then faultIf (decide (o % 8 ≠ 0)) (fault 6 0x04 0x05 ga)
      else accessFault (segCheck e.s e.m d e.pl .read o (8 * m) 8)
    let reads := run.isEmpty && decide (m ≠ 0)
    let fwd := forward e.x.sb ga (8 * m)
    let own := ownSp e.q ga
    let stall := reads && decide (fwd = .stall)
    let long := reads && !own && decide (fwd = .none)
    let r := readThrough e.s e.m e.x.sb ga (8 * m)
    { bOut 1 with
      dests := [15],
      hold := e.busy (15 :: (List.finRange 32).filter (fun r => decide (r.val < 16) && w.rmask.getLsbD r.val))
        || e.resOut || segBusy e.x e.b 2 || stall || seWait e d reads,
      sbStall := stall,
      drain := seWait e d reads && e.storesOut,
      faults := oneFault (run ++ (if own && m ≠ 0 then readFault r else [])),
      writes := if m = 0 ∨ long then [] else retWrites w.rmask (natOf r.bytes),
      acts := (if m = 0 then [] else if long then [.load ga (8 * m) (.mask w.rmask) 0, .bytes (codeLines ga (8 * m))]
        else .slow ((List.range 16).filter (fun i => w.rmask.getLsbD i)) ::
          (if own then [] else [.bytes (codeLines ga (8 * m))])) ++ [.ret w.rmask] }))

/-- A solo syllable of the B slot; it waits for long loads (R252). -/
def soloB (u : Syl) (f : Env → Bool × List SFault × List Act) (s : State) : Host.Outcome State Fault Refusal :=
  .next (issue s u (fun e =>
    let r := f e
    { bOut 1 with solo := true, hold := e.loadsOut || r.1, faults := r.2.1, acts := r.2.2 }))

/-- The frame that RETX reads overlaps the store buffer in part (R251, R339). -/
def frameStall (e : Env) : Bool :=
  match retxFrame e.q e.y e.k with
  | some (ga, _) => decide (forward e.x.sb ga 128 = .stall)
  | none => false

/-- RETX will enter an exception, which waits for F-slot operations (R288, R336). -/
def retxFails (e : Env) : Bool :=
  match retxPlan e.s e.q e.y e.k with
  | .go _ => false
  | _ => true

/-- RETX (R339). -/
def execRetx (u : Syl) (s : State) : Host.Outcome State Fault Refusal :=
  .next (issue s u (fun e =>
    { bOut 1 with
      solo := true, hold := e.loadsOut || e.resOut || frameStall e || (retxFails e && e.fops), sbStall := frameStall e,
      faults := faultIf (e.pl == 2) privOnly, acts := [.retx] }))
/-- JEND (R276). -/
def execJend (u : Syl) (s : State) : Host.Outcome State Fault Refusal :=
  .next (issue s u (fun e =>
    { bOut 1 with solo := true, hold := e.loadsOut || e.storesOut || e.fops, drain := e.storesOut, acts := [.jend] }))
/-- TRAP (R277): the saved PC is that of the next bundle. -/
def execTrap (u : Syl) (code : BitVec 16) (s : State) := soloB u (fun e => (e.fops || e.resOut, [], [.trap code])) s
/-- BRK (R277). -/
def execBrk (u : Syl) (s : State) := soloB u (fun e => (e.fops || e.resOut, [], [.brk])) s

/-- STRM (R71 to R74). It issues once every store that its context issued earlier is visible (R49). R71 leaves open how the
failures of a scalar read and of a scalar write combine: the whole check as a read comes before that as a write. DESIGN CHOICE, log
entry 130. -/
def execStrm (u : Syl) (rd ra : Fin 32) (seg : Fin 16) (s : State) : Host.Outcome State Fault Refusal :=
  .next (issue s u (fun e =>
    let d := segReg e.k.lo seg
    let o := (e.r ra).toNat
    let rd' := segCheck e.s e.m d e.pl .read o 1024 0
    let chk := rd'.orElse (fun _ => segCheck e.s e.m d e.pl .write o 1024 0)
    { SyllOut.of .s 5 1 with
      dests := [rd.val],
      hold := e.busy [rd, ra] || segBusy e.x e.b seg || e.loadsOut || e.storesOut,
      drain := e.storesOut,
      faults := oneFault (accessFault chk ++ faultIf (decide (o % 64 ≠ 0)) (fault 6 0x05 0x05 0)
        ++ faultIf (freeTicket e.y).isNone (fault 6 0x05 0x09 0)),
      acts := [.strm rd seg (e.r ra)] }))

/-- STWAIT and STTEST (R75, R76). -/
def waitOut (rd ra : Fin 32) (test : Bool) (e : Env) : SyllOut :=
  let v := e.r ra
  { SyllOut.of .s 5 1 with
    dests := [rd.val], hold := e.busy [rd, ra] || e.loadsOut || e.fops,
    faults := if !ticketOk e.y v then [fault 6 0x05 0x0A 0]
      else ticketFault e.y v,
    acts := if ticketOk e.y v then [.stwait rd v test] else [] }

/-- STWAIT (R75). -/
def execStwait (u : Syl) (rd ra : Fin 32) (s : State) : Host.Outcome State Fault Refusal :=
  .next (issue s u (waitOut rd ra false))
/-- STTEST (R75). -/
def execSttest (u : Syl) (rd ra : Fin 32) (s : State) : Host.Outcome State Fault Refusal :=
  .next (issue s u (waitOut rd ra true))

end Sys2Proof.Machine
end

