-- ==== Sys2Proof/Machine/LoadStore.lean ====
section
/-! DEFINITION. The M slot: loads, stores, segment registers, save and restore, fences and window spills (R246 to
R257, R266 to R274), and the events of long loads and of the store buffer (R252, R253, R285 to R287, R409). -/

namespace Sys2Proof.Machine

/-- An M syllable. -/
def mOut (words : Nat) : SyllOut := SyllOut.of .m 2 words

/-- The register write of a load's bytes. -/
def loadWrite (dest : LoadDest) (bs : List Byte) : List RegW :=
  match dest with
  | .int rd z sg =>
    let n := natOf bs % 2 ^ (8 * z)
    [.int rd (if sg && n.testBit (8 * z - 1) then BitVec.ofNat 64 (n + (2 ^ 64 - 2 ^ (8 * z))) else BitVec.ofNat 64 n)]
  | .fp rd z => [.freg rd (BitVec.ofNat 64 (natOf bs)) z]
  | .seg n => [.seg n (BitVec.ofNat 256 (natOf bs))]
  | .mask _ => []

/-- The check of a descriptor that SLD loads (R254, R255): its sub-code of Segment Rights. -/
def sldBad (k : Bank) (d : Desc256) : Option Nat :=
  if !descOk d then some 0x06
  else if k.lo.stat.pl = 2 && !(List.finRange 16).any (fun i => decide (i ≠ 0) && descWithin d (segReg k.lo i)) then some 0x07
  else none

/-- Whether LDF, LDFS, STF, STFS name an f register that an F-slot operation or a load still writes (R247). -/
def Env.fbusy (e : Env) (r : Fin 32) : Bool :=
  fBusy e.x e.b r || e.x.fq.any (fun o => o.bank = e.b && (match o.vd with | some (v, _) => v = r | none => false))

/-- A load of z bytes (R246 to R252, R254). -/
def loadOut (m : MemOp) (scale z align : Nat) (dest : LoadDest) (dests : List Nat) (hold : Bool) (enc : List SFault) (e : Env) :
    SyllOut :=
  let d := segReg e.k.lo m.seg
  let o := (memOff e.k scale m).toNat
  let ga := dBase d + o
  let chk := segCheck e.s e.m d e.pl .read o z align
  let own := ownSp e.q ga
  let fwd := forward e.x.sb ga z
  let r := gaRead e.s e.m ga z
  let bs := match fwd with | .bytes b => some b | _ => if own then some r.bytes else none
  let bad := match bs, dest with
    | some b, .seg _ => (match sldBad e.k (BitVec.ofNat 256 (natOf b)) with
        | some sub => [fault 6 0x04 sub ga] | none => [])
    | _, _ => []
  let poison := if own && (match fwd with | .bytes _ => false | _ => true) then
      (match r.error.orElse (fun _ => r.poison) with | some g => [fault 6 0x0D 0 g] | none => []) else []
  { mOut (dispWords m.disp) with
    dests := dests,
    hold := e.busy [m.rb] || segBusy e.x e.b m.seg || hold || (chk.isNone && decide (fwd = .stall))
      || seWait e d chk.isNone,
    sbStall := chk.isNone && decide (fwd = .stall),
    drain := seWait e d chk.isNone && e.storesOut,
    faults := oneFault (enc ++ accessFault chk ++ poison ++ bad),
    writes := match bs with | some b => loadWrite dest b | none => [],
    acts := match bs with
      | some _ => .slow dests :: (if own then [.reads (match fwd with | .bytes _ => [] | _ => [(ga, z)])] else [.bytes (codeLines ga z)])
      | none => [.load ga z dest 0, .bytes (codeLines ga z)] }

/-- A store of bytes (R246 to R253). -/
def storeOut (m : MemOp) (scale align : Nat) (bs : List Byte) (hold : Bool) (enc : List SFault) (e : Env) : SyllOut :=
  let d := segReg e.k.lo m.seg
  let o := (memOff e.k scale m).toNat
  let ga := dBase d + o
  let chk := segCheck e.s e.m d e.pl .write o bs.length align
  { mOut (dispWords m.disp) with
    hold := e.busy [m.rb] || segBusy e.x e.b m.seg || hold || (chk.isNone && seBehind e d),
    drain := chk.isNone && seBehind e d,
    faults := oneFault (enc ++ accessFault chk),
    acts := [.store ga bs (dSE d)] ++ (if ownSp e.q ga then [] else [.bytes (codeLines ga bs.length)]) }

/-- A load of an integer register. -/
def loadInt (u : Syl) (rd : Fin 32) (m : MemOp) (z : Nat) (sg : Bool) (s : State) : Host.Outcome State Fault Refusal :=
  .next (issue s u (fun e => loadOut m z z 0 (.int rd z sg) [rd.val] (e.busy [rd]) [] e))

/-- A store of an integer register. -/
def storeInt (u : Syl) (rd : Fin 32) (m : MemOp) (z : Nat) (s : State) : Host.Outcome State Fault Refusal :=
  .next (issue s u (fun e => storeOut m z 0 (bytesOf (e.r rd).toNat z) (e.busy [rd]) [] e))

/-- A load of an f register; a context without vector state may not (R301). -/
def loadFp (u : Syl) (rd : Fin 32) (m : MemOp) (z : Nat) (s : State) : Host.Outcome State Fault Refusal :=
  .next (issue s u (fun e => loadOut m z z 0 (.fp rd z) [32 + rd.val] (e.fbusy rd) (faultIf e.y.novec privVec) e))

/-- A store of an f register. -/
def storeFp (u : Syl) (rd : Fin 32) (m : MemOp) (z : Nat) (s : State) : Host.Outcome State Fault Refusal :=
  .next (issue s u (fun e =>
    storeOut m z 0 (bytesOf (e.k.up.v[rd.val].toNat % 2 ^ 64) z) (e.fbusy rd) (faultIf e.y.novec privVec) e))

/-- LDB (R247). -/
def execLdb (u : Syl) (rd : Fin 32) (m : MemOp) (s : State) := loadInt u rd m 1 false s
/-- LDH (R247). -/
def execLdh (u : Syl) (rd : Fin 32) (m : MemOp) (s : State) := loadInt u rd m 2 false s
/-- LDW (R247). -/
def execLdw (u : Syl) (rd : Fin 32) (m : MemOp) (s : State) := loadInt u rd m 4 false s
/-- LDD (R247). -/
def execLdd (u : Syl) (rd : Fin 32) (m : MemOp) (s : State) := loadInt u rd m 8 false s
/-- LDBS (R247). -/
def execLdbs (u : Syl) (rd : Fin 32) (m : MemOp) (s : State) := loadInt u rd m 1 true s
/-- LDHS (R247). -/
def execLdhs (u : Syl) (rd : Fin 32) (m : MemOp) (s : State) := loadInt u rd m 2 true s
/-- LDWS (R247). -/
def execLdws (u : Syl) (rd : Fin 32) (m : MemOp) (s : State) := loadInt u rd m 4 true s
/-- STB (R247). -/
def execStb (u : Syl) (rd : Fin 32) (m : MemOp) (s : State) := storeInt u rd m 1 s
/-- STH (R247). -/
def execSth (u : Syl) (rd : Fin 32) (m : MemOp) (s : State) := storeInt u rd m 2 s
/-- STW (R247). -/
def execStw (u : Syl) (rd : Fin 32) (m : MemOp) (s : State) := storeInt u rd m 4 s
/-- STD (R247). -/
def execStd (u : Syl) (rd : Fin 32) (m : MemOp) (s : State) := storeInt u rd m 8 s
/-- LDF (R247). -/
def execLdf (u : Syl) (rd : Fin 32) (m : MemOp) (s : State) := loadFp u rd m 8 s
/-- LDFS (R247). -/
def execLdfs (u : Syl) (rd : Fin 32) (m : MemOp) (s : State) := loadFp u rd m 4 s
/-- STF (R247). -/
def execStf (u : Syl) (rd : Fin 32) (m : MemOp) (s : State) := storeFp u rd m 8 s
/-- STFS (R247). -/
def execStfs (u : Syl) (rd : Fin 32) (m : MemOp) (s : State) := storeFp u rd m 4 s

/-- SLD (R254 to R257): s0 is reserved, and s1 needs PL0. It waits for outstanding loads. -/
def execSld (u : Syl) (sn : Fin 16) (m : MemOp) (s : State) : Host.Outcome State Fault Refusal :=
  .next (issue s u (fun e => loadOut m 32 32 32 (.seg sn) [80 + sn.val] (segBusy e.x e.b sn || e.loadsOut)
    (faultIf (decide (sn = 0)) rsvdField ++ faultIf (decide (sn = 1) && decide (e.pl ≠ 0)) privSld) e))

/-- SST (R254). -/
def execSst (u : Syl) (sn : Fin 16) (m : MemOp) (s : State) : Host.Outcome State Fault Refusal :=
  .next (issue s u (fun e => storeOut m 32 32 (bytesOf (segReg e.k.lo sn).toNat 32) (segBusy e.x e.b sn) [] e))

/-- SAVEL, SAVEH, RESTL, RESTH (R269 to R272): solo, not at PL2, after every load and store. -/
def saveOut (u : Syl) (m : MemOp) (upper lower : Bool) (act : Fin 16 → Word → Act) (s : State) : Host.Outcome State Fault Refusal :=
  .next (issue s u (fun e =>
    { mOut (dispWords m.disp) with
      solo := true,
      hold := e.busy [m.rb] || segBusy e.x e.b m.seg || e.loadsOut || e.storesOut || e.fops || e.resOut,
      drain := e.storesOut,
      faults := oneFault (faultIf (e.pl == 2) privOnly ++ faultIf (upper && e.y.novec) privVec
        ++ faultIf (lower && e.k.lo.stat.wt) (fault 6 0x09 0 0)),
      acts := [act m.seg (memOff e.k 64 m)] }))

/-- SAVEL (R266, R270). -/
def execSavel (u : Syl) (m : MemOp) (s : State) := saveOut u m false true .savel s
/-- SAVEH (R271). -/
def execSaveh (u : Syl) (m : MemOp) (s : State) := saveOut u m true false .saveh s
/-- RESTL (R266, R270). -/
def execRestl (u : Syl) (m : MemOp) (s : State) := saveOut u m false true .restl s
/-- RESTH (R271). -/
def execResth (u : Syl) (m : MemOp) (s : State) := saveOut u m true false .resth s

/-- MFENCE (R274). -/
def execMfence (u : Syl) (s : State) : Host.Outcome State Fault Refusal :=
  .next (issue s u (fun e => { mOut 1 with hold := e.loadsOut || e.storesOut, drain := e.storesOut }))

/-- ISYNC (R273, R292): its range is checked for limit only. -/
def execIsync (u : Syl) (rd rb : Fin 32) (seg : Fin 16) (s : State) : Host.Outcome State Fault Refusal :=
  .next (issue s u (fun e =>
    let d := segReg e.k.lo seg
    let o := (e.r rb).toNat
    let z := (e.r rd).toNat
    { mOut 1 with
      solo := true, hold := e.busy [rd, rb] || segBusy e.x e.b seg || e.loadsOut || e.storesOut,
      drain := e.storesOut,
      faults := if z = 0 then [] else if !dV d then [fault 6 0x04 0x02 0]
        else if dLimit d < o + z - 1 then accessFault (some (failLimit (dBase d + max o (dLimit d + 1)))) else [],
      acts := [.isync (dBase d + o) z] }))

/-- SPILLW (R267, R268). -/
def execSpillw (u : Syl) (s : State) : Host.Outcome State Fault Refusal :=
  .next (issue s u (fun e =>
    let d := segReg e.k.lo 2
    let o := (e.k.lo.wsp - 144).toNat
    let idle := decide (e.k.lo.stat.wres = 1)
    { mOut 1 with
      solo := true,
      hold := e.loadsOut || e.resOut || segBusy e.x e.b 2 || (!idle && seBehind e d),
      drain := !idle && seBehind e d,
      faults := oneFault (faultIf (e.pl == 2) privOnly ++ (if idle then [] else
        accessFault (segCheck e.s e.m d e.pl .write o 144 8))),
      acts := if idle then [] else
        [.store (dBase d + o) (winBytes (e.k.lo.wins[(spillWin e.k.lo.stat).val])) (dSE d), .spillw,
         .bytes (if ownSp e.q (dBase d + o) then [] else codeLines (dBase d + o) 144)] }))

/-- FILLW (R267, R268). -/
def execFillw (u : Syl) (s : State) : Host.Outcome State Fault Refusal :=
  .next (issue s u (fun e =>
    let d := segReg e.k.lo 2
    let o := e.k.lo.wsp.toNat
    let idle := decide (e.k.lo.stat.wres = 7)
    let stall := !idle && decide (forward e.x.sb (dBase d + o) 144 = .stall)
    let r := readThrough e.s e.m e.x.sb (dBase d + o) 144
    { mOut 1 with
      solo := true,
      hold := e.loadsOut || e.resOut || segBusy e.x e.b 2 || stall || seWait e d (!idle),
      sbStall := stall,
      drain := seWait e d (!idle) && e.storesOut,
      faults := oneFault (faultIf (e.pl == 2) privOnly ++ (if idle then [] else
        accessFault (segCheck e.s e.m d e.pl .read o 144 8) ++ readFault r)),
      acts := if idle then [] else
        [.fillw, .bytes (if ownSp e.q (dBase d + o) then [] else codeLines (dBase d + o) 144)] }))

/-! ## Long loads (R252) -/

/-- What is left of a sequencer's work when a load fails: what its bundle and every bundle after it did is discarded, the registers,
the loads, the buffered stores, the F-slot operations and the multiply or divide. Of the failed bundle's own loads, those before
this one stay, since they could fail first (R238). -/
def undoTo (s : State) (q : Fin 16) (l : LongLoad) : State :=
  modSeq s q (fun x =>
    { x with banks := vset x.banks l.bank { l.before with ibuf := (x.banks[l.bank.val]).ibuf, btb := (x.banks[l.bank.val]).btb },
             loads := x.loads.filter (fun y => decide (y.stamp < l.stamp) || (decide (y.stamp = l.stamp) && decide (y.idx < l.idx))),
             sb := x.sb.filter (fun e => decide (e.stamp < l.stamp)), open_ := [], slow := [],
             fq := x.fq.filter (fun o => decide (o.stamp < l.stamp)),
             md := x.md.filter (fun m => decide (m.stamp < l.stamp)) })

/-- A load fails (R252): what came after is discarded, and its fault waits for what came before. -/
def failLoad (s : State) (q : Fin 16) (l : LongLoad) (f : SFault) : State :=
  let s1 := undoTo s q l
  settleLoads (modSeq s1 q (fun x => { x with loads := x.loads ++ [{ l with failed := some f, rest := none }] })) q

/-- The registers of a bank after a load's bytes arrive. -/
def arriveIn (l : LongLoad) (bs : List Byte) (k : Bank) : Bank :=
  match l.dest with
  | .mask m =>
    let rank := fun (i : Nat) => ((List.range i).filter (fun j => m.getLsbD j)).length
    ((List.finRange 16).filter (fun i => m.getLsbD i.val)).foldl (fun y i =>
      { y with lo := { y.lo with g := y.lo.g.set i.val (BitVec.ofNat 64 (bits (natOf bs) (64 * rank i.val) 64)) } }) k
  | _ => (loadWrite l.dest bs).foldl (applyWrite (winIdx l.before.lo.stat)) k

/-- The fault of an STTEST whose stream has ended meanwhile, at its place in the bundle (R76). -/
def lateFault (y : Ctx) : Nat → List SyllOut → Option SFault
  | _, [] => none
  | i, o :: os =>
    match o.acts.findSome? (fun a => match a with | .stwait _ v _ => (ticketFault y v).head? | _ => none) with
    | some f => some { f with idx := i }
    | none => lateFault y (i + o.words) os

/-- The bytes of a load that its bundle waits for join the rest of the bundle as register writes; with the last load of the bundle
the rest takes effect, or the fault of an STTEST cancels the bundle. Log entry 129. -/
def finishRest (s : State) (q : Fin 16) (l : LongLoad) (rest : List SyllOut) (bs : List Byte) : State :=
  let got : SyllOut := match l.dest with
    | .mask m => { SyllOut.of .b 3 0 with writes := retWrites m (natOf bs) }
    | d => { mOut 0 with writes := loadWrite d bs }
  let all := rest ++ [got]
  if (s.seqs[q.val]).loads.any (fun y => y.stamp = l.stamp) then
    modSeq s q (fun x => { x with loads := x.loads.map (fun y => if y.stamp = l.stamp then { y with rest := some all } else y) })
  else match lateFault (getCtx s l.ctx) 0 rest with
    | some f => modSeq s q (fun x => { x with loads := x.loads ++ [{ l with failed := some f, rest := some rest }] })
    | none => finishBundle s q l.bank l.ctx 0 all

/-- A load's data arrives. -/
def arriveLoad (s : State) (q : Fin 16) (i : Nat) (l : LongLoad) (bs : List Byte) : State :=
  let s1 := modSeq s q (fun x => { x with loads := x.loads.take i ++ x.loads.drop (i + 1) })
  match l.rest with
  | some rest => finishRest s1 q l rest bs
  | none => lateBank s1 q l.bank l.stamp (arriveIn l bs)

/-- The error or the refused descriptor that an arriving load meets: code, sub-code and FADDR. -/
def loadBad (l : LongLoad) (r : ReadResult) : Option SFault :=
  match r.error.orElse (fun _ => r.poison.orElse (fun _ => r.unmapped)) with
  | some ga => some (fault 6 0x0D 0 ga)
  | none =>
    match l.dest with
    | .seg _ => (sldBad l.before (BitVec.ofNat 256 (natOf r.bytes))).map (fun sub => fault 6 0x04 sub l.ga)
    | _ => none

/-- The i-th outstanding load, whose data may arrive: the loads of one address complete in the order of their issue (R35, R48). -/
def arriving (ls : List LongLoad) (i : Nat) : Option LongLoad :=
  (ls[i]?).filter (fun l => !(ls.take i).any (fun o => overlaps o.ga o.len l.ga l.len))

/-- LONG_LOAD_DATA_ARRIVAL: the data of the i-th outstanding load, or its poison or error, or a descriptor that SLD
refuses (R252, R254, R255). -/
def execLongLoadDataArrival (q : Fin 16) (a : LoadArrival) (s0 : State) : Host.Outcome State Fault Refusal :=
  match arriving (s0.seqs[q.val]).loads a.i.val with
  | none => .next s0
  | some l =>
    let m : Master := .seq q l.before.lo.stat.esc
    if l.failed.isSome then .next (settleLoads s0 q)
    else if waits s0 m l.ga l.len then .next s0
    else
      let s := useSlots (meetErrors s0 m l.ga l.len a.found) m l.ctx (sectorsOf l.ga l.len)
      let r := gaRead s m l.ga l.len
      match loadBad l r with
      | some f => .next (failLoad (if f.code = 0x0D then voidMem s m l.ctx f.faddr.toNat else s) q l f)
      | none => .next (settleLoads (arriveLoad s q a.i.val l r.bytes) q)

/-! ## The store buffer (R253, R285 to R287) -/

/-- Entries sent with the first one: the whole of a split store (R249, R285). -/
def sendPair : List SbEntry → List SbEntry
  | [] => []
  | e :: es => { e with sent := true } :: (if e.pair then sendPair es else es)

/-- STORE_BUFFER_SEND: the next store in program order, with every entry of it, none while a long load is outstanding (R249,
R252, R285). The buffer's 8 entries may all be in flight. -/
def execStoreBufferSend (q : Fin 16) (s : State) : Host.Outcome State Fault Refusal :=
  let x := s.seqs[q.val]
  if !x.loads.isEmpty then .next s
  else
    .next (modSeq s q (fun y => { y with sb := y.sb.takeWhile (·.sent) ++ sendPair (y.sb.dropWhile (·.sent)) }))

/-- The buffer without its i-th entry; the entry before it no longer stands together with it. -/
def dropStore (sb : List SbEntry) (i : Nat) : List SbEntry :=
  (sb.take i).modify (i - 1) (fun e => { e with pair := false }) ++ sb.drop (i + 1)

/-- An entry in flight that may drain: its write follows those of older stores to the same bytes (R48), and a store to an SE segment
keeps its place among all of them (R250). -/
def drainable (sb : List SbEntry) (i : Nat) : Option SbEntry :=
  (sb[i]?).filter (fun e => e.sent
    && !(sb.take i).any (fun o => e.se || o.se || overlaps o.ga o.bytes.length e.ga e.bytes.length))

/-- STORE_WRITE_ACK: the i-th entry, in flight, drains, whatever the entries before it do (R285, R286), or its write fails
(R253). -/
def execStoreWriteAck (r : StoreRef) (s : State) : Host.Outcome State Fault Refusal :=
  match drainable (s.seqs[r.q.val]).sb r.i.val with
  | none => .next s
  | some e =>
    let m : Master := .seq r.q e.esc
    if waits s m e.ga e.bytes.length then .next s
    else
      let w := gaWrite s m e.ga e.bytes
      let s1 := useSlots (modSeq w.1 r.q (fun x => { x with sb := dropStore x.sb r.i.val })) m e.ctx (sectorsOf e.ga e.bytes.length)
      .next (match w.2 with | some _ => deferFault s1 e.ctx e.ga | none => s1)

/-- The GA is port B of another sequencer's scratchpad (R287, R406). -/
def otherSp (q : Fin 16) (ga : Nat) : Bool := decide (onDieBase ≤ ga) && decide (ga < onDieBase + 0x1000000) && !ownSp q ga

/-- LMS_COLLb of the scratchpad and bank that a GA lies in counts a COLLIDED answer (R408). -/
def countColl (s : State) (ga : Nat) : State :=
  let k := (ga - onDieBase) / 0x100000 * 16 + ga / 64 % 16
  { s with lms := { s.lms with coll := tset (0 : Reg32) s.lms.coll k (satInc (tget 0 s.lms.coll k)) } }

/-- A COLLIDED answer to the i-th entry in flight, which is sent again; the fourth answer is an error (R287, R409). -/
def storeCollided (q : Fin 16) (i : Fin 8) (s : State) : State :=
  match ((s.seqs[q.val]).sb[i.val]?).filter (fun e => e.sent && otherSp q e.ga) with
  | none => s
  | some e =>
    let s1 := countColl (modSeq s q (fun x => { x with collided := satInc x.collided })) e.ga
    if e.coll + 1 < 4 then modSeq s1 q (fun x => { x with sb := x.sb.modify i.val (fun y => { y with coll := y.coll + 1 }) })
    else deferFault (modSeq s1 q (fun x => { x with sb := dropStore x.sb i.val })) e.ctx e.ga

/-- A COLLIDED answer to the next port-B write of another master to a line; after the fourth that write meets an error (R409). -/
def writeCollided (ga : Nat) (s : State) : State :=
  if onDieBase ≤ ga ∧ ga < onDieBase + 0x1000000 then
    let n := ((s.lms.answers.find? (fun e => decide (e.1 = ga / 64))).map (·.2)).getD 0
    let s1 := countColl s ga
    { s1 with lms := { s1.lms with answers := (ga / 64, n + 1) :: s.lms.answers.filter (fun e => decide (e.1 ≠ ga / 64)) } }
  else s

/-- PORT_B_COLLIDED_ANSWER (R287, R409). -/
def execPortBCollidedAnswer (w : Collided) (s : State) : Host.Outcome State Fault Refusal :=
  match w with
  | .store q i => .next (storeCollided q i s)
  | .write ga => .next (writeCollided ga.toNat s)

/-- A line that FE prefetches: the next after one in the partition, or that of a predicted target (R290). -/
def prefetched (k : Bank) (g : Nat) : Bool :=
  (decide (64 ≤ g) && (lineOf k (g - 64)).isSome) || k.btb.any (fun e => decide (e.2 / 64 = g / 64))

/-- IBUF_LINE_FILL: a prefetched line enters a bank's partition (R289, R290); a line that FE waits for enters with its bundle. -/
def execIbufLineFill (q : Fin 16) (bank : Fin 8) (ga : BitVec 57) (s : State) : Host.Outcome State Fault Refusal :=
  let k := s.seqs[q.val].banks[bank.val]
  let g := ga.toNat - ga.toNat % 64
  let d := segReg k.lo 1
  if k.occ.isNone ∨ (lineOf k g).isSome ∨ prefetched k g = false ∨ g < lmSoft ∨ GiB * lmTopG s < g + 64
      ∨ g + 64 ≤ dBase d ∨ dBase d + dLimit d < g ∨ waits s (.seq q false) g 64 = true then .next s
  else
    let s0 := touch s (.seq q false) g 64
    let s1 := match k.occ with | some c => useSlots s0 (.seq q false) c (sectorsOf g 64) | none => s0
    .next (modBank s1 q bank (fun y => putLine y (readLine s1 q g)))

end Sys2Proof.Machine
end

