-- ==== Sys2Proof/Machine/Streams.lean ====
section
/-! DEFINITION. Streams running in their pipes: the grant of an entry, the start and its checks, waves, strips, the end
of a stream, lane failures, and the directory engine's retirements (R59 to R92, R106 to R134, R152 to R158, R209 to R211,
R501 to R503). -/

namespace Sys2Proof.Machine

/-! ## Order and readiness -/

/-- Whether one stream comes before another (R72, R78): guaranteed first, by earliest deadline; then by order. -/
def strmBefore (s : State) (a b : Bool × BitVec 20 × Nat) : Bool :=
  if a.1 != b.1 then !a.1
  else if a.1 then decide (a.2.2 < b.2.2)
  else decide (distance s a.2.1 < distance s b.2.1) ||
    (decide (distance s a.2.1 = distance s b.2.1) && decide (a.2.2 < b.2.2))

def strmKey (t : Stream) : Bool × BitVec 20 × Nat := (t.be, t.dl, t.order)

/-- A pipe's streams that satisfy a condition, in the order of R78. -/
def strmList (s : State) (p : Fin 8) (f : Stream → Bool) : List (Fin 64 × Stream) :=
  let all := (List.finRange 64).filterMap (fun e => match getStream s p e with
    | some t => if f t then some (e, t) else none
    | none => none)
  all.foldl (fun l x => (l.takeWhile (fun y => strmBefore s (strmKey y.2) (strmKey x.2))) ++ x ::
    (l.dropWhile (fun y => strmBefore s (strmKey y.2) (strmKey x.2)))) []

def isActive (t : Stream) : Bool := match t.phase with | .active _ => true | _ => false

/-- No element of an uncommitted strip has been taken. -/
def atBoundary (t : Stream) : Bool := decide (t.next = t.com) && t.recs.isEmpty && t.els.isEmpty && t.fault.isNone

/-- A budget overrun reaches a job's streams (R74, R158, R179): one that stands between strips is best-effort at once, the
others from their next strip on. -/
def demoteStrms (s : State) (c : Nat) : State :=
  { s with pipes := s.pipes.map (fun p => { p with table := p.table.map (fun e => e.map (fun t =>
      if t.ctx = c then { t with demoted := true, be := t.be || atBoundary t } else t)) }) }

/-- The lowest free partition of a pipe (R78). -/
def freePart (s : State) (p : Fin 8) : Option (Fin 4) :=
  (List.finRange 4).find? (fun k => !(s.pipes[p.val].table.any (fun e => match e with
    | some t => decide (t.phase = .active k)
    | none => false)))

/-! ## The grant of an entry (R72) -/

/-- The entry that a waiting STRM gets: 16 of the 64 serve the guaranteed class only. -/
def freeEntry (s : State) (p : Fin 8) (be : Bool) : Option (Fin 64) :=
  let free := fun (e : Fin 64) => (getStream s p e).isNone
  if be then (List.finRange 64).find? (fun e => decide (e.val < 48) && free e)
  else ((List.finRange 64).find? (fun e => decide (48 ≤ e.val) && free e)).orElse
    (fun _ => (List.finRange 64).find? free)

/-- The waiting STRM that comes first. -/
def firstWait (s : State) : List StrmWait → Option StrmWait
  | [] => none
  | w :: ws =>
    match firstWait s ws with
    | none => some w
    | some v => if strmBefore s (v.be, v.dl, 1) (w.be, w.dl, 0) then some v else some w

/-- STREAM_TABLE_GRANT: the first waiting STRM gets an entry; its context becomes READY (R72, R313). Where the context has come to
another pipe's sequencer before it runs, the entry stays held (log entry 144). -/
def execStreamTableGrant (p : Fin 8) (s : State) : Host.Outcome State Fault Refusal :=
  match firstWait s (s.pipes[p.val]).waiting with
  | none => .next s
  | some w =>
    match (if pipeRuns s p then freeEntry s p w.be else none) with
    | none => .next s
    | some e =>
      let t := { Stream.issued w.ctx 0 (getCtx s w.ctx).seq 0 (getCtx s w.ctx) Bank.empty 0 with phase := .held }
      let s1 := modPipe (setStream s p e (some t)) p (fun x => { x with waiting := x.waiting.erase w })
      .next (wakeOn s1 w.ctx 3)

/-! ## The start (R60, R62, R80, R134, R501, R502) -/

/-- A stream's fault, at an element. -/
def strmFault (e code sub faddr opnd step : Nat) : StrmFault :=
  ⟨e, BitVec.ofNat 8 code, BitVec.ofNat 8 sub, BitVec.ofNat 57 faddr, BitVec.ofNat 4 opnd, BitVec.ofNat 3 step⟩

/-- The pipe checks the block of an issued stream (R80, R501, R502). -/
def startStrm (s : State) (p : Fin 8) (e : Fin 64) (t : Stream) : State :=
  match t.bad with
  | some g =>
    let ga := match place s (.pipe p) g with | some q => g - q.key % unitSize q.region | none => g
    setStream s p e (some { t with phase := .ended, fault := some (strmFault t.start 0x0D 0 ga 0 0) })
  | none =>
    match issueFail s t t.start t.cur.wcount with
    | some f => setStream s p e (some { t with phase := .ended, fault := some (strmFault t.start 5 f.sub f.faddr f.opnd f.step) })
    | none => setStream s p e (some { t with phase := if t.start = t.n then .ended else .ready })

/-- STREAM_START: the block that the pipe read when STRM issued the stream, once every earlier store of its context was
visible (R49, R60), is checked. Log entry 130. -/
def execStreamStart (p : Fin 8) (e : Fin 64) (s : State) : Host.Outcome State Fault Refusal :=
  match getStream s p e with
  | some t => if t.phase = .issued ∧ pipeRuns s p = true then .next (startStrm s p e t) else .next s
  | none => .next s

/-! ## Partitions (R78) -/

/-- Streams that are ready to run but not running, in order. -/
def readyList (s : State) (p : Fin 8) : List (Fin 64 × Stream) := strmList s p (fun t => decide (t.phase = .ready) && !t.cancel)

/-- An active stream that a ready stream displaces at its next boundary: the last in order, with every partition held. -/
def displaced (s : State) (p : Fin 8) (e : Fin 64) : Bool :=
  match (readyList s p).head?, (strmList s p isActive).getLast? with
  | some r, some v => (freePart s p).isNone && v.1 == e && strmBefore s (strmKey r.2) (strmKey v.2)
  | _, _ => false

/-- STREAM_ACTIVATE: the first ready stream takes a free partition, or that of the last active stream, which has stopped
at a strip boundary (R78). -/
def execStreamActivate (p : Fin 8) (e : Fin 64) (s : State) : Host.Outcome State Fault Refusal :=
  match (readyList s p).head? with
  | some r =>
    if r.1 ≠ e ∨ pipeRuns s p = false then .next s
    else
      match freePart s p with
      | some k => .next (setStream s p e (some { r.2 with phase := .active k }))
      | none =>
        match (strmList s p isActive).getLast? with
        | some v =>
          if strmBefore s (strmKey r.2) (strmKey v.2) && atBoundary v.2 then
            .next (setStream (setStream s p v.1 (some { v.2 with phase := .ready })) p e (some { r.2 with phase := v.2.phase }))
          else .next s
        | none => .next s
  | none => .next s

/-! ## One element: inputs and addresses (R66, R67, R81, R83, R88) -/

/-- The first byte of a range whose sector was answered with an error: a request of the stream failed there (R16, R30, R42). -/
def lostAt (t : Stream) (ga z : Nat) : Option Nat :=
  lostIn t.lost ga z

/-- The line of a gather that one read has brought for a strip (R87). -/
def lineFor (t : Stream) (strip opnd ga : Nat) : Option GLine :=
  t.lines.find? (fun l => l.strip == strip && l.opnd == opnd && l.line == ga - ga % 64)

/-- Reads z bytes of an element: an unmapped GA is UNMAPPED, poison or an error response Memory Uncorrectable. The elements of a gather
take their bytes from the line that their strip has read (R87); an element whose directory operation has retired was read before (R155). -/
def elRead (s : State) (p : Fin 8) (t : Stream) (i seg : Nat) (off : Int) (z opnd : Nat) : Except StrmFault Nat :=
  let ga := (((dBase (strmSeg t seg) : Int) + off) % ((2 ^ 57 : Nat) : Int)).toNat
  let lost := if t.dirRec.any (fun e => e.i == i) then none else lostAt t ga z
  match lineFor t (i / 512) opnd ga with
  | some l =>
    let c := (l.cells.drop (ga % 64)).take z
    (match c.findSome? (·.2), lost with
      | some (true, g), _ => .error (strmFault i 5 1 g opnd 0)
      | some (false, g), _ => .error (strmFault i 0x0D 0 g opnd 0)
      | none, some g => .error (strmFault i 0x0D 0 g opnd 0)
      | none, none => .ok (natOf (c.map (·.1))))
  | none =>
    let r := gaRead s (.pipe p) ga z
    match r.unmapped, (r.error.orElse (fun _ => r.poison)).orElse (fun _ => lost) with
    | some g, _ => .error (strmFault i 5 1 g opnd 0)
    | none, some g => .error (strmFault i 0x0D 0 g opnd 0)
    | none, none => .ok (natOf r.bytes)

/-- One bit of a packed operand (R65). -/
def elBit (s : State) (p : Fin 8) (t : Stream) (i seg base bitoff opnd : Nat) : Except StrmFault Bool :=
  match elRead s p t i seg (base + (bitoff + i) / 8 : Nat) 1 opnd with
  | .ok v => .ok (v.testBit ((bitoff + i) % 8))
  | .error f => .error f

/-- The offset of an indexed element, checked against the limit (R67, R81). -/
def idxOff (t : Stream) (d i ix opnd : Nat) : Except StrmFault Nat :=
  let z := tySize (sdType d)
  let x := strmSeg t (sdSeg d)
  let off := sdBase d + ix * z
  if dLimit x < off + z - 1 ∨ 2 ^ 57 ≤ off then
    .error (strmFault i 5 3 ((dBase x + max off (dLimit x + 1)) % 2 ^ 57) opnd 0)
  else .ok off

/-- The mask bit of an operand at an element: true where it has no mask stream. -/
def maskBit (s : State) (p : Fin 8) (t : Stream) (k i : Nat) : Except StrmFault Bool :=
  let d := strmDesc t k
  if sdMsk d then
    match elBit s p t i (sdMseg d) (sdMbase d) (sdMbitoff d) (opMask k) with
    | .ok v => .ok (v != sdMinv d)
    | .error f => .error f
  else .ok true

/-- The index of an operand at an element: 0 where it has no index stream. -/
def idxRead (s : State) (p : Fin 8) (t : Stream) (k i : Nat) : Except StrmFault Nat :=
  let d := strmDesc t k
  if sdIdx d then elRead s p t i (sdIseg d) (sdIbase d + i * sdIsize d : Nat) (sdIsize d) (opIndex k) else .ok 0

/-! ### Gathers (R87) -/

/-- The 64 bytes of a line, each with its failure. -/
def lineCells (s : State) (p : Fin 8) (line : Nat) : List (Byte × Option (Bool × Nat)) :=
  (List.range 64).map (fun b =>
    let r := gaRead s (.pipe p) (line + b) 1
    (r.bytes.headD 0, match r.unmapped, r.error.orElse (fun _ => r.poison) with
      | some g, _ => some (true, g)
      | none, some g => some (false, g)
      | none, none => none))

/-- The GA of an element of an indexed input that the stream reads: none where a mask switches the element off, where its index cannot
be read, or where it leads beyond the segment. -/
def gatherGa (s : State) (p : Fin 8) (t : Stream) (k i : Nat) : Option Nat :=
  let d := strmDesc t k
  match maskBit s p t k i, idxRead s p t k i with
  | .ok true, .ok ix => (match idxOff t d i ix (opData k) with
      | .ok o => some (strmGa t (sdSeg d) (o : Nat))
      | .error _ => none)
  | _, _ => none

/-- A gather reads each line that its elements i to i + n - 1 touch, once for a strip (R87). -/
def readLines (s : State) (p : Fin 8) (t : Stream) (i n : Nat) : Stream :=
  [0, 1].foldl (fun u k =>
    if sdEn (strmDesc t k) && sdIdx (strmDesc t k) then
      (List.range n).foldl (fun v j =>
        match gatherGa s p t k (i + j) with
        | none => v
        | some ga =>
          if (lineFor v ((i + j) / 512) (opData k) ga).isSome then v
          else { v with lines := v.lines ++ [⟨(i + j) / 512, opData k, ga - ga % 64, lineCells s p (ga - ga % 64)⟩] }) u
    else u) t

/-! ### Overlap of the output with an input (R47) -/

/-- Where the first element of an operand would lie, in bits: the place of position 0 of an affine one. -/
def sdFirst (t : Stream) (d : Nat) : Int := 8 * ((dBase (strmSeg t (sdSeg d)) : Int) + sdBase d) + sdBitoff d

/-- The bits of an element, and of the step from one to the next. -/
def sdBits (d : Nat) : Nat := if sdType d = 11 then 1 else 8 * tySize (sdType d)
def sdStep (d : Nat) : Int := if sdType d = 11 then 1 else 8 * sdStride d

/-- Two ranges of bits have one in common. -/
def rangesMeet (x : Int) (w : Nat) (y : Int) (v : Nat) : Bool := decide (x < y + v) && decide (y < x + w)

/-- A range of bits meets one of n elements of a size that start at a place and rise by a step. -/
def stepsMeet (first : Int) (step n size : Nat) (x : Int) (w : Nat) : Bool :=
  if n = 0 then false
  else if step = 0 then rangesMeet x w first size
  else
    let m := max 0 ((x - size - first) / step + 1)
    decide (m < n) && decide (first + m * step < x + w)

/-- A range of bits meets an element of an operand between two positions. -/
def operandMeets (s : State) (p : Fin 8) (t : Stream) (k lo hi : Nat) (x : Int) (w : Nat) : Bool :=
  let d := strmDesc t k
  if sdIdx d then
    (List.range (hi - lo)).any (fun j => match idxRead s p t k (lo + j) with
      | .ok ix => rangesMeet x w (sdFirst t d + 8 * ix * tySize (sdType d)) (sdBits d)
      | .error _ => false)
  else
    let c := sdStep d
    stepsMeet (sdFirst t d + (if 0 ≤ c then (lo : Int) else (hi : Int) - 1) * c) c.natAbs (hi - lo) (sdBits d) x w

/-- The positions of an operand that a stream may reach: a COMPRESS output and the input of EXPAND are packed from 0. -/
def sdFrom (t : Stream) (k : Nat) : Nat :=
  if (if k = 2 then decide (sdMode t.out.toNat = 2) else decide (k = 0) && (chainOf t).any isExpand) then 0 else t.start

/-- The output coincides exactly with an input: the same segment, base, stride and element type (R47), and the same
index stream. -/
def coincides (t : Stream) (k : Nat) : Bool :=
  let d := strmDesc t k
  let o := t.out.toNat
  (strmSeg t (sdSeg d) == strmSeg t (sdSeg o)) && (sdBase d == sdBase o) && (sdStride d == sdStride o) && (sdType d == sdType o)
    && (sdBitoff d == sdBitoff o) && (sdIdx d == sdIdx o)
    && (!sdIdx d || ((strmSeg t (sdIseg d) == strmSeg t (sdIseg o)) && (sdIbase d == sdIbase o) && (sdIsize d == sdIsize o)))

/-- An input that may overlap the output otherwise. -/
def mayMix (t : Stream) (k : Nat) : Bool := sdEn t.out.toNat && sdEn (strmDesc t k) && !coincides t k

/-- Bits of an input element overlap the output. -/
def inMixed (s : State) (p : Fin 8) (t : Stream) (k : Nat) (x : Int) : Bool :=
  mayMix t k && operandMeets s p t 2 (sdFrom t 2) t.n x (sdBits (strmDesc t k))

/-- Bits of an output element overlap an input. -/
def outMixed (s : State) (p : Fin 8) (t : Stream) (x : Int) : Bool :=
  [0, 1].any (fun k => mayMix t k && operandMeets s p t k (sdFrom t k) t.n x (sdBits t.out.toNat))

/-- A free value of some bytes, from a place in those of one count. -/
def freeValue (c at_ z : Nat) : Nat := natOf ((List.range z).map (fun b => Config.freeByte c (at_ + b)))

/-- The value of an input element that was read: undefined where it overlaps the output (R47). -/
def inValue (s : State) (p : Fin 8) (t : Stream) (k i : Nat) (x : Int) (z v : Nat) : Nat :=
  if inMixed s p t k x then freeValue s.free (8 * (2 * i + k)) z else v

/-- The count of free values moves on where a stream may have drawn some. -/
def drawn (s : State) : State := { s with free := s.free + 1 }

/-- An input at an element: its value and whether its own mask lets it through (R83, R88). An element that the mask
switches off reads no index; where the mask cannot be read, an index fault comes first. Log entry 21. -/
def input (s : State) (p : Fin 8) (t : Stream) (k i : Nat) : Except StrmFault (Nat × Bool) :=
  let d := strmDesc t k
  if !sdEn d then .ok (0, false)
  else
    match maskBit s p t k i with
    | .error f => (match idxRead s p t k i with | .error g => .error g | .ok _ => .error f)
    | .ok false => .ok (0, false)
    | .ok true =>
      match idxRead s p t k i with
      | .error f => .error f
      | .ok ix =>
        if k = 0 ∧ (chainOf t).any isExpand = true then .ok (0, true)
        else if sdType d = 11 then
          (match elBit s p t i (sdSeg d) (sdBase d) (sdBitoff d) (opData k) with
            | .ok v => .ok (inValue s p t k i (sdFirst t d + i) 1 (b2n v) % 2, true)
            | .error f => .error f)
        else
          match (if sdIdx d then (match idxOff t d i ix (opData k) with | .ok o => .ok ((o : Nat) : Int) | .error f => .error f)
            else .ok ((sdBase d : Int) + (i : Int) * sdStride d) : Except StrmFault Int) with
          | .error f => .error f
          | .ok off =>
            match elRead s p t i (sdSeg d) off (tySize (sdType d)) (opData k) with
            | .ok v => .ok (inValue s p t k i (8 * ((dBase (strmSeg t (sdSeg d)) : Int) + off)) (tySize (sdType d)) v, true)
            | .error f => .error f

/-- The GA of the output element at a position; every byte must be mapped (R81). -/
def outAddr (s : State) (p : Fin 8) (t : Stream) (i pos ix : Nat) : Except StrmFault Nat :=
  let d := t.out.toNat
  let b1 := decide (sdType d = 11)
  let z := if b1 then 1 else tySize (sdType d)
  match (if b1 then .ok (((sdBase d + (sdBitoff d + pos) / 8 : Nat)) : Int)
    else if sdIdx d then (match idxOff t d i ix (opData 2) with | .ok o => .ok ((o : Nat) : Int) | .error f => .error f)
    else .ok ((sdBase d : Int) + (pos : Int) * sdStride d) : Except StrmFault Int) with
  | .error f => .error f
  | .ok off =>
    let ga := (((dBase (strmSeg t (sdSeg d)) : Int) + off) % ((2 ^ 57 : Nat) : Int)).toNat
    match firstUnmapped s (.pipe p) ga z with
    | some g => .error (strmFault i 5 1 g (opData 2) 0)
    | none => .ok ga

/-! ## One element: the chain (R68, R70, R106 to R133) -/

/-- The value of a source at an element. -/
def srcVal (t : Stream) (r : StrmRec) (x : Nat) : Nat :=
  if x = 1 then r.a else if x = 2 then r.b else if x = 3 then r.i
  else if x < 16 then bits t.consts.toNat (64 * (x - 8)) 64
  else (r.vals.getD (x - 16) ⟨0, 0, false, false⟩).val

/-- A step's result without flags. -/
def sval (n : Nat) : StrmVal := ⟨n, 0, false, false⟩

/-- The WMASK step of a chain. -/
def wmaskStep (ch : List ChainStep) : Option Nat := ch.findIdx? (·.wmask)

/-- A result of the WMASK step that stands before step k masks the element off (R114). -/
def wmaskOff (ch : List ChainStep) (k : Nat) (r : StrmRec) : Bool :=
  match wmaskStep ch with
  | some w => decide (w < k) && decide ((r.vals.getD w ⟨1, 0, false, false⟩).val % 2 = 0)
  | none => false

/-- An accumulating step at an element: its result, the running values, and the value for an FRSUM tree (R114 to R119,
R126). -/
def accStep (s : State) (p : Fin 8) (t : Stream) (k : Nat) (x : ChainStep) (r : StrmRec) (a b : Nat) (c : StrmAcc) :
    Except StrmFault (StrmVal × StrmAcc × Option Nat) :=
  let tk := !wmaskOff (chainOf t) k r
  let ty := x.ty
  let res := accIn ty c.result
  let car := accIn ty c.carry
  if isExpand x then
    if tk && decide (b % 2 = 1) then
      let d := t.a.toNat
      match elRead s p t r.i (sdSeg d) ((sdBase d : Int) + (c.carry : Int) * sdStride d) (tySize (sdType d)) (opData 0) with
      | .ok v => .ok (sval (inValue s p t 0 r.i (sdFirst t d + c.carry * sdStep d) (tySize (sdType d)) v),
          { c with carry := c.carry + 1 }, none)
      | .error f => .error f
    else .ok (sval 0, c, none)
  else if x.unit = 3 then
    if !tk then .ok (sval 0, c, none)
    else if x.op = 0x20 then .ok (sval 0, c, some (a % 2 ^ tyW ty))
    else
      let v := fpMinMax (tyFmt ty) (decide (x.op = 0x22)) res a
      .ok (⟨v.val, v.fl, v.tiny, v.sub⟩, { c with result := v.val }, none)
  else if x.op = 0x40 ∨ x.op = 0x41 then
    let n := if tk then accOut ty (redOp 0 ty car a) else c.carry
    .ok (sval (if x.op = 0x40 then accIn ty n else car), { c with carry := n }, none)
  else if x.op < 0x38 then
    .ok (sval 0, if tk then { c with result := accOut ty (redOp (x.op % 8) ty res a) } else c, none)
  else
    let n := if tk then accOut ty (redOp (x.op % 8) ty car a) else c.carry
    .ok (sval (accIn ty n), { c with carry := if b % 2 = 1 then accOut ty (catIdent x.unit x.op ty) else n }, none)

/-- A step that is not a directory step, at an element: the element with the step's result, the running values, and the
value for an FRSUM tree. -/
def runStep (s : State) (p : Fin 8) (t : Stream) (k : Nat) (x : ChainStep) (r : StrmRec) (c : StrmAcc) :
    Except StrmFault (StrmRec × StrmAcc × Option Nat) :=
  let ch := chainOf t
  let decl := x.srcs.map (srcType t ch k)
  let tys := (operTypes x 0 decl).getD []
  let v := fun (j : Nat) => srcVal t r (x.srcs.getD j 8) % 2 ^ tyW (tys.getD j 7)
  let st := (decl.findSome? id).getD 7
  let rm := t.rm.toNat
  let put := fun (y : StrmVal) => { r with vals := r.vals ++ [y] }
  if isAccStep x then
    match accStep s p t k x r (v 0) (v 1) c with
    | .error f => .error f
    | .ok (y, c', l) => .ok ({ put y with taken := if wmaskOff ch k r then r.taken else k + 1 }, c', l)
  else if x.unit = 6 then
    let key := ((t.keys.find? (fun e => e.1 = bits x.imm 0 12)).map (·.2)).getD 0
    .ok (put (sval (kxor key.toNat (v 1) r.i (tySize x.ty) (v 0))), c, none)
  else
    let y := catOp x.unit x.op x.ty st x.imm rm (v 0) (v 1) (v 2)
    .ok (put ⟨y.val, y.fl, y.tiny, y.sub⟩, c, none)

/-- Runs steps in order; the FRSUM value of the last accumulating step, if any. -/
def runSteps (s : State) (p : Fin 8) (t : Stream) :
    List (ChainStep × Nat) → StrmRec → StrmAcc → Option Nat → Except StrmFault (StrmRec × StrmAcc × Option Nat)
  | [], r, c, l => .ok (r, c, l)
  | (x, k) :: xs, r, c, l =>
    match runStep s p t k x r c with
    | .error f => .error f
    | .ok (r', c', l') => runSteps s p t xs r' c' (l'.orElse (fun _ => l))

/-- The directory step of a chain, or its length. -/
def dirAt (ch : List ChainStep) : Nat := (ch.findIdx? isDirStep).getD ch.length

/-- A chain whose accumulating or directory step takes elements in whatever the output mask says (R90). -/
def chainHolds (ch : List ChainStep) : Bool := ch.any (fun x => isAccStep x || isDirStep x)

/-- Steps that a step's value rests on, itself among them. -/
def needs (ch : List ChainStep) : Nat → List Nat → List Nat
  | 0, ks => ks
  | n + 1, ks =>
    needs ch n (ks ++ (ks.flatMap (fun k => ((ch.map (·.srcs)).getD k []).filterMap (fun x => if 16 ≤ x then some (x - 16) else none))).filter
      (fun k => !ks.contains k) |>.eraseDups)

/-- An element whose input failed is masked off all the same: the WMASK step masks it off, needs no failed input, and no
accumulating or directory step takes the element in at or before it (R90). bad names the failed sources. -/
def excluded (s : State) (p : Fin 8) (t : Stream) (bad : List Nat) (r : StrmRec) (c : StrmAcc) : Bool :=
  let ch := chainOf t
  match wmaskStep ch with
  | none => false
  | some w =>
    if (ch.take (w + 1)).any (fun x => isAccStep x || isDirStep x) then false
    else if ((needs ch 8 [w]).flatMap (fun k => (ch.map (·.srcs)).getD k [])).any (fun x => bad.contains x) then false
    else
      match runSteps s p t (ch.zipIdx.take (w + 1)) r c none with
      | .ok (r', _, _) => decide ((r'.vals.getD w ⟨1, 0, false, false⟩).val % 2 = 0)
      | .error _ => false

/-- An element that the WMASK step masks off goes through the chain with its unread inputs as free values: only an end flag of a
segmented reduction still acts there, whose value the manual then leaves open (R90, R118). Log entry 131. -/
def unread (s : State) (t : Stream) (bad : List Nat) (r : StrmRec) : StrmRec :=
  let v := fun (k x : Nat) => if bad.contains (k + 1) then
    freeValue s.free (8 * (2 * r.i + k)) 8 % 2 ^ tyW (sdType (strmDesc t k)) else x
  { r with a := v 0 r.a, b := v 1 r.b }

/-- The element before the chain. -/
def StrmRec.fresh (i : Nat) (c : StrmAcc) : StrmRec :=
  { i := i, a := 0, b := 0, aOn := false, bOn := false, om := true, skip := false, vals := [], taken := 0, ga := none,
    late := none, dir := none, before := (c.result, c.carry) }

/-- The output's index, mask and address, settled before the directory step (R83, R155). -/
def settleOut (s : State) (p : Fin 8) (t : Stream) (r : StrmRec) (mf : Option StrmFault) : Except StrmFault StrmRec :=
  let d := t.out.toNat
  if !sdEn d || (!r.om && mf.isNone) then .ok r
  else
    match idxRead s p t 2 r.i with
    | .error f => .error f
    | .ok ix =>
      match mf with
      | some f => .error f
      | none =>
        if sdMode d = 2 then .ok r
        else match outAddr s p t r.i r.i ix with
          | .error f => .error f
          | .ok ga => .ok { r with ga := some ga }

/-- The first part of an element: inputs, the steps before the directory step, the output's address. -/
def elemPre (s : State) (p : Fin 8) (t : Stream) (i : Nat) (c : StrmAcc) :
    Except StrmFault (StrmRec × StrmAcc × Option Nat) :=
  let ch := chainOf t
  let k1 := dirAt ch
  let om := if sdEn t.out.toNat then maskBit s p t 2 i else .ok true
  let mf := match om with | .error f => some f | .ok _ => none
  let r0 := { StrmRec.fresh i c with om := match om with | .ok v => v | .error _ => true }
  if !r0.om && !chainHolds ch then .ok ({ r0 with skip := true }, c, none)
  else
    let ia := input s p t 0 i
    let ib := input s p t 1 i
    let bad := (match ia with | .error _ => [1] | .ok _ => []) ++ (match ib with | .error _ => [2] | .ok _ => [])
    let r1 := { r0 with a := (match ia with | .ok v => v.1 | .error _ => 0), aOn := (match ia with | .ok v => v.2 | .error _ => false),
                        b := (match ib with | .ok v => v.1 | .error _ => 0), bOn := (match ib with | .ok v => v.2 | .error _ => false) }
    match (match ia with | .error f => some f | .ok _ => (match ib with | .error f => some f | .ok _ => none)) with
    | some f => if excluded s p t bad r1 c then
        (match runSteps s p t (ch.zipIdx.take k1) { unread s t bad r1 with skip := true } c none with
          | .ok v => .ok v
          | .error g => .error g)
        else .error f
    | none =>
      match runSteps s p t (ch.zipIdx.take k1) r1 c none with
      | .error f => .error f
      | .ok (r2, c2, l) =>
        let r3 := match ch[k1]? with
          | none => r2
          | some x =>
            if wmaskOff ch k1 r2 then r2
            else if (x.srcs.contains 1 && !r2.aOn) || (x.srcs.contains 2 && !r2.bOn) then r2
            else
              let kt := tyW (getDir s (immHandle x.imm)).ktype.toNat
              { r2 with taken := k1 + 1, dir := some (srcVal t r2 x.s1 % 2 ^ kt, if x.s2 = 0 then 0 else srcVal t r2 x.s2) }
        let known := match wmaskStep ch with | some w => decide (w < k1) | none => true
        if known && wmaskOff ch k1 r3 then .ok (r3, c2, l)
        else
          match settleOut s p t r3 mf with
          | .ok r4 => .ok (r4, c2, l)
          | .error f => if known then .error f else .ok ({ r3 with late := some f }, c2, l)

/-- The write of an element at a GA. -/
def elWrite (t : Stream) (ga pos v : Nat) (strict : Bool) : StrmWrite :=
  let d := t.out.toNat
  if sdType d = 11 then ⟨ga, [BitVec.ofNat 8 (v % 2)], some ((sdBitoff d + pos) % 8), strict⟩
  else ⟨ga, bytesOf v (tySize (sdType d)), none, strict⟩

/-- Whether a step raises flags and fix-ups at an element (R90). -/
def stepActive (x : ChainStep) (k : Nat) (r : StrmRec) (wact : Bool) : Bool :=
  !r.skip && (!x.srcs.contains 1 || r.aOn) && (!x.srcs.contains 2 || r.bOn) && (decide (k < r.taken) || wact)

/-- The rest of an element: the directory step's result, the later steps, the write and the notes. Answers the stream
with the element added to its strip. With MODE = ZERO and STRIDE = 0, R66 and R88 disagree on an output whose last elements are
masked off; the model writes their zero. DESIGN CHOICE, log entry 130. -/
def elemPost (s : State) (p : Fin 8) (t : Stream) (r : StrmRec) : Except StrmFault Stream :=
  let ch := chainOf t
  let k1 := dirAt ch
  let d := t.out.toNat
  let bef := if r.skip ∧ r.vals.isEmpty then (t.cur.result, t.cur.carry)
    else if (ch.drop k1).any isAccStep then (t.cur.result, t.cur.carry) else r.before
  let done : Except StrmFault (StrmRec × StrmAcc × Option Nat) := if r.skip ∧ r.vals.isEmpty then .ok (r, t.cur, none) else
    match ch[k1]? with
    | none => .ok (r, t.cur, none)
    | some x =>
      let y := match t.dirRec.find? (fun z => z.i = r.i) with
        | some z => z.v
        | none => sval (if x.ty = 11 then 0 else (getDir s (immHandle x.imm)).miss.toNat)
      runSteps s p t (ch.zipIdx.drop (k1 + 1)) { r with vals := r.vals ++ [y] } t.cur none
  match done with
  | .error f => .error f
  | .ok (r2, c2, l) =>
    let wm := match wmaskStep ch with | some w => decide ((r2.vals.getD w ⟨0, 0, false, false⟩).val % 2 = 1) | none => true
    let wact := sdEn d && r2.om && !r2.skip && wm
    match (if wact then r2.late else none) with
    | some f => .error f
    | none =>
      let v := (r2.vals.getD (ch.length - 1) ⟨0, 0, false, false⟩).val
      let w : Except StrmFault (Option StrmWrite × Nat) :=
        if wact then
          (if sdMode d = 2 then
            (match outAddr s p t r2.i c2.wcount 0 with
              | .ok ga => .ok (some (elWrite t ga c2.wcount v true), c2.wcount + 1)
              | .error f => .error f)
           else (match r2.ga with
              | some ga => .ok (some (elWrite t ga r2.i v true), c2.wcount)
              | none => .ok (none, c2.wcount)))
        else if sdEn d && decide (sdMode d = 1) then
          (match outAddr s p t r2.i r2.i 0 with
            | .ok ga => .ok (some (elWrite t ga r2.i 0 false), c2.wcount)
            | .error _ => .ok (none, c2.wcount))
        else .ok (none, c2.wcount)
      match w with
      | .error f => .error f
      | .ok (wr, wc) =>
        let notes := (ch.zip r2.vals).zipIdx.filterMap (fun e =>
          if (e.1.2.fl ≠ 0 || e.1.2.tiny || e.1.2.sub) && stepActive e.1.1 e.2 r2 wact then
            some (⟨r2.i, e.2, e.1.2.fl, e.1.2.tiny, e.1.2.sub⟩ : StrmNote) else none)
        .ok { t with
          cur := { c2 with wcount := wc },
          els := t.els ++ [⟨r2.i, t.cur.wcount, bef.1, bef.2, wr⟩],
          notes := t.notes ++ notes,
          leaves := t.leaves ++ (match l with | some x => [(r2.i, x)] | none => []) }

/-! ## Waves (R70, R84, R85, R91) -/

/-- The running values before an element: those that the first element from it on found (R61, R91). -/
def accBefore (t : Stream) (i : Nat) : StrmAcc :=
  match t.els.find? (fun x => decide (i ≤ x.i)) with
  | some x => { t.cur with wcount := x.wcount, result := x.result, carry := x.carry }
  | none => match t.recs.find? (fun x => decide (i ≤ x.i)) with
    | some x => if ((chainOf t).drop (dirAt (chainOf t))).any isAccStep then t.cur
        else { t.cur with result := x.before.1, carry := x.before.2 }
    | none => t.cur

/-- A stream stops at a fault: elements before it stay, the running values are those before it (R91). -/
def strmStop (t : Stream) (f : StrmFault) : Stream :=
  { t with cur := accBefore t f.elem, els := t.els.filter (fun (x : StrmEl) => decide (x.i < f.elem)), recs := [], next := f.elem,
           fault := some f }

/-- The posts of the elements of a wave, in order. -/
def postAll (s : State) (p : Fin 8) : Stream → List StrmRec → Stream
  | t, [] => { t with recs := [] }
  | t, r :: rs =>
    match elemPost s p t r with
    | .error f => strmStop t f
    | .ok t' => postAll s p t' rs

/-- Elements i to i + n - 1 of a chain without a directory step, each run to its end. -/
def waveDirect (s : State) (p : Fin 8) : Nat → Nat → Stream → Stream
  | 0, _, t => t
  | n + 1, i, t =>
    match elemPre s p t i t.cur with
    | .error f => strmStop t f
    | .ok (r, c, l) =>
      match elemPost s p { t with cur := c, leaves := t.leaves ++ (match l with | some x => [(i, x)] | none => []) } r with
      | .error f => strmStop t f
      | .ok t' => waveDirect s p n (i + 1) { t' with next := i + 1 }

/-- Elements i to i + n - 1 of a chain with a directory step, up to that step. The fault of one waits for those before
it. -/
def wavePre (s : State) (p : Fin 8) : Nat → Nat → Stream → Stream
  | 0, _, t => t
  | n + 1, i, t =>
    match elemPre s p t i t.cur with
    | .error f => { t with fault := some f }
    | .ok (r, c, _) => wavePre s p n (i + 1) { t with cur := c, recs := t.recs ++ [r], next := i + 1 }

/-- The elements of a wave that wait for the engine. -/
def unserved (t : Stream) : List StrmRec :=
  t.recs.filter (fun r => r.dir.isSome && !t.dirRec.any (fun z => z.i == r.i))

/-- A wave whose directory operations have all retired goes on. -/
def waveFinish (s : State) (p : Fin 8) (t : Stream) : Stream :=
  if !(unserved t).isEmpty then t
  else
    let t1 := postAll s p { t with fault := none } t.recs
    match t1.fault with
    | some _ => t1
    | none => (match t.fault with | some f => strmStop t1 f | none => t1)

/-- The segments in which the operands of a stream lie. -/
def strmSegs (t : Stream) : List Nat :=
  [0, 1, 2].flatMap (fun k =>
    let d := strmDesc t k
    if sdEn d then [sdSeg d] ++ (if sdMsk d then [sdMseg d] else []) ++ (if sdIdx d then [sdIseg d] else []) else [])

/-- What a stream reads or writes lies in memory whose block holds, so its requests wait at the crossing (R482). -/
def strmWaits (s : State) (p : Fin 8) (t : Stream) : Bool :=
  s.pages.any (·.held) && (strmSegs t).any (fun n => kindWaits s (.pipe p) (dBase (strmSeg t n)))

/-- The ranges that an element of an input names beside the lines of a gather: its data, its mask byte and its index. -/
def elRanges (t : Stream) (k i : Nat) : List (Nat × Nat) :=
  let d := strmDesc t k
  if !sdEn d then []
  else
    (if sdIdx d then [(strmGa t (sdIseg d) (sdIbase d + i * sdIsize d : Nat), sdIsize d)]
      else if sdType d = 11 then [(strmGa t (sdSeg d) (sdBase d + (sdBitoff d + i) / 8 : Nat), 1)]
      else [(strmGa t (sdSeg d) ((sdBase d : Int) + (i : Int) * sdStride d), tySize (sdType d))])
    ++ (if sdMsk d then [(strmGa t (sdMseg d) (sdMbase d + (sdMbitoff d + i) / 8 : Nat), 1)] else [])

/-- The reads of a wave over n elements from an element on take their slots (R33): each sector once, and the new lines of a gather.
Log entry 28. -/
def waveSlots (s : State) (p : Fin 8) (old t : Stream) (i n : Nat) : State :=
  if t.be then s
  else
    let rs := (List.range n).flatMap (fun j => elRanges t 0 (i + j) ++ elRanges t 1 (i + j))
    useSlots s (.pipe p) t.ctx ((rs.flatMap (fun r => sectorsOf r.1 r.2)).eraseDups
      ++ (t.lines.drop old.lines.length).flatMap (fun l => sectorsOf l.line 64))

/-- The writes of a strip take their slots (R33). -/
def stripSlots (s : State) (p : Fin 8) (t : Stream) (l : List StrmEl) : State :=
  if t.be then s
  else useSlots s (.pipe p) t.ctx ((l.filterMap (·.write)).flatMap (fun w => sectorsOf w.ga w.bytes.length)).eraseDups

/-- Every key that the chain names stands in the KEY unit: a wipe has cleared none (R134). -/
def keysWhole (t : Stream) : Bool := t.keys.length == ((chainOf t).filter (fun y => y.unit = 6)).length

/-- A stream must stop at its next strip boundary: its job was cancelled, or a stream that comes before it waits for its partition
(R78, R79). -/
def mustStop (s : State) (p : Fin 8) (e : Fin 64) (t : Stream) : Bool := t.cancel || displaced s p e

/-- A stream may take a wave of its next strip: a strip that it has begun, its oldest uncommitted one, or one at most RA_STRIPS ahead of
that (R86); a stream that must stop begins none and reads none ahead. -/
def mayRead (s : State) (p : Fin 8) (e : Fin 64) (t : Stream) : Bool :=
  if mustStop s p e t then decide (t.next ≠ t.com) && decide (t.next / 512 = t.com / 512)
  else decide (t.next = t.com) || decide (t.next % 512 ≠ 0) || decide (t.next / 512 ≤ t.com / 512 + (s.pipes[p.val]).ra.toNat)

/-- The streams of a pipe that can take a wave now, in order. -/
def waveList (s : State) (p : Fin 8) : List (Fin 64 × Stream) :=
  (strmList s p isActive).filter (fun x =>
    let t := x.2
    t.fault.isNone && t.recs.isEmpty && decide (t.next < t.n) && mayRead s p x.1 t && keysWhole t && !strmWaits s p t)

/-- STREAM_WAVE: the first active stream in order starts a wave (R70, R78, R110). -/
def execStreamWave (w : WaveRead) (s0 : State) : Host.Outcome State Fault Refusal :=
  let p := w.p
  let s := w.found.foldl (fun a e => meetError a (.pipe p) e.1.toNat e.2) s0
  if !pipeWorks s0 p || (waveList s0 p).isEmpty then .next s0
  else
    match (waveList s p).head? with
    | none => .next s
    | some (e, t) =>
      let z := chainE s t
      let hi := min t.n ((t.next / z + 1) * z)
      let s1 := modPipe s p (fun x => { x with busy := x.busy + 1 })
      let t0 := readLines s p t t.next (hi - t.next)
      let t1 := if (chainOf t).any isDirStep then waveFinish s p (wavePre s p (hi - t.next) t.next t0)
        else waveDirect s p (hi - t.next) t.next t0
      .next (setStream (drawn (waveSlots s1 p t t0 t.next (hi - t.next))) p e (some t1))

/-! ## The strip commits (R85, R91, R210, R211) -/

/-- Performs the write of an element; the GA that failed, if any. -/
def strmPutEl (s : State) (p : Fin 8) (w : StrmWrite) : State × Option Nat :=
  match w.bitPos with
  | none => gaWrite s (.pipe p) w.ga w.bytes
  | some b =>
    let old := (gaByte s w.ga).toNat
    let new := old - 2 ^ b * bits old b 1 + 2 ^ b * ((w.bytes.headD 0).toNat % 2)
    gaWrite s (.pipe p) w.ga [BitVec.ofNat 8 new]

/-- The writes of a strip replace a byte whole. -/
def byteCovered (ws : List StrmWrite) (ga : Nat) : Bool :=
  ws.any (fun w => w.bitPos.isNone && decide (w.ga ≤ ga) && decide (ga < w.ga + w.bytes.length))
    || (List.range 8).all (fun b => ws.any (fun w => w.bitPos == some b && w.ga == ga))

/-- The store port writes a unit that the writes of a strip cover as a whole, which clears its poison (R52, R85): when the first of
them comes, the poison of its unit goes. A scatter writes its elements one by one. Log entry 82. -/
def clearWhole (s : State) (p : Fin 8) (ga : Nat) (ws : List StrmWrite) : State :=
  match place s (.pipe p) ga with
  | none => s
  | some q =>
    let u := ga - q.key % unitSize q.region
    if !poisoned s q || errorAt s q then s
    else if (List.range (unitSize q.region)).all (fun b => byteCovered ws (u + b)) then freshUnit s q else s

/-- Performs the writes of a strip in ascending order, up to a failure at an active element; a request that was answered with an error
is a failure. -/
def putEls (s : State) (p : Fin 8) (t : Stream) : List StrmEl → State × Option StrmFault
  | [] => (s, none)
  | x :: xs =>
    match x.write with
    | none => putEls s p t xs
    | some w =>
      let s1 := if sdIdx t.out.toNat then s else clearWhole s p w.ga (w :: xs.filterMap (·.write))
      let r := match lostAt t w.ga w.bytes.length with | some g => (s, some g) | none => strmPutEl s1 p w
      match r.2 with
      | some g => if w.strict then (r.1, some (strmFault x.i 0x0D 0 g (opData 2) 0)) else putEls r.1 p t xs
      | none => putEls r.1 p t xs

/-- The elements of a strip below a cut with the values that their writes leave: undefined where an element overlaps an input (R47). -/
def settledEls (s : State) (p : Fin 8) (t : Stream) (cut : Nat) : List StrmEl :=
  (t.els.filter (fun x => decide (x.i < cut))).map (fun x => match x.write with
    | none => x
    | some w =>
      if outMixed s p t (8 * (w.ga : Int) + w.bitPos.getD 0) then
        { x with write := some { w with bytes := (List.range w.bytes.length).map (fun b => Config.freeByte s.free (8 * x.i + b)) } }
      else x)

/-- The FRSUM tree of a strip over the elements below a cut (R117). -/
def stripTree (t : Stream) (cut : Nat) : Stream :=
  match (chainOf t).findIdx? (fun x => x.unit = 3 && x.op = 0x20) with
  | none => t
  | some k =>
    let ty := ((chainOf t).map (·.ty)).getD k 10
    let xs := t.leaves.filter (fun l => decide (l.1 < cut))
    if xs.isEmpty then t
    else
      let f := tyFmt ty
      let leaf := (List.range 512).map (fun q => (xs.find? (fun l => l.1 % 512 = q)).map (fun l => (l.2, l.1)))
      let tr := treeSum f t.rm.toNat 9 leaf 0 []
      let node := tr.1.getD (0, 0)
      let r := fpAdd f t.rm.toNat (accIn ty t.saved.result) node.1
      let ns := tr.2.2.map (fun e => (⟨e.1, k, 0, e.2.1, e.2.2⟩ : StrmNote))
      { t with cur := { t.cur with result := r.val },
               notes := t.notes ++ ns ++ [⟨node.2, k, tr.2.1 ||| r.fl, r.tiny, r.sub⟩] }

/-- The fix-up entry of an element from its notes (R210). -/
def strmFixEntry (ns : List StrmNote) (i : Nat) : Word :=
  let mine := ns.filter (fun n => n.i = i && (n.tiny || n.sub))
  let steps := mine.foldl (fun (m : Nat) n => m ||| 2 ^ n.step) 0
  BitVec.ofNat 64 (i + 2 ^ 48 * steps + 2 ^ 56 * b2n (mine.any (·.sub)) + 2 ^ 57 * b2n (mine.any (·.tiny)))

/-- The flags and fix-up entries of a strip's elements below a cut (R61, R211). -/
def stripNotes (t : Stream) (cut : Nat) : Stream :=
  let ns := t.notes.filter (fun n => decide (n.i < cut))
  let fl := ns.foldl (fun (m : Nat) n => m ||| n.fl) t.cur.flags.toNat
  let is := if t.subn || t.ct then [] else
    (List.range 512).filterMap (fun q =>
      let i := t.com / 512 * 512 + q
      if ns.any (fun n => n.i = i && (n.tiny || n.sub)) then some i else none)
  let room := 64 - t.cur.fixn
  { t with cur := { t.cur with
      flags := BitVec.ofNat 6 fl, fixn := t.cur.fixn + min room is.length,
      fixovf := t.cur.fixovf || decide (room < is.length),
      fix := t.cur.fix ++ (is.take room).map (strmFixEntry ns) } }

/-- Where the oldest uncommitted strip of a stream ends: its last element, the stream's, or a fault. -/
def stripCut (t : Stream) : Nat :=
  let c := min t.n ((t.com / 512 + 1) * 512)
  match t.fault with | some f => min c f.elem | none => c

/-- A stream whose oldest strip commits up to a cut; what it has read ahead stays (R86). A stream of a cancelled job that meets a fault
before its strip boundary ends with that fault: R79 states FSTAT.CODE = 0 of a stream that stops at the boundary. DESIGN CHOICE, log
entry 130. -/
def closeStrip (t : Stream) (cut : Nat) (be : Bool) : Stream :=
  let t1 := stripNotes (stripTree t cut) cut
  let isSum := (chainOf t).any (fun x => x.unit = 3 && x.op = 0x20)
  let b := accBefore t cut
  { t1 with com := cut, next := max cut t.next,
            saved := { t1.cur with wcount := b.wcount, result := if isSum then t1.cur.result else b.result, carry := b.carry },
            els := t.els.filter (fun x => decide (cut ≤ x.i)), recs := t.recs.filter (fun x => decide (cut ≤ x.i)),
            notes := t.notes.filter (fun x => decide (cut ≤ x.i)), leaves := t.leaves.filter (fun x => decide (cut ≤ x.1)),
            lines := t.lines.filter (fun l => decide (cut / 512 ≤ l.strip)), be := be,
            dirRec := t1.dirRec.filter (fun z => decide (cut ≤ z.i)),
            phase := if t.fault.any (fun f => f.elem == cut) || decide (cut = t1.n) then .ended else t1.phase }

/-- The oldest uncommitted strip has been worked through, to its end, the end of the stream, or a fault. -/
def stripDone (t : Stream) : Bool :=
  let cut := stripCut t
  isActive t && t.recs.all (fun r => decide (cut ≤ r.i)) && decide (cut ≤ t.next) && (decide (t.com < cut) || t.fault.isSome)

/-- Whether a stream's directory step changes its directory, and which directory that is. -/
def strmUpdates (t : Stream) : Option Nat :=
  match (chainOf t).find? isDirStep with
  | some x => if dirUpdates x.op then some (immHandle x.imm) else none
  | none => none

/-- A stream goes back to its first uncommitted strip, and what it has read ahead is discarded (R78, R92, R157). -/
def rewindStrm (t : Stream) : Stream :=
  { t with next := t.com, cur := t.saved, recs := [], els := [], notes := [], leaves := [], lines := [], fault := none }

/-- STRIP_COMMIT: the strip's writes become visible in element order; a write that fails stops the stream there, and makes
the directory that it updates SUSPECT (R85, R91, R155). The streams of a job that overran go on as best-effort (R74). A stream that must
stop discards what it has read ahead (R78, R79). -/
def execStripCommit (p : Fin 8) (e : Fin 64) (s : State) : Host.Outcome State Fault Refusal :=
  match getStream s p e with
  | none => .next s
  | some t =>
    if !stripDone t || strmWaits s p t then .next s
    else
      let cut := stripCut t
      let l := settledEls s p t cut
      let r := putEls (stripSlots (drawn s) p t l) p t l
      let be := t.be || t.demoted
      match r.2 with
      | none =>
        let u := closeStrip t cut be
        .next (setStream r.1 p e (some (if u.phase ≠ .ended ∧ mustStop s p e t = true then rewindStrm u else u)))
      | some f =>
        let t1 := strmStop t f
        let s1 := match strmUpdates t with | some h => suspect r.1 h 1 | none => r.1
        .next (setStream s1 p e (some (closeStrip t1 f.elem be)))

/-! ## The directory engine (R153, R155 to R157) -/

/-- The result of one element of a group. -/
def dirValue (w : DirWave) (i : Nat) (first : Bool) : DirRes :=
  let v := ((w.res.find? (fun e => e.1 = i)).map (·.2)).getD 0
  let fx := w.fix.filter (fun e => e.1 = i)
  ⟨i, ⟨v, if first then w.fl else 0, fx.any (·.2.1), fx.any (·.2.2)⟩⟩

/-- The elements that retire together: the whole wave for an FSUM of DAGG, one otherwise (R156). -/
def dirTurn (t : Stream) (x : ChainStep) : List StrmRec :=
  if x.op = 0x12 ∧ (immVar x.imm = 4 ∨ immVar x.imm = 5) then unserved t else (unserved t).take 1

/-- The directory step of a stream, applied to the elements of a list. -/
def dirServe (s : State) (t : Stream) (x : ChainStep) (turn : List StrmRec) : DirWave :=
  let dh := immHandle x.imm
  let es := turn.map (fun r => (⟨r.i, (r.dir.getD (0, 0)).1, (r.dir.getD (0, 0)).2⟩ : DirEl))
  let sg := decide (srcType t (chainOf t) (dirAt (chainOf t)) x.s2 = some 3)
  if dirServed s then dirGroup s dh x.op (immVar x.imm) t.depth t.rm.toNat sg es
  else ⟨if dirUpdates x.op then suspect s dh 4 else s, [], 0, [], (es.head?).map (fun d => (d.i, 0x0D, 0))⟩

/-- The stream with the results of a wave's operations. -/
def dirNote (t : Stream) (turn : List StrmRec) (w : DirWave) : Stream :=
  let ok := turn.filter (fun r => match w.bad with | some f => decide (r.i < f.1) | none => true)
  { t with dirRec := t.dirRec ++ ok.zipIdx.map (fun r => dirValue w r.1.i (decide (r.2 = 0))) }

/-- The fault that an element meets after the directory step: a later read, or its output's index, mask or address. The engine
receives no element with one (R155), so it is looked for with the result that the operation would have. -/
def laterFault (s : State) (p : Fin 8) (t : Stream) (i : Nat) : Option StrmFault :=
  (postAll s p { t with fault := none } (t.recs.filter (fun r => decide (r.i ≤ i)))).fault

/-- The elements of a list, in order, that the engine may receive, and the fault at the first that it may not. -/
def dirCut (s : State) (p : Fin 8) (t : Stream) (x : ChainStep) : List StrmRec → List StrmRec → List StrmRec × Option StrmFault
  | done, [] => (done, none)
  | done, r :: rs =>
    let w := dirServe s t x (done ++ [r])
    match (if w.bad.isSome then none else laterFault w.st p (dirNote t (done ++ [r]) w) r.i) with
    | some f => (done, some f)
    | none => dirCut s p t x (done ++ [r]) rs

/-- A stream stops at an element whose operation has no effect: what the chain accumulated before the directory step goes back to
the state before that element. -/
def dirStop (t : Stream) (f : StrmFault) : Stream :=
  let t1 := { t with recs := t.recs.filter (fun r => decide (r.i < f.elem)), fault := some f }
  match t.recs.find? (fun r => decide (r.i = f.elem)) with
  | some r => if ((chainOf t).drop (dirAt (chainOf t))).any isAccStep then t1
      else { t1 with cur := { t1.cur with result := r.before.1, carry := r.before.2 } }
  | none => t1

/-- DIR_OP_RETIRE: the next operation of the first stream in order that waits for the engine retires (R153, R155); one that a reset of
DR answered with an error (R159), or whose request was (R16), stops its stream. -/
def execDirOpRetire (p : Fin 8) (s : State) : Host.Outcome State Fault Refusal :=
  match (if (hdr s .dir).held || lmWaits s then none else ((strmList s p isActive).filter (fun x => !(unserved x.2).isEmpty && keysWhole x.2)).head?) with
  | none => .next s
  | some (e, t) =>
    match (chainOf t).find? isDirStep, t.drLost || t.lost.any inDirs, unserved t with
    | none, _, _ => .next s
    | some _, true, r :: _ =>
      .next (setStream (drawn s) p e (some (waveFinish s p (dirStop t (strmFault r.i 0x0D 0 0 10 (dirAt (chainOf t)))))))
    | some x, _, _ =>
      let cut := dirCut s p t x [] (dirTurn t x)
      let w : DirWave := if cut.1.isEmpty then ⟨s, [], 0, [], none⟩ else dirServe s t x cut.1
      let ok := cut.1.filter (fun r => match w.bad with | some f => decide (r.i < f.1) | none => true)
      let hit : Option (Fin 1024) := if dirUpdates x.op && !ok.isEmpty then
          some ⟨immHandle x.imm % 1024, Nat.mod_lt _ (by decide)⟩ else t.updated
      let t1 := { dirNote t cut.1 w with updated := hit }
      let t2 := match w.bad, cut.2 with
        | some f, _ => dirStop t1 (strmFault f.1 f.2.1 0 f.2.2 10 (dirAt (chainOf t)))
        | none, some f => dirStop t1 f
        | none, none => t1
      .next (setStream (drawn w.st) p e (some (waveFinish w.st p t2)))

/-! ## The end of a stream (R60, R61, R75, R79, R91, R503) -/

/-- FSTAT of an ending stream (R61). -/
def strmFstat (t : Stream) (f : Option StrmFault) : Nat :=
  (match f with | some x => x.code.toNat + 2 ^ 8 * x.sub.toNat | none => 0)
    + 2 ^ 16 * t.saved.fixn + 2 ^ 23 * b2n t.saved.fixovf + 2 ^ 24 * t.saved.flags.toNat

/-- WCOUNT at the end: the packed count of a COMPRESS output, START otherwise (R61); a block that could not be read keeps
its own (R502). -/
def strmWcount (t : Stream) : Nat :=
  if !t.charged && (match t.fault with | some f => decide (f.code = 0x0D) | none => false) then t.saved.wcount
  else if sdEn t.out.toNat && decide (sdMode t.out.toNat = 2) then t.saved.wcount else t.com

/-- The 64 bytes of the status area (R61). -/
def statusBytes (t : Stream) (f : Option StrmFault) : List Byte :=
  [t.com, strmWcount t, t.saved.result, t.saved.carry, strmFstat t f,
    (match f with | some x => x.faddr.toNat | none => 0),
    (match f with | some x => x.opnd.toNat + 2 ^ 8 * x.step.toNat | none => 0), 0].flatMap (fun n => bytesOf n 8)

/-- Bytes that the manual leaves undefined, from a count of free values (R503). -/
def freeBytes (k n : Nat) : List Byte := (List.range n).map (fun i => Config.freeByte k i)

/-- A stream leaves its table, and its ticket is complete (R60, R75, R76). -/
def strmNotice (s : State) (p : Fin 8) (e : Fin 64) (t : Stream) (f : Option StrmFault) : State :=
  let s1 := setStream s p e none
  let s2 := modPipe s1 p (fun x => { x with strmCnt := satInc x.strmCnt, sfaultCnt := if f.isSome then satInc x.sfaultCnt else x.sfaultCnt })
  let s3 := modCtx s2 t.ctx (fun x => if x.st = .free then x else
    { x with tickets := vmod x.tickets t.slot (fun k =>
        { k with done := true, wcount := BitVec.ofNat 41 (strmWcount t), fstat := BitVec.ofNat 64 (strmFstat t f),
                 faddr := match f with | some y => y.faddr | none => 0 }) })
  let x := getCtx s3 t.ctx
  let s4 := if x.wslot = t.slot then wakeOn (askCredit s3 t.ctx) t.ctx 1 else askCredit s3 t.ctx
  if x.tickets.any (fun k => k.out && !k.done) then s4 else wakeOn s4 t.ctx 2

/-- The status area and the recorded fix-up entries are written, and the notice follows (R60, R502, R503). -/
def endStrm (s : State) (p : Fin 8) (e : Fin 64) (t : Stream) : State :=
  let s0 := if t.charged && decide (t.com < t.n) then creditStrm s t t.com else s
  let w0 := gaWrite s0 (.pipe p) (t.blk + 0x100) (statusBytes t t.fault)
  let w1 := (w0.1, w0.2.orElse (fun _ => lostAt t (t.blk + 0x100) 576))
  let w2 := gaWrite w1.1 (.pipe p) (t.blk + 0x140 + 8 * (t.saved.fixn - t.saved.fix.length)) (t.saved.fix.flatMap (fun x => bytesOf x.toNat 8))
  match w1.2.orElse (fun _ => w2.2) with
  | none =>
    let s1 := match t.fault with
      | some f => if f.code ≠ 0x0D then w2.1
          else if f.faddr ≠ 0 then voidMem w2.1 (.pipe p) t.ctx f.faddr.toNat else voidJob w2.1 t.ctx 0x0602
      | none => w2.1
    strmNotice s1 p e t t.fault
  | some g =>
    let s1 : State := { w2.1 with free := w2.1.free + 1 }
    let s2 := (gaWrite s1 (.pipe p) (t.blk + 0x100) (freeBytes s1.free 576)).1
    strmNotice (voidMem s2 (.pipe p) t.ctx g) p e t (some (strmFault t.com 0x0D 0 (t.blk + 0x100) 0 0))

/-- A stream whose end is due: it has ended, or its job was cancelled and it stands at a strip boundary (R79). -/
def endDue (t : Stream) : Bool :=
  match t.phase with
  | .ended => true
  | .ready | .active _ => t.cancel && atBoundary t
  | _ => false

/-- STREAM_END: the status write and the ticket notice (R60). -/
def execStreamEnd (p : Fin 8) (e : Fin 64) (s : State) : Host.Outcome State Fault Refusal :=
  match getStream s p e with
  | some t => if endDue t && islandUp s (islPP p) && !waits s (.pipe p) (t.blk + 0x100) 576 then .next (endStrm s p e t) else .next s
  | none => .next s

/-! ## Lanes and resets (R92) -/

/-- Changes every stream of a pipe. -/
def mapStrm (s : State) (p : Fin 8) (f : Stream → Stream) : State :=
  modPipe s p (fun x => { x with table := x.table.map (fun e => e.map f) })

/-- A stream that has not ended stops with a fault at its first uncommitted strip; the job's guarantee is void, and the
directory it updated becomes SUSPECT (R92, R157). -/
def abortStrm (s : State) (p : Fin 8) (e : Fin 64) (code sub cause sus : Nat) (opnd step : Nat) : State :=
  match getStream s p e with
  | none => s
  | some t =>
    let t1 := rewindStrm t
    let s1 := setStream s p e (some { t1 with phase := .ended, dirRec := [], fault := some (strmFault t1.com code sub 0 opnd step) })
    let s2 := voidJob s1 t.ctx cause
    match t.updated with
    | some h => suspect s2 h.val sus
    | none => s2

/-- The register-form operations in flight on a pipe that no spare serves write no result: each raises Memory Uncorrectable at element
VSTART, and the job's guarantee is void (R421, R101). Later bundles have issued, so the fault is a deferred one; the manual gives it
no address, and FADDR is 0. DESIGN CHOICE, log entry 142. -/
def abortFops (s : State) (p : Fin 8) : State :=
  (List.finRange 16).foldl (fun a q =>
    if pipeOf q = p then
      let x := a.seqs[q.val]
      let cs := x.fq.filterMap (fun o => (x.banks[o.bank.val]).occ)
      let a1 := cs.foldl (fun y c => voidJob (deferAt y c 0) c 0x0403)
        (modSeq a q (fun y => { y with fq := [] }))
      settleLoads a1 q
    else a) s

/-- A lane's work moves to a free spare, or the active streams end, and the register-form operations in flight fail (R92, R421). An
operation in flight writes its results when it completes, so on a spare it executes anew with nothing to take back. -/
def repairLane (s : State) (p : Fin 8) (lane : BitVec 6) : State :=
  let s1 := mapStrm s p (fun t => if isActive t then rewindStrm t else t)
  let x := s1.pipes[p.val]
  let src := (islPP p).val
  let sp : Spare := { lane := lane, used := true, fail := false }
  if !x.sp0.used && !x.sp0.fail then
    offer (bumpEpoch (modPipe s1 p (fun y => { y with sp0 := sp }))) 0x0402 sevNotice src p.val lane.toNat 0
  else if !x.sp1.used && !x.sp1.fail then
    offer (bumpEpoch (modPipe s1 p (fun y => { y with sp1 := sp }))) 0x0402 sevNotice src p.val lane.toNat 1
  else
    let s2 := offer s1 0x0403 sevFault src p.val lane.toNat 0
    let s3 := (List.finRange 64).foldl (fun a e => match getStream a p e with
      | some t => if isActive t then abortStrm a p e 0x0D 0 0x0403 3 0 0 else a
      | none => a) s2
    abortFops s3 p

/-- PIPE_LANE_FAIL: lane 0 to 63, or spare 64 or 65, fails its self-check (R92). -/
def execPipeLaneFail (p : Fin 8) (lane : Fin 66) (s : State) : Host.Outcome State Fault Refusal :=
  let x := s.pipes[p.val]
  if !islandUp s (islPP p) then .next s
  else if lane.val < 64 then
    let s1 := modPipe s p (fun y => { y with laneFail := y.laneFail ||| BitVec.ofNat 64 (2 ^ lane.val) })
    if x.laneFail.getLsbD lane.val then .next s1
    else .next (repairLane s1 p (BitVec.ofNat 6 lane.val))
  else
    let sp := if lane.val = 64 then x.sp0 else x.sp1
    let sp' : Spare := { sp with fail := true, used := false }
    let s1 := modPipe s p (fun y => if lane.val = 64 then { y with sp0 := sp' } else { y with sp1 := sp' })
    if sp.used then .next (repairLane s1 p sp.lane) else .next s1

/-- The entries of a pipe's table whose stream has not ended (R92, R159); a block that could not be read keeps its fault (R502). -/
def abortAll (s : State) (p : Fin 8) (code sub cause sus : Nat) : State :=
  (List.finRange 64).foldl (fun a e => match getStream a p e with
    | none => a
    | some t =>
      match t.phase with
      | .ended => a
      | .held => setStream a p e none
      | .issued => if t.bad.isSome then startStrm a p e t else abortStrm a p e code sub cause sus 0 0
      | _ => abortStrm a p e code sub cause sus 0 0) s

/-- Streams of a pipe that a reset aborts. -/
def abortCount (s : State) (p : Fin 8) : Nat :=
  (s.pipes[p.val].table.toList.filter (fun e => match e with
    | some t => decide (t.phase ≠ .ended) && decide (t.phase ≠ .held)
    | none => false)).length

/-- A pipe reset (R92, R456): every stream that has not ended ends with ABORTED, the lanes' state is cleared. -/
def resetPipe (s : State) (p : Fin 8) : State :=
  let n := abortCount s p
  let s1 := abortAll s p 5 0x0B 0x0404 3
  let s2 := modPipe s1 p (fun x => { x with laneFail := 0, sp0 := .reset, sp1 := .reset })
  offer s2 0x0404 sevFault (islPP p).val p.val n 0

end Sys2Proof.Machine
end

