-- ==== Sys2Proof/Machine/Scheduling.lean ====
section
/-! DEFINITION. The context scheduler: slots, demotion, overrun, slices, placement, transfers, switches, interrupts and
the sequencer's limits (R166, R178, R179, R293, R298 to R319, R342, R394). -/

namespace Sys2Proof.Machine

/-! ## Slots, meters and demotion -/

/-- The AS island runs. -/
def asUp (s : State) : Bool := islandUp s islAS

/-- ADMISSION_SLOT_ADVANCE: the slot clock moves on (R166). -/
def execAdmissionSlotAdvance (s : State) : Host.Outcome State Fault Refusal :=
  if asUp s then .next { s with dau := { s.dau with slot := s.dau.slot + 1 } } else .next s

/-- A guaranteed context whose deadline is the current slot and which is not ENDING (R317). -/
def deadlineDue (s : State) : List Nat :=
  jobsOf s (fun x => !x.be && decide (x.dlslot = s.dau.slot))

/-- DEADLINE_DEMOTION: every guaranteed context whose deadline has come is demoted (R317); the guarantee is void for one
that was running when the guarantee floor was crossed (R167). -/
def execDeadlineDemotion (s : State) : Host.Outcome State Fault Refusal :=
  if !asUp s then .next s
  else
    .next ((deadlineDue s).foldl (fun a c =>
      let a0 := if (getCtx a c).floor then voidJob a c 0x0104 else a
      let a1 := modCtx (demote a0 c) c (fun x => { x with late := true })
      { a1 with csc := { a1.csc with demotes := satInc a1.csc.demotes } }) s)

/-- A directory that the job names is CREATING (R139, R318). -/
def dirsCreating (s : State) (x : Ctx) : Bool := x.dirs.any (fun h => decide ((getDir s h.val).st = .creating))

/-- RELEASE_SLOT_REACHED: READY, or a wait for its directories, in the slot that the release slot names (R318). The release slot lies
1 to 2^20 − 1 slots ahead at acceptance, so the slot clock names it once. -/
def execReleaseSlotReached (c : Fin 4194304) (s : State) : Host.Outcome State Fault Refusal :=
  let x := getCtx s c.val
  if asUp s = true ∧ x.st = .wait ∧ x.waiton = 5 ∧ x.dying = false ∧ s.dau.slot = x.relslot then
    .next (if dirsCreating s x then makeWait s c.val 4 else makeReady s c.val)
  else .next s

/-- METER_REPORT: the CSC reports the use of a resident context (R178). -/
def execMeterReport (c : Fin 4194304) (s : State) : Host.Outcome State Fault Refusal :=
  if asUp s && (getCtx s c.val).res then .next (askCredit s c.val) else .next s

/-- DAU_DEMAND_CREDIT: the oldest credit is applied (R178). -/
def execDauDemandCredit (s : State) : Host.Outcome State Fault Refusal :=
  match s.dau.credits with
  | [] => .next s
  | c :: cs => .next (reportUse { s with dau := { s.dau with credits := cs } } c)

/-- The lowest class in which a job's use exceeds its budget (R179). -/
def overrunClass (x : Ctx) : Option (Fin 11) :=
  if metered x && !x.ovr then (List.finRange 11).find? (fun k => decide (x.budget[k.val].toNat < useUnits x k)) else none

/-- BUDGET_OVERRUN: the first overrun demotes the job and makes Budget Overrun pending (R179). -/
def execBudgetOverrun (c : Fin 4194304) (s : State) : Host.Outcome State Fault Refusal :=
  let x := getCtx s c.val
  match (if x.st = .ending then none else overrunClass x) with
  | none => .next s
  | some k =>
    let s1 := demoteStrms (demote s c.val) c.val
    let s2 := modCtx s1 c.val (fun y => { y with ovr := true, bopend := true, ovrClass := BitVec.ofNat 4 k.val })
    .next { s2 with dau := { s2.dau with ovr := satInc s2.dau.ovr } }

/-! ## Affinity, banks and victims (R314, R315) -/

/-- A sequencer that can take a context: neither LOCKED nor in reset, its island up and its page enabled. -/
def seqUsable (s : State) (q : Fin 16) : Bool :=
  islandUp s (islSQ q) && decide ((s.seqs[q.val]).st ≠ 2) && decide ((s.seqs[q.val]).st ≠ 3) && (hdr s (.seq q)).en
    && !(hdr s (.seq q)).held

/-- The affinity of a context admits a sequencer. -/
def affAdmits (x : Ctx) (q : Fin 16) : Bool :=
  match x.aff.toNat with
  | 1 => decide (x.affseq = q)
  | 2 => decide (x.affseq.val / 2 = q.val / 2)
  | _ => true

/-- The affinity of a context, which is 0 where every sequencer it admits is LOCKED or in reset (R315). -/
def affTo (s : State) (x : Ctx) (q : Fin 16) : Bool :=
  affAdmits x q || (List.finRange 16).all (fun p => !affAdmits x p || decide ((s.seqs[p.val]).st = 2) || decide ((s.seqs[p.val]).st = 3))

/-- The sequencers that a context may be placed on now. -/
def admitted (s : State) (x : Ctx) : List (Fin 16) := (List.finRange 16).filter (fun q => seqUsable s q && affTo s x q)

/-- A bank that takes part in its sequencer's transfer. -/
def inTransfer (x : Seq) (b : Fin 8) : Bool := match x.xfer with | some t => decide (t.bank = b) | none => false

/-- The lowest free bank of a sequencer. -/
def freeBankOf (x : Seq) : Option (Fin 8) :=
  (List.finRange 8).find? (fun b => (x.banks[b.val]).occ.isNone && !inTransfer x b)

/-- How good a victim an occupant is for an incoming context, lower first; none where it is not permitted. -/
def victimKey (s : State) (c v : Nat) : Option (Nat × Nat) :=
  let x := getCtx s c
  let y := getCtx s v
  if y.dying ∨ y.st = .run ∨ y.st = .ending ∨ y.st = .free then none
  else if y.be then
    if y.st = .wait then some (0, 0)
    else if !x.be || decide (s.csc.fifo.idxOf c < s.csc.fifo.idxOf v) then some (1, s.csc.fifo.length - s.csc.fifo.idxOf v)
    else none
  else if x.be then none
  else if distance s x.dlslot < distance s y.dlslot then some (2, 1048576 - distance s y.dlslot)
  else none

/-- The better of two victims; the first stands for a lower sequencer and bank. -/
def betterVictim (a b : (Nat × Nat) × Fin 16 × Fin 8) : (Nat × Nat) × Fin 16 × Fin 8 :=
  if b.1.1 < a.1.1 ∨ (b.1.1 = a.1.1 ∧ b.1.2 < a.1.2) then b else a

/-- The victims that a context may evict, by sequencer and bank. -/
def victims (s : State) (c : Nat) : List ((Nat × Nat) × Fin 16 × Fin 8) :=
  (admitted s (getCtx s c)).flatMap (fun q => (List.finRange 8).filterMap (fun b =>
    let x := s.seqs[q.val]
    match (x.banks[b.val]).occ with
    | some v => if inTransfer x b then none else (victimKey s c v).map (fun k => (k, q, b))
    | none => none))

/-- Where a context is placed (R314): the sequencer, its bank, and the context that the transfer evicts. -/
def placement (s : State) (c : Nat) : Option (Fin 16 × Fin 8 × Option Nat) :=
  let qs := admitted s (getCtx s c)
  let free := qs.filter (fun q => (freeBankOf s.seqs[q.val]).isSome)
  match (free.find? (fun q => (s.seqs[q.val]).run.isNone)).orElse (fun _ => free.head?) with
  | some q => (freeBankOf s.seqs[q.val]).map (fun b => (q, b, none))
  | none =>
    match victims s c with
    | [] => none
    | v :: vs =>
      let w := vs.foldl betterVictim v
      some (w.2.1, w.2.2, ((s.seqs[w.2.1.val]).banks[w.2.2.val]).occ)

/-- The save areas that a context needs (R305). -/
def saveNeed (x : Ctx) : Nat := if x.novec then 1 else 10

/-- A context that the CSC can place now: READY, not resident, in no transfer, its areas reserved or reservable. -/
def placeable (s : State) (c : Nat) : Bool :=
  let x := getCtx s c
  decide (x.st = .ready) && !x.res && !x.dying && !inXfer s c
    && (decide (x.need ≠ 0) || decide (s.csc.poolRsv + saveNeed x ≤ 524288))
    && (match placement s c with | some w => (s.seqs[w.1.val]).xfer.isNone | none => false)

/-- The CSC chooses a context over a metered one that has a later deadline: the other is preempted (R309). -/
def preempts (s : State) (c r : Nat) : Bool :=
  !(getCtx s c).be && metered (getCtx s r) && decide (distance s (getCtx s c).dlslot < distance s (getCtx s r).dlslot)

/-- The CSC page lets the scheduler act. -/
def cscRuns (s : State) : Bool := asUp s && (hdr s .csc).en && !(hdr s .csc).held

/-- CSC_PLACEMENT: the first placeable context in scheduling order starts its transfer (R305, R314). -/
def execCscPlacement (s : State) : Host.Outcome State Fault Refusal :=
  match (if cscRuns s then (schedOrder s).find? (placeable s) else none) with
  | none => .next s
  | some c =>
    match placement s c with
    | none => .next s
    | some (q, b, v) =>
      let x := getCtx s c
      let s1 : State := if x.need = 0 then
          { modCtx s c (fun y => { y with need := saveNeed x }) with csc := { s.csc with poolRsv := s.csc.poolRsv + saveNeed x } }
        else s
      .next (modSeq s1 q (fun y => { y with xfer := some ⟨b, c, v, v.any (preempts s c)⟩ }))

/-! ## Transfers (R298, R300, R302, R307, R309) -/

/-- The bank state of a first load (R298). -/
def firstBank (s : State) (c : Nat) : Bank :=
  let x := getCtx s c
  let p := (getProg s x.prog.toNat).getD { entry := 0, tsbp := 0, edtb := 0, desc := 0, func := 0 }
  let segs := Vector.ofFn (fun (i : Fin 16) => if i.val = 0 then (0 : Desc256) else x.initseg[i.val])
  let lim := dLimit (segs[2])
  { Bank.empty with
    occ := some c, pc := p.entry, tsbp := p.tsbp, edtb := p.edtb,
    lo := { Lower.zero with segs := segs, g := Lower.zero.g.set 15 (BitVec.ofNat 64 ((lim + 1) / 8 * 8)) } }

/-- The bank state of a context that has started: its saved halves and its record. -/
def savedBank (s : State) (c : Nat) : Bank :=
  let x := getCtx s c
  { Bank.empty with occ := some c, pc := x.pc, tsbp := x.tsbp, edtb := x.edtb,
                    lo := x.lower.getD Lower.zero, up := x.upper.getD Upper.zero }

/-- Save areas that are in use. -/
def usedAreas (s : State) : List Nat := s.ctxs.flatMap (fun e => e.2.lareas ++ e.2.uareas)

/-- The first free areas of the pool. Log entry 135. -/
def freeAreas (s : State) (n : Nat) : List Nat :=
  ((List.range ((usedAreas s).length + n)).filter (fun k => !(usedAreas s).contains k)).take n

/-- An eviction saves a bank into its context's areas and record (R302, R307), with PRE where it was preempted (R309). An FP trap that
is pending is raised when the context next enters a bank (R215). -/
def bankOut (s : State) (q : Fin 16) (b : Fin 8) (pre : Bool) (v : Nat) : State :=
  let k := s.seqs[q.val].banks[b.val]
  let l := freeAreas s 10
  let s1 := modCtx (askCredit s v) v (fun y => { y with
    lower := some k.lo, upper := if y.novec then none else some k.up, lareas := l.take 1, uareas := if y.novec then [] else l.drop 1, pc := k.pc, tsbp := k.tsbp, edtb := k.edtb,
    res := false, fresh := false, fppend := y.fppend || fpPending y k, fpRaised := y.fpRaised || fpPending y k,
    pre := y.pre || pre })
  { s1 with csc := { s1.csc with evicts := satInc s1.csc.evicts } }

/-- The bound of a transfer in Q-cycles (R307). -/
def xferBound (x : Ctx) (evict : Bool) : Nat :=
  if evict then 3000 else if !x.started then 400 else if x.novec then 600 else 3000

/-- CONTEXT_TRANSFER_COMPLETE: the engine ends its transfer (R307); the loaded context enters selection. -/
def execContextTransferComplete (q : Fin 16) (s : State) : Host.Outcome State Fault Refusal :=
  match (s.seqs[q.val]).xfer with
  | none => .next s
  | some t =>
    if lmWaits s then .next s else
    let x := getCtx s t.load
    let s0 := match t.evict with | some v => bankOut s q t.bank t.pre v | none => s
    let k := if x.started then savedBank s0 t.load else firstBank s0 t.load
    let cyc := min (xferBound x t.evict.isSome) (max s.csc.xferMax.toNat (Config.freeTime s.free % (xferBound x t.evict.isSome + 1)))
    let s1 : State := { s0 with free := s0.free + 1,
                                csc := { s0.csc with loads := satInc s0.csc.loads,
                                                     xferMax := if s.csc.xferMax.toNat < cyc then BitVec.ofNat 12 cyc else s.csc.xferMax } }
    let s2 := modSeq s1 q (fun y => { y with xfer := none, banks := vset y.banks t.bank k })
    let s3 := if x.pre then s2 else chargeQ s2 t.load 3000
    .next (modCtx s3 t.load (fun y => { y with res := true, seq := q, bank := t.bank, started := true, fresh := true, pre := false,
                                               lower := none, upper := none, lareas := [], uareas := [] }))

/-! ## Switches (R306, R309, R310, R312, R313, R316) -/

/-- READY contexts that a sequencer could run, in scheduling order. -/
def residentReady (s : State) (q : Fin 16) : List Nat :=
  let x := s.seqs[q.val]
  (schedOrder s).filter (fun c =>
    let y := getCtx s c
    decide (y.st = .ready) && y.res && decide (y.seq = q) && !y.dying && !inTransfer x y.bank)

/-- Counts a switch between resident banks (R321): an entry into RUN in another bank than the one that ran last on its sequencer, which
R312 and the worked example of chapter 11 switch from. DEDUCED, log entry 94. -/
def countSwitch (s : State) (other : Bool) : State :=
  if other then { s with csc := { s.csc with switches := s.csc.switches + 1 } } else s

/-- A context enters RUN: its entry is charged unless it is the reload of R309 or that of its load, or an interrupt handler goes on in
it (R319). -/
def enterRun (s : State) (q : Fin 16) (c : Nat) : State :=
  let x := getCtx s c
  let k := s.seqs[q.val].banks[x.bank.val]
  let s1 := if x.fresh || x.pre then s else chargeQ s c 4
  let s2 := modCtx s1 c (fun y => { y with st := .run, fresh := false, leaving := false, pre := if x.fresh then y.pre else false,
                                           fppend := y.fppend || fpPending y k, fpRaised := y.fpRaised || fpPending y k })
  countSwitch (modSeq s2 q (fun y => { y with run := some x.bank, st := 1, open_ := [], held := .nothing, slow := [], last := some x.bank }))
    (match (s.seqs[q.val]).last with | some b => decide (b ≠ x.bank) | none => false)

/-- A job that must end leaves RUN, once the waits of R306 are over (R320). -/
def leaveRun (s : State) (q : Fin 16) (b : Fin 8) (r : Nat) : State :=
  if (getCtx s r).dying ∧ switchBusy s.seqs[q.val] b = false then stopRunning (makeWait s r 0) q else s

/-- The running context gives way to another: it reports its use (R178), and PRE marks that it was preempted (R309). -/
def giveWay (s : State) (r c : Nat) : State :=
  modCtx (askCredit s r) r (fun y => { y with st := .ready, leaving := false, pre := y.pre || preempts s c r })

/-- The switch decided on waits for loads and F-slot operations; where it preempts, the Q-cycles from the decision on are metered
to no class (R309). -/
def decideSwitch (s : State) (r c : Nat) : State :=
  if preempts s c r then modCtx s r (fun y => { y with leaving := true }) else s

/-- No switch away from the running context is decided on, so its Q-cycles are metered (R309). -/
def stayOn (s : State) (q : Fin 16) : State :=
  match running s q with
  | some (_, r) => if (getCtx s r).leaving then modCtx s r (fun y => { y with leaving := false }) else s
  | none => s

/-- BANK_SWITCH: the sequencer runs the first resident READY context in scheduling order (R306, R312, R313). A running context
that must end leaves RUN first. -/
def execBankSwitch (q : Fin 16) (s : State) : Host.Outcome State Fault Refusal :=
  if !(cscRuns s && seqUsable s q && !s.pwr.stopped) then .next s
  else
    let s1 := match running s q with | some (b, r) => leaveRun s q b r | none => s
    match (residentReady s1 q).head?, running s1 q with
    | none, _ => .next (stayOn s1 q)
    | some c, none => .next (enterRun s1 q c)
    | some c, some (b, r) =>
      if (s1.seqs[q.val].banks[b.val]).lo.stat.esc || decide (schedRank s1 r < schedRank s1 c) then .next (stayOn s1 q)
      else if switchBusy s1.seqs[q.val] b then .next (decideSwitch s1 r c)
      else .next (enterRun (giveWay s1 r c) q c)

/-- BE_SLICE_EXPIRY: a best-effort context that has run its slice goes to the tail of the FIFO when another best-effort
READY context admits the sequencer (R316). -/
def execBeSliceExpiry (q : Fin 16) (s : State) : Host.Outcome State Fault Refusal :=
  match running s q with
  | none => .next s
  | some (_, c) =>
    if (getCtx s c).be && cscRuns s
        && s.csc.fifo.any (fun d => decide (d ≠ c) && decide ((getCtx s d).st = .ready) && affTo s (getCtx s d) q) then
      .next (enlist s c)
    else .next s

/-! ## Interrupts and limits (R293, R319, R342, R343, R394) -/

/-- The running context stands at a bundle boundary and may enter an exception. -/
def boundary (s : State) (q : Fin 16) : Option (Fin 8 × Nat) :=
  match running s q with
  | some (b, c) => if seqRuns s q && !entryStops s q b c (0x0B :: (List.range 32).map (0x20 + ·)) && !(getCtx s c).dying then some (b, c) else none
  | none => none

/-- The bundle being formed is formed anew after an exception entry. -/
def clearOpen (s : State) (q : Fin 16) : State := modSeq s q (fun x => { x with open_ := [], held := .nothing })

/-- SEQUENCER_INTERRUPT_TAKE: at a boundary of an unmasked context the sequencer claims, and enters the class of the
source (R343, R394); an EVC that is disabled or held takes no claim (R476, R482). Where an interrupt is due, a pending FP trap is entered in its
place, and the interrupt stays pending (R215). -/
def execSequencerInterruptTake (q : Fin 16) (s : State) : Host.Outcome State Fault Refusal :=
  match boundary s q with
  | none => .next s
  | some (b, c) =>
    let k := s.seqs[q.val].banks[b.val]
    let y := getCtx s c
    match pendingItem s q b c with
    | some s1 => .next (clearOpen s1 q)
    | none =>
      if masked y k || !evcUp s || !(hdr s .evc).en || (hdr s .evc).held then .next s
      else if fpFirst s q b c && (candidate s ⟨q.val, by omega⟩).isSome then .next (clearOpen (raiseFp s q b c k.pc) q)
      else
        let r := claim s ⟨q.val, by omega⟩
        if h : r.2 ≠ 0 ∧ r.2 < 2048 then
          .next (clearOpen (enterExc r.1 q b c
            { Exc.plain (0x20 + (srcCfg s r.2).cls.toNat) 0 k.pc 0 none with async := true, src := some (⟨r.2, h.2⟩, ⟨q.val, by omega⟩) } false) q)
        else .next r.1

/-- MASK_OVERRUN: the count of a masked context has reached the limit (R342): it locks, escalates or is entered. Where an item of R343 or
a pending FP trap is entered in its place (R215), the count stays, and Mask Overrun is due again at the next boundary. -/
def execMaskOverrun (q : Fin 16) (s : State) : Host.Outcome State Fault Refusal :=
  match boundary s q with
  | none => .next s
  | some (b, c) =>
    let k := s.seqs[q.val].banks[b.val]
    let y := getCtx s c
    let x := Exc.plain 0x0B 0 k.pc 0 none
    let s1 := modCtx s c (fun z => { z with maskq := 0 })
    if !masked y k || decide (y.maskq.toNat < (s.seqs[q.val]).masklim.active.toNat * 2000) then .next s
    else if k.lo.stat.esc then .next (lockSeq s1 q 4)
    else
      if k.lo.stat.pl = 0 ∨ k.lo.stat.wt = true ∨ y.fdepth = 4 then .next (clearOpen (escalate s1 q b c x 0x06 false) q)
      else match pendingItem s q b c with
        | some s2 => .next (clearOpen s2 q)
        | none => .next (clearOpen (if fpFirst s q b c then raiseFp s q b c k.pc else enterExc s1 q b c x false) q)

/-- The running bank waits for a long load, for a pipe grant or for the store buffer to drain, so the watchdog does not count (R293). -/
def wdogWaits (x : Seq) : Bool :=
  !x.loads.isEmpty || (match x.held with | .drain | .overlap | .grant => true | .nothing | .operand => false)

/-- WATCHDOG_EXPIRY: the sequencer goes LOCKED (R293, R346). -/
def execWatchdogExpiry (q : Fin 16) (s : State) : Host.Outcome State Fault Refusal :=
  let x := s.seqs[q.val]
  if x.wdogEn && decide (x.st = 1) && !wdogWaits x && islandUp s (islSQ q) then
    .next (lockSeq (modSeq s q (fun y => { y with wdogExp := true })) q 3)
  else .next s

/-- The resident waiting context that an interrupt wakes (R319): first in scheduling order, with GM = 0. -/
def wakeCandidate (s : State) (q : Fin 16) : Option Nat :=
  let x := s.seqs[q.val]
  let cs := (List.finRange 8).filterMap (fun b => match (x.banks[b.val]).occ with
    | some c =>
      let y := getCtx s c
      if y.st = .wait ∧ y.dying = false ∧ (x.banks[b.val]).lo.stat.gm = false ∧ inTransfer x b = false then some c else none
    | none => none)
  let key := fun (c : Nat) => if (getCtx s c).be then 1048576 else distance s (getCtx s c).dlslot
  cs.foldl (fun a c => match a with | none => some c | some d => if key c < key d then some c else some d) none

end Sys2Proof.Machine
end

