-- ==== Sys2Proof/Machine/Queues.lean ====
section
/-! DEFINITION. Rhaso queue pairs: doorbells, fetch, the order of entries, completion entries, MSI-X messages, and the
host DMA (R19, R20, R364 to R371, R379). -/

namespace Sys2Proof.Machine

/-! ## Entries (R369, R371) -/

/-- A field of an entry: byte offset, low bit and width. -/
def ef (e : Entry1024) (off lo w : Nat) : Nat := bits e.toNat (8 * off + lo) w

/-- The operation code and the command identifier of an entry. -/
def entOpc (e : Entry1024) : Nat := ef e 0 0 8
def entCid (e : Entry1024) : BitVec 16 := BitVec.ofNat 16 (ef e 0 16 16)

/-- The function of a global queue number (R357). -/
def fnOf (g : Fin 4096) : Fin 64 := ⟨g.val / 64, by omega⟩

/-- The bits that a list of fields covers, beside OPC and CID. -/
def fieldMask (l : List (Nat × Nat × Nat)) : Nat :=
  l.foldl (fun a f => a ||| ((2 ^ f.2.2 - 1) <<< (8 * f.1 + f.2.1))) 0xFFFF00FF

/-- The fields of each command's entry (R372, R374 to R379). -/
def entFields (opc : Nat) : List (Nat × Nat × Nat) :=
  match opc with
  | 0x01 => [(4, 0, 29), (8, 0, 32), (0x0C, 0, 20)] ++ (List.range 11).map (fun c => (0x10 + 4 * c, 0, 32))
      ++ (List.range 8).map (fun j => (0x40 + 2 * j, 0, 10)) ++ (List.range 8).map (fun j => (0x40 + 2 * j, 15, 1))
      ++ (List.range 14).map (fun n => (0x50 + 2 * n, 0, 14))
  | 0x02 => [(4, 0, 6), (8, 0, 16)]
  | 0x03 => [(4, 0, 14), (4, 16, 14), (8, 0, 64), (0x10, 0, 64), (0x18, 0, 64)]
  | 0x04 => [(4, 16, 14), (0x10, 0, 64), (0x18, 0, 64), (0x20, 0, 64)]
  | 0x10 => [(4, 0, 14), (4, 16, 1), (8, 0, 14), (0x10, 0, 64), (0x18, 0, 64), (0x20, 0, 64), (0x28, 0, 64), (0x30, 0, 64)]
  | 0x11 => [(8, 0, 256)]
  | 0x12 => [(4, 0, 14)]
  | 0x13 => [(4, 0, 15), (8, 0, 64), (0x10, 0, 64), (0x18, 0, 24), (0x1C, 0, 24), (0x20, 0, 25), (0x24, 0, 26)]
  | 0x14 => [(4, 0, 10)]
  | 0x15 => [(4, 0, 14), (0x20, 0, 256)]
  | 0x18 => [(4, 0, 6), (4, 12, 3), (8, 0, 11), (0x0C, 0, 32), (0x10, 0, 64), (0x18, 0, 64)]
  | 0x19 => [(4, 0, 6)]
  | 0x20 => [(4, 0, 14), (8, 0, 64)]
  | 0x21 => [(4, 0, 14), (4, 16, 1), (8, 0, 64), (0x10, 0, 16), (0x14, 0, 17)]
  | _ => []

/-- A must-be-zero bit of an entry is set. -/
def entRsvd (e : Entry1024) : Bool :=
  let m := fieldMask (entFields (entOpc e))
  decide (e.toNat ||| m ≠ m)

/-- The configuration commands (R367). -/
def isCfg (opc : Nat) : Bool := decide (0x10 ≤ opc) && decide (opc ≤ 0x19)

/-- The INVALID_COMMAND detail of an entry, if any (R369, R371). JOB_SUBMIT, PROGRAM_LOAD and QUEUE_CREATE have their
own test of must-be-zero bits. -/
def entInvalid (q : Fin 4096) (e : Entry1024) : Option Nat :=
  let o := entOpc e
  if (entFields o).isEmpty then some 1
  else if (isCfg o || decide (o = 0x21)) && decide (q.val % 64 ≠ 0) then some 2
  else if o = 0x21 ∧ q.val ≠ 0 then some 3
  else if o ≠ 0x01 ∧ o ≠ 0x10 ∧ o ≠ 0x18 ∧ entRsvd e = true then some 4
  else none

/-! ## The order of entries (R366, R367) -/

/-- A configuration command of the SQ has not had its completion entry written. -/
def cfgHeld (s : State) (q : Fin 4096) : Bool :=
  s.rqe.running.any (fun r => r.cfg && decide (r.q = q)) || s.rqe.compl.any (fun k => k.cfg && decide (k.q = q))

/-- The fetched entries that stand first in their SQ and are not held back. -/
def readyEntries (s : State) : List InEntry → List (Fin 4096) → List InEntry
  | [], _ => []
  | e :: t, seen =>
    if seen.contains e.q then readyEntries s t seen
    else if cfgHeld s e.q then readyEntries s t (e.q :: seen)
    else e :: readyEntries s t (e.q :: seen)

/-- The HL island serves commands, unless QUIESCE holds the RQE, which then takes no further one (R482); after a tamper event it serves
STATUS_READ and LOG_READ only (R465). -/
def hlServes (s : State) (opc : Nat) : Bool :=
  islandUp s islHL && !(hdr s .rqe).held && (!hlLocked s || decide (opc = 0x20) || decide (opc = 0x21))

/-- Removes an entry from those fetched. -/
def dropEntry (s : State) (e : InEntry) : State := { s with rqe := { s.rqe with inbox := s.rqe.inbox.erase e } }

/-- Completes the entries that are invalid, each when it stands first (R369). -/
def sweep : Nat → State → State
  | 0, s => s
  | n + 1, s =>
    match (readyEntries s s.rqe.inbox []).find? (fun e => (entInvalid e.q e.entry).isSome && hlServes s (entOpc e.entry)) with
    | none => s
    | some e => sweep n (post (dropEntry s e) e.q (entCid e.entry) (isCfg (entOpc e.entry)) 0x06 ((entInvalid e.q e.entry).getD 1) 0 0)

/-- The entry that a command of an operation code takes next, and the state without it. -/
def takeEntry (s : State) (opc : Nat) : Option (InEntry × State) :=
  ((readyEntries s s.rqe.inbox []).find? (fun e =>
    decide (entOpc e.entry = opc) && (entInvalid e.q e.entry).isNone && hlServes s opc)).map (fun e => (e, dropEntry s e))

/-- Posts the completion of a command that has ended, and lets invalid entries behind it complete. -/
def answer (s : State) (e : InEntry) (status detail res0 res1 : Nat) : State :=
  let s1 := post s e.q (entCid e.entry) (isCfg (entOpc e.entry)) status detail res0 res1
  sweep s1.rqe.inbox.length s1

/-- CMD_REFUSED with a reason code (R371). -/
def refuse (s : State) (e : InEntry) (reason : Nat) : State := answer s e 0x05 reason 0 0

/-- A command that runs on. -/
def runOn (s : State) (e : InEntry) (k : RunKind) : State :=
  { s with rqe := { s.rqe with running := s.rqe.running ++ [⟨e.q, entCid e.entry, isCfg (entOpc e.entry), k⟩] } }

/-- Ends running commands with ABORTED (R371, R377). -/
def abortRunning (s : State) (p : RunKind → Bool) : State :=
  (s.rqe.running.filter (fun r => p r.kind)).foldl (fun a r => post a r.q r.cid r.cfg 0x09 0 0 0)
    { s with rqe := { s.rqe with running := s.rqe.running.filter (fun r => !p r.kind) } }

/-! ## Fetch (R19, R20, R366) -/

/-- Bytes of a queue: in the function's partition of queue memory, or in host memory (R353, R364). -/
def queueRead (s : State) (f : Fin 64) (loc : Bool) (base off n : Nat) : List Byte :=
  if loc then qmRead s (0x40000 * f.val + base + off) n
  else (List.range n).map (fun i => rdByte s (hostBase + base + off + i))

/-- The IDE stream that carries a function's access to host memory: the first selective stream that selects it, or the link
stream, number 8 (R360). -/
def ideStream (s : State) (f : Fin 64) (addr : Nat) : Nat :=
  match (List.finRange 8).find? (fun i =>
      let x := s.hl.ideSel[i.val]
      x.en && decide (x.fnLo ≤ f) && decide (f ≤ x.fnHi) && decide (x.lo.toNat ≤ addr) && decide (addr ≤ x.hi.toNat)) with
  | some i => i.val
  | none => 8

/-- Every TLP that carried a byte of the entry came in a Secure IDE stream (R378). -/
def entryProt (s : State) (f : Fin 64) (x : Qp) : Bool :=
  if x.sqloc then
    (List.range 128).all (fun i => tget false s.rqe.prot (0x40000 * f.val + x.sqBase.toNat + 128 * x.sqhd + i))
  else s.hl.ide.getLsbD (ideStream s f (x.sqBase.toNat + 128 * x.sqhd))

/-- The entry at the head of a pair's SQ. -/
def headEntry (s : State) (g : Fin 4096) : Entry1024 :=
  let x := getQp s g.val
  BitVec.ofNat 1024 (natOf (queueRead s (fnOf g) x.sqloc x.sqBase.toNat (128 * x.sqhd) 128))

/-- A command that the HL island still serves after a tamper event (R465). -/
def lockedOpc (opc : Nat) : Bool := decide (opc = 0x20) || decide (opc = 0x21)

/-- The host memory of a function can be reached by the queue engine: the link is up, HLK is enabled and not held, and the function is not in
D3hot (R350, R363, R476, R482). -/
def hostMemory (s : State) (f : Fin 64) : Bool :=
  s.hl.up && (hdr s .hlk).en && !(hdr s .hlk).held && !s.hl.d3.getLsbD f.val

/-- The RQE may fetch from a pair. -/
def fetchable (s : State) (g : Nat) : Bool :=
  let x := getQp s g
  let q : Fin 4096 := ⟨g % 4096, Nat.mod_lt _ (by decide)⟩
  decide (x.st = .active) && decide (0 < x.sqPend) && decide (x.cqUsed + x.outst < x.cqm1.toNat + 1)
    && s.hl.flr.all (fun r => decide (r.1.val ≠ g / 64)) && (x.sqloc || hostMemory s (fnOf q)) && (!hlLocked s || lockedOpc (entOpc (headEntry s q)))

/-- Fetches one entry of a pair. -/
def fetchOne (s : State) (g : Fin 4096) : State :=
  let x := getQp s g.val
  let e : InEntry :=
    { q := g, entry := headEntry s g, prot := entryProt s (fnOf g) x }
  let s1 := setQp s g.val { x with sqhd := (x.sqhd + 1) % (x.sqm1.toNat + 1), sqPend := x.sqPend - 1, outst := x.outst + 1 }
  { s1 with rqe := { s1.rqe with rr := (g.val + 1) % 4096, inbox := s1.rqe.inbox ++ [e] } }

/-- The pair whose turn it is. -/
def nextQueue (s : State) : Option (Fin 4096) :=
  let gs := (s.rqe.qps.map (·.1)).filter (fetchable s)
  match (gs.find? (fun g => decide (s.rqe.rr ≤ g))).orElse (fun _ => gs.head?) with
  | some g => if h : g < 4096 then some ⟨g, h⟩ else none
  | none => none

/-- RQE_ENTRY_FETCH: nothing new is fetched after a power-fail warning (R451), nor while QUIESCE holds the RQE (R482). -/
def execRqeEntryFetch (s : State) : Host.Outcome State Fault Refusal :=
  match (if islandUp s islHL && !s.pwr.pfw && !(hdr s .rqe).held then nextQueue s else none) with
  | none => .next s
  | some g => let s1 := fetchOne s g; .next (sweep s1.rqe.inbox.length s1)

/-! ## Doorbells (R355, R356, R365) -/

/-- A pair enters ERROR (R365, R366). -/
def queueError (s : State) (g : Fin 4096) (why : Nat) : State :=
  offer (setQp s g.val { getQp s g.val with st := .err }) 0x0701 sevWarning islHL.val g.val why 0

/-- The host's writes reach a byte of queue memory: not while the functions through whose BAR2 they go, the PF and the byte's own, are in
D3hot (R350). -/
def qmemOpen (s : State) (off : Nat) : Bool := !s.hl.d3.getLsbD 0 || !s.hl.d3.getLsbD (off / 0x40000)

/-- Writes that the host posted before a doorbell (R50, R356). -/
def postedWrites (s : State) (l : List Posted) : State :=
  l.foldl (fun a w => match w with
    | .qmem off b ide =>
      if !qmemOpen a off.val then urDrop a else
      let sec := match ide with | some i => a.hl.ide.getLsbD i.val | none => false
      let a1 := qmWrite a off.val [b]
      { a1 with rqe := { a1.rqe with prot := tset false a1.rqe.prot off.val sec } }
    | .host addr b => wrByte a (hostBase + addr.toNat) b) s

/-- The number of MSI-X vectors of a function (R357). -/
def vecCount (f : Fin 64) : Nat := if f.val = 0 then 2048 else 64

/-- What a place in a BAR2 is (R353). -/
inductive Bar2At where
  | tail (g : Fin 4096)
  | head (g : Fin 4096)
  /-- A byte of a vector's entry. -/
  | msix (v : Nat) (b : Nat)
  /-- A byte of the pending bit array. -/
  | pending (b : Nat)
  /-- An offset in the 16 MiB of queue memory. -/
  | queueMem (off : Nat)
  | undefined
  deriving DecidableEq, Repr

/-- The place of an offset in the BAR2 of a function. A doorbell is at the low bytes of its 8. DEDUCED, log entry 147. -/
def bar2At (f : Fin 64) (off : Nat) : Bar2At :=
  let pf := decide (f.val = 0)
  let table := if pf then 0x100000 else 0x10000
  let qm := if pf then 0x1000000 else 0x40000
  let g : Fin 4096 := ⟨(64 * f.val + off / 16) % 4096, Nat.mod_lt _ (by decide)⟩
  if off < 16 * (if pf then 4096 else 64) then
    (if off % 16 = 0 then .tail g else if off % 16 = 8 then .head g else .undefined)
  else if table ≤ off ∧ off < table + 16 * vecCount f then .msix ((off - table) / 16) (off % 16)
  else if table + 0x8000 ≤ off ∧ off < table + 0x8000 + vecCount f / 8 then .pending (off - table - 0x8000)
  else if qm ≤ off ∧ off < 2 * qm ∧ (pf ∨ off < 0x80000) then .queueMem (0x40000 * f.val + (off - qm))
  else .undefined

/-- A write to a tail doorbell. A pair in ERROR takes no notice of it. -/
def tailBell (s : State) (g : Fin 4096) (v : Nat) : State :=
  let x := getQp s g.val
  let n := x.sqm1.toNat + 1
  if 65536 ≤ v ∨ x.st = .off then countHlk s
  else if x.st = .err ∨ v = x.sqtail then s
  else if n ≤ v ∨ n < x.sqPend + (v + n - x.sqtail) % n then queueError s g 1
  else setQp s g.val { x with sqtail := v, sqPend := x.sqPend + (v + n - x.sqtail) % n }

/-- A write to a head doorbell. -/
def headBell (s : State) (g : Fin 4096) (v : Nat) : State :=
  let x := getQp s g.val
  let n := x.cqm1.toNat + 1
  if 65536 ≤ v ∨ x.st = .off then countHlk s
  else if x.st = .err ∨ v = x.cqhead then s
  else if n ≤ v ∨ x.cqUsed < (v + n - x.cqhead) % n then queueError s g 2
  else setQp s g.val { x with cqhead := v, cqUsed := x.cqUsed - (v + n - x.cqhead) % n }

/-- A doorbell write through the BAR2 of a function (R353, R355): one in D3hot takes no memory write (R350). -/
def bellWrite (s : State) (f : Fin 64) (off value : Nat) : State :=
  if s.hl.d3.getLsbD f.val then urDrop s
  else match bar2At f off with
    | .tail g => tailBell s g value
    | .head g => headBell s g value
    | _ => urDrop s

/-- SQ_TAIL_DOORBELL, behind the writes that the host posted before it. -/
def execSqTailDoorbell (g : Bar2) (value : Word) (posted : List Posted) (s : State) : Host.Outcome State Fault Refusal :=
  if islandUp s islHL && s.hl.up then .next (bellWrite (postedWrites s posted) g.f g.off.toNat value.toNat) else .next s

/-- CQ_HEAD_DOORBELL. -/
def execCqHeadDoorbell (g : Bar2) (value : Word) (s : State) : Host.Outcome State Fault Refusal :=
  if islandUp s islHL && s.hl.up then .next (bellWrite s g.f g.off.toNat value.toNat) else .next s

/-! ## Opening and closing pairs (R379) -/

/-- A queue pair as it is asked for. -/
structure QpAsk where
  rsvd : Bool
  iv : Nat
  ien : Bool
  sqloc : Bool
  cqloc : Bool
  sqm1 : Nat
  cqm1 : Nat
  sqBase : Nat
  cqBase : Nat
  deriving DecidableEq, Repr

/-- The ranges that queues take in a partition of queue memory. -/
def qmRanges (sqloc cqloc : Bool) (sqb sqm cqb cqm : Nat) : List (Nat × Nat) :=
  (if sqloc then [(sqb, sqb + 128 * (sqm + 1))] else []) ++ (if cqloc then [(cqb, cqb + 32 * (cqm + 1))] else [])

/-- Two ranges, each given by its first and its following number, meet. -/
def meet (a b : Nat × Nat) : Bool := decide (max a.1 b.1 < min a.2 b.2)

/-- The tests of R379: the reason of the first that fails. -/
def queueTest (s : State) (f : Fin 64) (idx : Nat) (admin : Bool) (a : QpAsk) : Option Nat :=
  let past := fun (loc : Bool) (b n : Nat) => decide ((if loc then 0x40000 else 2 ^ 56) < b + n)
  let mine := qmRanges a.sqloc a.cqloc a.sqBase a.sqm1 a.cqBase a.cqm1
  let others := (s.rqe.qps.filter (fun e => decide (e.1 / 64 = f.val) && decide (e.1 % 64 ≠ idx) && decide (e.2.st ≠ .off))).flatMap
    (fun e => qmRanges e.2.sqloc e.2.cqloc e.2.sqBase.toNat e.2.sqm1.toNat e.2.cqBase.toNat e.2.cqm1.toNat)
  if a.rsvd ∨ vecCount f ≤ a.iv then some 0x02
  else if a.sqBase % 4096 ≠ 0 ∨ a.cqBase % 4096 ≠ 0 then some 0x08
  else if (idx = 0 ∧ admin = false) ∨ a.sqm1 = 0 ∨ a.cqm1 = 0 ∨ past a.sqloc a.sqBase (128 * (a.sqm1 + 1)) = true
      ∨ past a.cqloc a.cqBase (32 * (a.cqm1 + 1)) = true then some 0x01
  else if mine.any (fun r => others.any (meet r)) || (match mine with | [x, y] => meet x y | _ => false) then some 0x09
  else if (getQp s (64 * f.val + idx)).st ≠ .off then some 0x0B
  else none

/-- The pair after it is opened: ACTIVE, empty, phase 1. -/
def openQp (a : QpAsk) (reason : Byte) : Qp :=
  { Qp.reset with
    en := true, st := .active, sqm1 := BitVec.ofNat 16 a.sqm1, cqm1 := BitVec.ofNat 16 a.cqm1, ien := a.ien,
    sqloc := a.sqloc, cqloc := a.cqloc, iv := BitVec.ofNat 11 a.iv, sqBase := BitVec.ofNat 56 a.sqBase,
    cqBase := BitVec.ofNat 56 a.cqBase, reason := reason }

/-- The pair after it goes OFF: its configuration stays, unfetched entries are discarded. -/
def closeQp (x : Qp) : Qp := { x with en := false, st := .off, sqPend := 0, sqtail := x.sqhd, outst := 0 }

/-- Zeroes the queue-memory partition of a function. -/
def zeroPart (s : State) (f : Fin 64) : State :=
  let keep := fun (k : Nat) => decide (k < 0x40000 * f.val) || decide (0x40000 * (f.val + 1) ≤ k)
  { s with qmem := s.qmem.filter (fun e => keep e.1), rqe := { s.rqe with prot := s.rqe.prot.filter (fun e => keep e.1) } }

/-- ADMIN_QUEUE_ENABLE (R363, R379, R383): EN is written with 1 in the block of a function's admin queue. -/
def execAdminQueueEnable (f : Fin 64) (s : State) : Host.Outcome State Fault Refusal :=
  let g := 64 * f.val
  let x := getQp s g
  if !(islandUp s islHL && s.hl.up) || hlLocked s || s.hl.d3.getLsbD f.val || x.en then .next s
  else
    let a : QpAsk := { rsvd := false, iv := x.iv.toNat, ien := x.ien, sqloc := x.sqloc, cqloc := x.cqloc,
                       sqm1 := x.sqm1.toNat, cqm1 := x.cqm1.toNat, sqBase := x.sqBase.toNat, cqBase := x.cqBase.toNat }
    match queueTest s f 0 true a with
    | some r => .next (setQp s g { x with reason := BitVec.ofNat 8 r })
    | none =>
      let s1 : State := if s.hl.kept.getLsbD f.val then
          { zeroPart s f with hl := { s.hl with kept := s.hl.kept &&& ~~~(BitVec.ofNat 64 (2 ^ f.val)) } }
        else s
      .next (setQp s1 g (openQp a x.reason))

/-- ADMIN_QUEUE_DRAIN (R379): EN is cleared; fetching stops. -/
def execAdminQueueDrain (f : Fin 64) (s : State) : Host.Outcome State Fault Refusal :=
  let g := 64 * f.val
  let x := getQp s g
  if islandUp s islHL && s.hl.up && !hlLocked s && !s.hl.d3.getLsbD f.val && x.en then .next (setQp s g { x with en := false, st := .draining, discard := decide (x.st = .err) })
  else .next s

/-- QUEUE_DRAIN_COMPLETE (R379). -/
def execQueueDrainComplete (f : Fin 64) (s : State) : Host.Outcome State Fault Refusal :=
  let g := 64 * f.val
  let x := getQp s g
  if x.st = .draining ∧ x.outst = 0 then .next (setQp s g (closeQp x)) else .next s

/-! ## Completion entries and MSI-X (R368, R370, R373) -/

/-- The key of a vector in the MSI-X table. -/
def vecKey (f v : Nat) : Nat := 2048 * f + v

/-- An MSI-X message is due on a vector (R368): a masked vector sets its pending bit, and so does one of a function in D3hot, which sends no
message (R350). -/
def sendMsix (s : State) (f : Fin 64) (v : Nat) : State :=
  let x := tget VecState.reset s.hl.msix (vecKey f.val v)
  if x.mask || s.hl.d3.getLsbD f.val then
    { s with hl := { s.hl with msix := tset VecState.reset s.hl.msix (vecKey f.val v) { x with pend := true } } }
  else if s.hl.up then send s (.msix f v) else s

/-- The 32 bytes of a completion entry (R370). -/
def complBytes (k : Compl) (slot : BitVec 20) (sqhd : Nat) (p : Bool) : List Byte :=
  bytesOf k.res0.toNat 8 ++ bytesOf (k.res1.toNat + (if k.ctx.isSome then slot.toNat else 0)) 8
    ++ bytesOf (k.cid.toNat + 2 ^ 16 * k.cause.toNat) 4
    ++ bytesOf (k.status.toNat + k.detail.toNat * 2 ^ 8 + 2 ^ 16 * b2n k.ovr + 2 ^ 17 * b2n k.late) 4
    ++ bytesOf (sqhd + 2 ^ 16 * k.q.val) 4 ++ bytesOf (b2n p) 4

/-- Whether a pair's completions are written: it has not been in ERROR since it was opened, and its CQ can be reached
(R363, R366). -/
def complWritten (s : State) (x : Qp) : Bool :=
  (decide (x.st = .active) || (decide (x.st = .draining) && !x.discard)) && (x.cqloc || s.hl.up)

/-- The entry goes into the CQ, and its MSI-X message follows. -/
def writeCompl (s : State) (k : Compl) : State :=
  let x := getQp s k.q.val
  let f := fnOf k.q
  let bs := complBytes k s.dau.slot x.sqhd x.phase
  let s1 := if x.cqloc then qmWrite s (0x40000 * f.val + x.cqBase.toNat + 32 * x.cqtail) bs
    else (gaWrite s .dma (hostBase + x.cqBase.toNat + 32 * x.cqtail) bs).1
  let last := decide (x.cqtail = x.cqm1.toNat)
  let s2 := setQp s1 k.q.val { x with cqtail := if last then 0 else x.cqtail + 1,
                                      phase := if last then !x.phase else x.phase, cqUsed := x.cqUsed + 1 }
  let s3 := match k.ctx with
    | some c => charge (if x.ien then charge s2 c 10 64 else s2) c 10 64
    | none => s2
  if x.ien then sendMsix s3 f x.iv.toNat else s3

/-- The oldest completion is written or discarded; its command is no longer outstanding, and a job's context becomes
FREE (R320, R379). -/
def finishCompl (s : State) (k : Compl) (rest : List Compl) : State :=
  let s1 : State := { s with rqe := { s.rqe with compl := rest } }
  let s2 := if complWritten s1 (getQp s1 k.q.val) then writeCompl s1 k else s1
  let s3 := settleOutst s2 k.q.val
  let s4 := match k.ctx with | some c => freeCtx s3 c | none => s3
  sweep s4.rqe.inbox.length s4

/-- MSIX_VECTOR_UNMASK (R368): a message held while the vector was masked goes out. -/
def execMsixVectorUnmask (f : Fin 64) (v : Fin 2048) (s : State) : Host.Outcome State Fault Refusal :=
  if v.val < vecCount f ∧ islandUp s islHL = true ∧ s.hl.d3.getLsbD f.val = false then
    let k := vecKey f.val v.val
    let x := tget VecState.reset s.hl.msix k
    let s1 : State := { s with hl := { s.hl with msix := tset VecState.reset s.hl.msix k { x with mask := false, pend := false } } }
    .next (if x.pend && s.hl.up then send s1 (.msix f v.val) else s1)
  else .next s

/-! ## Segments of commands (R357, R375) -/

/-- The regions in which a function's segments lie: first byte and the byte after the last. -/
def fnRegions (s : State) (f : Fin 64) : List (Nat × Nat) :=
  (if f.val = 0 then
    [(lmSoft, GiB * lmTopG s), (ilvBase, ilvBase + 196608 * GiB)]
      ++ (List.range 16).map (fun q => (onDieBase + 0x100000 * q, onDieBase + 0x100000 * (q + 1)))
      ++ (List.range 8).map (fun n => (onDieBase + 0x1000000 + 0x400000 * n, onDieBase + 0x1000000 + 0x400000 * (n + 1)))
      ++ (List.range 6).map (fun p => (fmBase p, fmBase (p + 1)))
  else
    let r := tget FnRange.reset s.hl.cfg.active.ranges f.val
    (if r.lmSize = 0 then [] else [(GiB * r.lmBase.toNat, GiB * (r.lmBase.toNat + r.lmSize.toNat))])
      ++ (if r.fmSize = 0 then [] else [(ilvBase + GiB * r.fmBase.toNat, ilvBase + GiB * (r.fmBase.toNat + r.fmSize.toNat))]))
  ++ [(hostBase, 2 * hostBase)]

/-- A range lies in one region of a function. -/
def inRegion (s : State) (f : Fin 64) (a last : Nat) : Bool := (fnRegions s f).any (fun r => decide (r.1 ≤ a) && decide (last < r.2))

/-- A segment handle of a function. -/
def ownSeg (s : State) (f : Fin 64) (h : Nat) : Option Desc256 :=
  match getSeg s h with
  | some o => if h ≠ 0 ∧ o.func = f then some o.desc else none
  | none => none

/-- The tests of a data-moving command on one segment (R375): a descriptor, or the reason. -/
def segTest (s : State) (f : Fin 64) (h : Nat) (r : Right) (off len : Nat) : Except Nat Nat :=
  match ownSeg s f h with
  | none => .error 0x05
  | some d =>
    if !hasRight d r || dSE d then .error 0x03
    else if dLimit d < off + len - 1 then .error 0x01
    else .ok (dBase d + off)

/-! ## The host DMA (R36, R52, R375) -/

/-- Where the bytes of a write come from. -/
inductive DmaSrc where
  | mem (ga : Nat)
  | pattern (p : Word)
  | list (bs : List Byte)
  deriving DecidableEq, Repr

/-- Byte j of a source: its value, whether it is poisoned, whether it met an error; lost: where a request was answered with one. -/
def dmaByte (s : State) (lost : List Nat) (src : DmaSrc) (dst len : Nat) (j : Nat) : Byte × Bool × Bool :=
  match src with
  | .mem ga =>
    let r := gaRead s .dma (ga + j) 1
    let b := if ga ≤ dst + j ∧ dst + j < ga + len then Config.freeByte s.free j else (r.bytes.head?).getD 0
    (b, r.poison.isSome, r.error.isSome || r.unmapped.isSome || (lostIn lost (ga + j) 1).isSome)
  | .pattern p => (BitVec.ofNat 8 (bits p.toNat (8 * (j % 8)) 8), false, false)
  | .list bs => ((bs[j]?).getD 0, false, false)

/-- What a move has done: bytes moved, the first poisoned source GA, poison met, error met. -/
structure DmaRes where
  st : State
  moved : Nat
  poisonGa : Nat
  poison : Bool
  error : Bool
  deriving DecidableEq, Repr

/-- Poisons the destination units that received poisoned bytes. -/
def dmaPoison (s : State) (dst : Nat) (l : List (Byte × Bool × Bool)) : State :=
  (List.range l.length).foldl (fun a i => match l[i]? with
    | some b => if b.2.1 then poisonGa a .dma (dst + i) else a
    | none => a) s

/-- Moves bytes piece by piece, each within 32 destination bytes, from the source as s0 holds it; an error response stops the
move. -/
def dmaMove (s0 : State) (lost : List Nat) (src : DmaSrc) (dst len : Nat) : Nat → Nat → DmaRes → DmaRes
  | 0, _, r => r
  | fuel + 1, j, r =>
    if len ≤ j ∨ r.error then r
    else
      let k := min (len - j) (32 - (dst + j) % 32)
      let l := (List.range k).map (fun i => dmaByte s0 lost src dst len (j + i))
      let good := l.takeWhile (fun b => !b.2.2)
      let w : State × Option Nat := match lostIn lost (dst + j) good.length with
        | some g => (r.st, some g)
        | none => gaWrite r.st .dma (dst + j) (good.map (·.1))
      let pz := good.findIdx? (fun b => b.2.1)
      let s1 := if good.isEmpty then r.st else if w.2.isSome then w.1 else dmaPoison w.1 (dst + j) good
      let s2 := match pz, src with | some i, .mem ga => noteUE s1 .dma (ga + j + i) | _, _ => s1
      let pg := match pz, src with
        | some i, .mem ga => if r.poison then r.poisonGa else (ga + j + i) / 32 * 32
        | _, _ => r.poisonGa
      let bad := decide (good.length < k) || (w.2.isSome && !good.isEmpty)
      dmaMove s0 lost src dst len fuel (j + k)
        { st := s2, moved := r.moved + (if w.2.isSome && !good.isEmpty then 0 else good.length), poisonGa := pg,
          poison := r.poison || pz.isSome, error := bad }

/-- A whole move, whose reads meet errors that no read has met. -/
def dmaRun (s : State) (lost : List Nat) (src : DmaSrc) (dst len : Nat) : DmaRes :=
  let s1 := match src with | .mem ga => touch s .dma ga len | _ => s
  let r := dmaMove s1 lost src dst len len 0 { st := s1, moved := 0, poisonGa := 0, poison := false, error := false }
  { r with st := { r.st with free := r.st.free + 1 } }

/-- The move that a running command waits for, if it is one. -/
def RunKind.move? : RunKind → Option DmaJob
  | .dma j => some j
  | .load _ _ _ _ j => some j
  | _ => none

/-- A running command's move, changed. -/
def RunKind.onMove (f : DmaJob → DmaJob) : RunKind → RunKind
  | .dma j => .dma (f j)
  | .load a b c d j => .load a b c d (f j)
  | k => k

/-- The move runs: a copy, or a fill with a pattern (R375). -/
def DmaJob.run (s : State) (j : DmaJob) : DmaRes :=
  dmaRun s j.lost (match j.src with | some ga => .mem ga | none => .pattern j.pattern) j.dst j.len

/-- A GA lies in what a move reads or writes. -/
def DmaJob.names (j : DmaJob) (ga : Nat) : Bool :=
  (match j.src with | some a => decide (a ≤ ga) && decide (ga < a + j.len) | none => false)
    || (decide (j.dst ≤ ga) && decide (ga < j.dst + j.len))

end Sys2Proof.Machine
end

