-- ==== Sys2Proof/Machine/Resets.lean ====
section
/-! DEFINITION. Resets, withdrawals and wakes: pages, islands, functions, the loss of the host link and of the core
rails, and what follows once jobs have ended (R41, R159, R362, R363, R412, R417 to R420, R456 to R466). -/

namespace Sys2Proof.Machine

/-! ## Pages -/

/-- The BAR0 offset of a page 0 (R483). -/
def pageBase : PageId → Nat
  | .glb => 0x000000 | .pwr => 0x010000 | .evr => 0x020000 | .evc => 0x030000 | .hlk => 0x080000 | .rqe => 0x100000
  | .dau => 0x200000 | .csc => 0x210000
  | .lmc n => 0x300000 + 0x10000 * n.val
  | .xpt p => 0x400000 + 0x10000 * p.val
  | .map => 0x500000
  | .pipe n => 0x600000 + 0x10000 * n.val
  | .seq n => 0x700000 + 0x10000 * n.val
  | .dir => 0x800000 | .lms => 0x900000 | .fab => 0xA00000

/-- The block type code of a page (R483). -/
def pageType : PageId → Nat
  | .glb => 0x0 | .pwr => 0x1 | .evr => 0x2 | .evc => 0x3 | .hlk => 0x8 | .rqe => 0x10 | .dau => 0x20 | .csc => 0x21
  | .lmc _ => 0x30 | .xpt _ => 0x40 | .map => 0x50 | .pipe _ => 0x60 | .seq _ => 0x70 | .dir => 0x80 | .lms => 0x90
  | .fab => 0xA0

/-- The instance number of a page. -/
def pageInst : PageId → Nat
  | .lmc n => n.val | .xpt p => p.val | .pipe n => n.val | .seq n => n.val | _ => 0

/-- The key of the latch of a register for a reading agent (R471). -/
def latchKey (off : Nat) (ag : Agent) : Nat :=
  4 * off + (match ag with | .host _ => 0 | .fw => 1 | .j9 => 2)

/-- A page takes its reset values: its header and its latches, the RQE's queue-pair blocks among them (R383, R456, R471, R480). -/
def resetPage (s : State) (pg : PageId) : State :=
  let b := pageBase pg
  let top := if pg = .rqe then 0x150000 else b + 0x10000
  modHdr { s with latch := s.latch.filter (fun e => decide (e.1 < 4 * b) || decide (4 * top ≤ e.1)) } pg
    (fun _ => Hdr.reset s.pwr.epoch pg)

/-! ## The vault (R411 to R413) -/

/-- A running wipe covers a slot. -/
def wipeCovers (w : Wipe) (k : Nat) : Bool :=
  match w with
  | .vault => true
  | .function _ ks => ks.contains k
  | .slot j => decide (j.val = k)
  | .scratchpads => false

/-- A wipe starts. -/
def startWipe (s : State) (w : Wipe) : State := { s with objs := { s.objs with wipes := s.objs.wipes ++ [w] } }

/-! ## Directories (R140) -/

/-- A directory's ranges and handle are freed. -/
def freeDir (s : State) (h : Nat) : State :=
  let x := getDir s h
  let inMain := fun (j : Nat) => decide (x.mainBase.toNat ≤ j) && decide (j < x.mainBase.toNat + 2 ^ x.mainLog2.toNat)
  let s1 := setDir s h Directory.free
  { s1 with dir := { s1.dir with cache := s1.dir.cache.filter (fun e => !inMain e.1) } }

/-! ## Functions (R362, R363) -/

/-- Step 4 of R362, once a function's jobs have ended: its segments, programs and directories go. -/
def destroyFn (s : State) (f : Fin 64) : State :=
  let s1 : State := { s with objs := { s.objs with
      segs := s.objs.segs.filter (fun e => match e.2 with | some o => decide (o.func ≠ f) | none => true),
      progs := s.objs.progs.filter (fun e => match e.2 with | some o => decide (o.func ≠ f) | none => true) } }
  ((s1.dir.dirs.filter (fun e => decide (e.2.func = f))).map (·.1)).foldl freeDir s1

/-- The vault slots that hold a function's keys. -/
def fnKeys (s : State) (f : Fin 64) : List Nat :=
  (s.objs.vault.filter (fun e => e.2.valid && decide (e.2.func = f))).map (·.1)

/-- Step 5 of R362. -/
def closeFn (s : State) (f : Fin 64) (keep : Bool) : State :=
  let off := fun (q : Fin 4096) => decide (fnOf q = f)
  let s1 : State := { s with
    rqe := { s.rqe with
      qps := (s.rqe.qps.filter (fun e => decide (e.1 / 64 = f.val))).foldl (fun l e => tset Qp.reset l e.1 (closeQp e.2)) s.rqe.qps,
      inbox := s.rqe.inbox.filter (fun e => !off e.q),
      running := s.rqe.running.filter (fun e => !off e.q),
      compl := s.rqe.compl.filter (fun e => !off e.q) },
    hl := { s.hl with flr := s.hl.flr.filter (fun r => decide (r.1 ≠ f)),
                      kept := if keep then s.hl.kept ||| BitVec.ofNat 64 (2 ^ f.val) else s.hl.kept } }
  if keep then s1 else zeroPart s1 f

/-- Steps 4 and 5 of R362, once a function's jobs have ended. The Termite engine wipes its keys, and the reset ends when no
key is left. -/
def finishFlr (s : State) (f : Fin 64) (keep : Bool) : State :=
  let s1 := destroyFn s f
  let ks := fnKeys s1 f
  if ks.isEmpty then closeFn s1 f keep
  else if s1.objs.wipes.any (fun w => match w with | .function g _ => decide (g = f) | .vault => true | _ => false) then s1
  else startWipe s1 (.function f ks)

/-- The sources in service at the host's target are completed when the PF is reset (R402). -/
def completeHost (s : State) : State :=
  s.evc.src.foldl (fun a e => if e.2.insvc = some 17 then setSrc a e.1 { e.2 with insvc := none } else a) s

/-- A job that waits for the DAU's decision, and whose completion queue lies in queue memory: its entry is still due after a
host-link loss (R21, R363). -/
def stillDue (s : State) (e : InEntry) : Bool := decide (entOpc e.entry = 0x01) && (getQp s e.q.val).cqloc

/-- Steps 1 and 3 of R362: fetching stops, and commands that run are abandoned. -/
def beginFlr (s0 : State) (f : Fin 64) (keep : Bool) : State :=
  let s := if f.val = 0 then completeHost s0 else s0
  let off := fun (q : Fin 4096) => decide (fnOf q = f)
  { s with
    hl := { s.hl with flr := s.hl.flr.filter (fun r => decide (r.1 ≠ f)) ++ [(f, keep)] },
    rqe := { s.rqe with
      inbox := s.rqe.inbox.filter (fun e => !off e.q || (keep && stillDue s e)),
      running := s.rqe.running.filter (fun e => !off e.q),
      compl := s.rqe.compl.filter (fun e => !(off e.q && e.ctx.isNone && !keep)) } }

/-- A context of a function has not been freed, or, after a host-link loss, an entry of a job of the function is still due. -/
def fnBusy (s : State) (f : Fin 64) (keep : Bool) : Bool :=
  s.ctxs.any (fun e => decide (e.2.func = f))
    || (keep && (s.rqe.inbox.any (fun e => decide (fnOf e.q = f)) || s.rqe.compl.any (fun e => decide (fnOf e.q = f))))

/-- Function resets whose jobs have ended are completed. -/
def settleFlr (s : State) : State :=
  s.hl.flr.foldl (fun a r => if fnBusy a r.1 r.2 then a else finishFlr a r.1 r.2) s

/-- An FLR (R362): accepted jobs are cancelled, and no entry is written for them. While the AS island is held in reset its contexts are lost
already, so the reset does not wait for them (R467). -/
def flrFn (s : State) (f : Fin 64) : State :=
  let s1 := beginFlr s f false
  let ended := (s1.rqe.compl.filter (fun k => decide (fnOf k.q = f))).filterMap (·.ctx)
  let s2 : State := { s1 with rqe := { s1.rqe with compl := s1.rqe.compl.filter (fun k => decide (fnOf k.q ≠ f)) } }
  let s3 := ended.foldl (fun a c => freeCtx a c) s2
  let live := (s3.ctxs.filter (fun e => decide (e.2.func = f))).map (·.1)
  if (s.pwr.islands[islAS.val]).inrst then settleFlr (live.foldl freeCtx s3)
  else settleFlr (live.foldl (fun a c => kill (modCtx a c (fun x => { x with cancel := true, silent := true })) c) s3)

/-! ## The host link goes down (R363) -/

/-- The link, the configuration space and the security state of every function after the link is lost; the link trains
again unless PERST# holds it in Detect (R361). -/
def linkDown (s : State) : State :=
  { s with parked := s.parked.filter (fun a => match a with | .bar4 _ | .claim (.host _) _ => false | _ => true),
           hl := { Hl.reset with training := s.pwr.core && !s.pwr.perst, cfg := s.hl.cfg, flr := s.hl.flr, kept := s.hl.kept, fnSel := s.hl.fnSel,
                                 errCnt := s.hl.errCnt, ctoCnt := s.hl.ctoCnt, aer := s.hl.aer, nextSession := s.hl.nextSession } }

/-- Host-link loss for one of the four causes of its record. -/
def hostLoss (s : State) (cause : Nat) : State :=
  if !s.hl.up then linkDown s
  else
    let s1 := closeBoth (offer (linkDown s) 0x0502 sevFault islHL.val cause 0 0) 5
    let s2 := endAllVoid s1 0x0502
    settleFlr ((List.finRange 64).foldl (fun a f => beginFlr a f true) s2)

/-! ## Requests that an island holds (R13, R431) -/

/-- An island that no longer serves requests answers those it holds with an error response (R13). -/
def answerAll (s : State) (i : Fin 34) : State :=
  let l := (s.fab.ports.filter (fun e => decide (e.1 / 64 = i.val))).flatMap (·.2) ++ tget [] s.fab.held i.val ++ tget [] s.fab.unacked i.val
  let s1 := l.foldl (fun a r => respond a i r.t 1 []) s
  { s1 with fab := { s1.fab with ports := s.fab.ports.filter (fun e => decide (e.1 / 64 ≠ i.val)),
                                 held := tset [] s.fab.held i.val [], unacked := tset [] s.fab.unacked i.val [] } }

/-! ## FM ports (R41, R45) -/

/-- The first byte of a range that lies behind a port. -/
def behindPort (s : State) (p : Fin 6) (ga len : Nat) : Option Nat :=
  ((List.range len).find? (fun i => match place s .dma (ga + i) with | some x => decide (x.region = .fm p) | none => false)).map (ga + ·)

/-- The oldest long load of a sequencer that is outstanding to a port fails, and with it those after it (R41, R252). -/
def failPortLoad (s : State) (p : Fin 6) (q : Fin 16) : State :=
  match (s.seqs[q.val]).loads.findSome? (fun l => if l.failed.isSome then none else (behindPort s p l.ga l.len).map (fun g => (l, g))) with
  | none => s
  | some (l, g) => failLoad (voidMem s .dma l.ctx g) q l (fault 6 0x0D 0 g)

/-- The stores of a sequencer that are on their way to a port fail (R41, R253). -/
def failPortStores (p : Fin 6) (q : Fin 16) : Nat → State → State
  | 0, s => s
  | n + 1, s =>
    match (s.seqs[q.val]).sb.zipIdx.findSome? (fun e => if e.1.sent then (behindPort s p e.1.ga e.1.bytes.length).map (fun g => (e, g)) else none) with
    | none => s
    | some ((e, i), g) => failPortStores p q n (deferFault (modSeq s q (fun x => { x with sb := dropStore x.sb i })) e.ctx g)

/-- Every request outstanding to a port completes with an error response: those in the island's crossings, loads and stores (R41). A stream
and a move of the DMA make their requests when their data comes, and meet the error then. -/
def failPort (s : State) (p : Fin 6) : State :=
  (List.finRange 16).foldl (fun a q => failPortStores p q 8 (failPortLoad a p q)) (answerAll s (islXP p))

/-- A port is withdrawn: its requests fail until firmware re-enables it, for which it first asserts PERST_XP#. -/
def withdraw (s : State) (p : Fin 6) (why : Nat) (up : Bool) : State :=
  if !s.map.portEn.getLsbD p.val then s
  else
    let m : BitVec 6 := BitVec.ofNat 6 (2 ^ p.val)
    let s1 : State := { s with map := { s.map with portEn := s.map.portEn &&& ~~~m }, pwr := { s.pwr with perstXp := s.pwr.perstXp ||| m } }
    let s2 := modXpt s1 p (fun x => { x with
      up := up, speed := if up then x.speed else 0, width := if up then x.width else 0, qualified := false,
      qstate := if x.qstate = 1 then 3 else x.qstate, qstart := false, cur := 0 })
    offer (failPort s2 p) 0x0213 sevFault (islXP p).val p.val why 0

/-! ## Islands (R159, R417 to R420, R456, R458) -/

/-- The contexts resident on a sequencer end with a void guarantee; its banks are lost. -/
def clearSeq (s : State) (q : Fin 16) (cause : Nat) : State :=
  let cs := (s.seqs[q.val].banks.toList.filterMap (·.occ))
  let s1 := cs.foldl (fun a c =>
    let a1 := completeFrames (cancelStreams (voidJob a c cause) c) c
    unlist (modCtx a1 c (fun y => { dropDemand y with st := .ending, res := false, dying := true, waiton := 0 })) c) s
  let s2 := s1.evc.src.foldl (fun a e => match e.2.insvc with
    | some t => if t.val = q.val then setSrc a e.1 { e.2 with insvc := none } else a
    | none => a) s1
  modSeq s2 q (fun _ => { Seq.reset with st := 0 })

/-- What a directory step of a stream meets when the DR island is reset (R159): the stream ends at its first element whose operation has
not retired. A stream that went back to an uncommitted strip runs on to that element with the results that the engine kept (R157). -/
def drEndStrm (s : State) (p : Fin 8) (e : Fin 64) (t : Stream) : State :=
  match (chainOf t).find? isDirStep with
  | none => s
  | some x =>
    if t.phase = .ended then s
    else
      let k := dirAt (chainOf t)
      let s1 := voidJob (if dirUpdates x.op then suspect s (immHandle x.imm) 4 else s) t.ctx 0x0602
      match t.phase, unserved t with
      | .active _, r :: _ => setStream (drawn s1) p e (some (waveFinish s1 p (dirStop t (strmFault r.i 0x0D 0 0 10 k))))
      | .active _, [] =>
        if t.fault.isSome then s1
        else if t.dirRec.any (fun z => decide (t.next ≤ z.i)) then setStream s1 p e (some { t with drLost := true })
        else setStream s1 p e (some { t with fault := some (strmFault t.next 0x0D 0 0 10 k) })
      | _, _ =>
        if t.dirRec.any (fun z => decide (t.next ≤ z.i)) then setStream s1 p e (some { t with drLost := true })
        else abortStrm s1 p e 0x0D 0 0x0602 4 10 k

/-- The streams with a directory step that a reset of DR ends. -/
def drStreams (s : State) : List (Fin 8 × Fin 64) :=
  (List.finRange 8).flatMap (fun p => (List.finRange 64).filterMap (fun e => match getStream s p e with
    | some t => if t.phase ≠ .ended ∧ t.phase ≠ .held ∧ t.bad.isNone = true ∧ ((chainOf t).find? isDirStep).isSome = true
        then some (p, e) else none
    | none => none))

/-- The DR island is reset (R159). -/
def resetDR (s : State) : State :=
  let l := drStreams s
  let s2 := l.foldl (fun a x => match getStream a x.1 x.2 with | some t => drEndStrm a x.1 x.2 t | none => a) s
  let s3 : State := { s2 with dir := { Dir.reset with dirs := tmap Directory.free (fun x => { x with fvalid := false }) s2.dir.dirs } }
  resetPage (offer s3 0x0602 sevFault islDR.val l.length 0 0) .dir

/-- The AS island is reset: every job ends, and the DAU, the CSC and the EVC take their reset values. -/
def resetAS (s : State) (cause : Nat) : State :=
  let s1 := abortRunning (endAllVoid s cause) (fun k => match k with | .load .. => true | _ => false)
  let s2 : State := { s1 with dau := { Dau.reset with order := s1.dau.order },
                              csc := { Csc.reset with poolRsv := s1.csc.poolRsv }, evc := .reset }
  [PageId.dau, .csc, .evc].foldl resetPage s2

/-- The HL island is reset: the link is lost, and its pages take their reset values (R456). -/
def resetHL (s : State) (cause : Nat) : State :=
  let s1 := abortRunning s (fun k => match k with | .dma .. => true | .load .. => true | _ => false)
  let s2 := hostLoss s1 cause
  let s3 : State := { s2 with hl := { Hl.reset with training := s2.hl.training, flr := s2.hl.flr, kept := s2.hl.kept, nextSession := s2.hl.nextSession },
                              map := { s2.map with sets := .init (Vector.replicate 4 .reset) } }
  [PageId.hlk, .rqe, .map].foldl resetPage s3

/-- A pipe's registers take their reset values; its table and its streams stay. -/
def clearPipeRegs (s : State) (p : Fin 8) : State :=
  resetPage (modPipe s p (fun x => { Pipe.reset with table := x.table, waiting := x.waiting, issued := x.issued })) (.pipe p)

/-- An LM controller after a reset of its island: the stack keeps its contents and its repairs. -/
def clearLmc (x : Lmc) : Lmc :=
  { Lmc.reset with trained := x.trained, degraded := x.degraded, therm := x.therm, spareUsed := x.spareUsed,
                   spareFree := x.spareFree, retired := x.retired, repairs := x.repairs }

/-- The responses that wait for a credit and satisfy a condition go out, the credits of their links being restored (R13, R431). -/
def flushRsps (s : State) (p : FabRsp → Bool) : State :=
  (s.fab.rsps.filter p).foldl (fun a r => send a (.rsp (srcIsl r.t) (xTag r.t) r.rstat r.poisoned r.bytes))
    { s with fab := { s.fab with rsps := s.fab.rsps.filter (fun r => !p r) } }

/-- The links of an island empty their buffers and restore their credits (R431), and its requests are answered (R13). -/
def clearLinks (s0 : State) (i : Fin 34) : State :=
  let s := flushRsps (answerAll s0 i) (fun r => decide (r.src = i) || decide (srcIsl r.t = i))
  let own := fun (k : Nat) => decide (k / 64 ≠ i.val)
  { s with fab := { s.fab with
      credits := s.fab.credits.filter (fun e => decide (e.1 / 34816 ≠ i.val) && decide (e.1 / 1024 % 34 ≠ i.val)),
      ports := s.fab.ports.filter (fun e => own e.1), last := s.fab.last.filter (fun e => own e.1),
      blocked := s.fab.blocked.filter (fun e => own e.1),
      held := s.fab.held.filter (fun e => decide (e.1 ≠ i.val)),
      unacked := s.fab.unacked.filter (fun e => decide (e.1 ≠ i.val)) } }

/-- The effects of an island reset on the island's own state (R456). -/
def islandEffects (s0 : State) (i : Fin 34) (cause : Nat) : State :=
  let s := clearLinks s0 i
  if i.val = 0 then resetHL s 1
  else if h : 1 ≤ i.val ∧ i.val < 7 then
    let p : Fin 6 := ⟨i.val - 1, by omega⟩
    resetPage (modXpt (withdraw s p 1 false) p (fun _ => .reset)) (.xpt p)
  else if h : 7 ≤ i.val ∧ i.val < 19 then
    let n : Fin 12 := ⟨i.val - 7, by omega⟩
    resetPage (modLmc s n clearLmc) (.lmc n)
  else if h : 19 ≤ i.val ∧ i.val < 27 then
    let p : Fin 8 := ⟨i.val - 19, by omega⟩
    clearPipeRegs (resetPipe s p) p
  else if h : 27 ≤ i.val ∧ i.val < 31 then
    (List.finRange 4).foldl (fun a k =>
      let q : Fin 16 := ⟨4 * (i.val - 27) + k.val, by omega⟩
      resetPage (clearSeq a q cause) (.seq q)) s
  else if i = islDR then resetDR (abortRunning s (fun k => match k with | .fill _ => true | _ => false))
  else if i = islAS then resetAS s cause
  else s

/-- The scratchpad of a sequencer is lost. -/
def clearScratch (s : State) (q : Fin 16) : State :=
  clearRange s (onDieBase + 0x100000 * q.val) (onDieBase + 0x100000 * (q.val + 1))

/-- A retention domain wakes (R420): none of it stays where the stored epoch differs. Of the sequencer only the bank arrays were held, so
its logic and its page start from their reset values (R417, R458). Log entry 31. -/
def wakeSeq (s : State) (q : Fin 16) : State :=
  let h := hdr s (.seq q)
  let s0 := modSeq s q (fun x => { Seq.reset with st := 0, banks := x.banks.map (fun b => { b with ibuf := [], btb := [] }) })
  let s1 := modHdr (resetPage s0 (.seq q)) (.seq q) (fun x => { x with epoch := h.epoch })
  if h.epoch = s.pwr.epoch then modMem (modHdr s1 (.seq q) (fun x => { x with stale := false })) q.val (fun m => { m with stale := false })
  else
    let s2 := modSeq (clearScratch s1 q) q (fun x => { x with banks := Vector.replicate 8 Bank.empty })
    let s3 := modMem (modHdr s2 (.seq q) (fun x => { x with stale := true })) q.val (fun m => { m with stale := true })
    offer s3 0x0303 sevNotice (islSQ q).val 0x70 q.val 0

/-- The EVC wakes (R401): pulses held at the crossing are applied, hold-offs have ended. -/
def wakeEvc (s : State) : State :=
  let h := hdr s .evc
  let s1 : State :=
    if h.epoch = s.pwr.epoch then
      modHdr { s with evc := { s.evc with grp := s.evc.grp.filterMap (fun e => if e.2.holdoff = 0 then none else some (e.1, { e.2 with hact := false })) } }
        .evc (fun x => { x with stale := false })
    else offer (modHdr { s with evc := { Evc.reset with held := s.evc.held } } .evc (fun x => { x with stale := true })) 0x0303 sevNotice islAS.val 0x3 0 0
  let s2 := s1.evc.held.foldl applyPulse { s1 with evc := { s1.evc with held := [] } }
  evcSettle ((List.range 64).foldl (fun a n => match srcPage n with
    | some pg => setSrc a n { srcState a n with input := decide ((hdr a pg).pend &&& ~~~(hdr a pg).msk ≠ 0) }
    | none => a) s2)

/-- The stream buffer of a pipe is lost. -/
def clearSbuf (s : State) (p : Fin 8) : State :=
  clearRange s (onDieBase + 0x1000000 + 0x400000 * p.val) (onDieBase + 0x1000000 + 0x400000 * (p.val + 1))

/-- The AS island wakes from RETAIN: but for the event state of R401, what its logic held is lost (R458). Log entry 31. -/
def wakeAS (s : State) : State :=
  wakeEvc ([PageId.dau, .csc].foldl resetPage
    { s with dau := { Dau.reset with order := s.dau.order }, csc := { Csc.reset with poolRsv := s.csc.poolRsv } })

/-- Firmware asserts PERST_XP# of a port. -/
def assertPerstXp (s : State) (p : Fin 6) : State :=
  { s with pwr := { s.pwr with perstXp := s.pwr.perstXp ||| BitVec.ofNat 6 (2 ^ p.val) } }

/-- Firmware brings up a port whose island has woken, if it has an expander: it asserts PERST_XP# first (R45, R491). -/
def bringUpPort (s : State) (p : Fin 6) : State := if s.pwr.prsntXp.getLsbD p.val then assertPerstXp s p else s

/-- An island comes back to RUN from its sleep state (R458). -/
def wakeIsland (s0 : State) (i : Fin 34) : State :=
  let st := (s0.pwr.islands[i.val]).st
  let s := modIsl s0 i (fun x => { x with st := .run, req := .run, waking := false })
  match st with
  | .run | .clkstop => s
  | .off =>
    let s1 := islandEffects s i 0x0106
    if h : 19 ≤ i.val ∧ i.val < 27 then clearSbuf s1 ⟨i.val - 19, by omega⟩
    else if h : 1 ≤ i.val ∧ i.val < 7 then bringUpPort s1 ⟨i.val - 1, by omega⟩
    else if h : 27 ≤ i.val ∧ i.val < 31 then
      (List.finRange 4).foldl (fun a k => clearScratch a ⟨4 * (i.val - 27) + k.val, by omega⟩) s1
    else s1
  | .retain =>
    if h : 19 ≤ i.val ∧ i.val < 27 then clearPipeRegs (clearSbuf s ⟨i.val - 19, by omega⟩) ⟨i.val - 19, by omega⟩
    else if h : 27 ≤ i.val ∧ i.val < 31 then
      (List.finRange 4).foldl (fun a k => wakeSeq a ⟨4 * (i.val - 27) + k.val, by omega⟩) s
    else if i = islAS then wakeAS s
    else if h : 1 ≤ i.val ∧ i.val < 7 then
      let p : Fin 6 := ⟨i.val - 1, by omega⟩
      bringUpPort (resetPage (modXpt (withdraw s p 1 false) p (fun _ => .reset)) (.xpt p)) p
    else s

/-- An XP island whose port has no expander stays in OFF (R459). -/
def stuckOff (s : State) (i : Fin 34) : Bool :=
  decide (1 ≤ i.val) && decide (i.val < 7) && !s.pwr.prsntXp.getLsbD (i.val - 1)

/-- An island reset that firmware commands (R456 kind 4, R466). -/
def resetIsland (s : State) (i : Fin 34) : State :=
  let s1 := if (s.pwr.islands[i.val]).st = .run then s else wakeIsland s i
  let s2 := offer (resetRecord s1 4 i.val) 0x0106 sevFault islMG.val 1 i.val 0
  let st : IslState := if stuckOff s i then .off else .run
  modIsl (islandEffects s2 i 0x0106) i (fun x => { x with inrst := false, st := st, req := st, waking := false })

/-! ## The core rails go off, and module resets (R412, R451 to R453, R456) -/

/-- The pages of the MG island. -/
def mgPage : PageId → Bool
  | .glb | .pwr | .evr | .lms | .fab => true
  | _ => false

/-- Every page number. -/
def allPages : List PageId := (List.finRange 54).map pageOf

/-- The requests that wait for a held block fail, since it goes down (R13); host: the host still waits for an answer. -/
def failParked (s : State) (host : Bool) : State :=
  s.parked.foldl (fun a x => match x with
    | .j9 _ => send a (.rsp islMG 0 1 false [])
    | .bar4 (.read ..) => if host then urAnswer a else a
    | .bar4 (.write ..) => if host then urDrop a else a
    | .claim ag _ => if ag = .fw || host then send a (.reg ag 0) else a
    | .complete .. => a) { s with parked := [] }

/-- The core rails are off: all state of the core islands is lost. What the host, the expanders, the fuses, the flash
and the MG island hold stays, the counts of the LMS and FAB pages among it. The accesses of J9 that waited are answered (R13). -/
def coreLost (s0 : State) : State :=
  let sa := flushRsps ((List.finRange 34).foldl answerAll s0) (fun _ => true)
  let s := failParked sa false
  let s1 : State := { s with
    mem := s.mem.filter (fun e => decide (fmBase 0 ≤ e.1)), poison := s.poison.filter (fun k => decide (fmBase 0 ≤ k)),
    upset := s.upset.filter (fun e => decide (fmBase 0 ≤ e.1)),
    qmem := [], glb := { s.glb with ready := false, fmenum := false, qual := false },
    pwr := { s.pwr with core := false, clkreq := s.pwr.perst, level := 0, perstXp := 0,
                        islands := (Vector.replicate 34 (Island.reset false)).set 33 s.pwr.islands[33] },
    evc := .reset, hl := { Hl.reset with nextSession := s.hl.nextSession }, rqe := .reset,
    dau := { Dau.reset with order := s.dau.order }, csc := .reset, ctxs := [],
    objs := { s.objs with segs := [], progs := [] },
    lmcs := s.lmcs.map (fun x => { Lmc.reset with repairs := x.repairs }), xpts := Vector.replicate 6 .reset,
    map := { sets := .init (Vector.replicate 4 .reset), portEn := 0 }, pipes := Vector.replicate 8 .reset,
    seqs := Vector.replicate 16 .reset, dir := .reset,
    lms := { s.lms with mems := tmap MemErr.reset (fun x => { x with correct := [] }) s.lms.mems, resend := [], answers := [] },
    fab := { Fab.reset with cfg := s.fab.cfg, sel := s.fab.sel, ce := s.fab.ce, ue := s.fab.ue, hold := s.fab.hold,
                            floorCnt := s.fab.floorCnt } }
  (allPages.filter (fun pg => !mgPage pg)).foldl resetPage s1

/-- The counts of the core islands and their memories after a reset of them; those of the vault and of the MG island stay (R456). -/
def clearCounts (s : State) : State :=
  let own := fun (e : Nat × Reg32) => decide (e.1 = islMG.val)
  { s with lms := { s.lms with mems := s.lms.mems.filter (fun e => decide (e.1 = 26)), coll := [] },
           fab := { s.fab with ce := s.fab.ce.filter own, ue := s.fab.ue.filter own, hold := s.fab.hold.filter own,
                               floorCnt := s.fab.floorCnt.filter own } }

/-- Steps 3 and 4 of a lifecycle transition (R463): the fuses are programmed, and the wipe begins. -/
def lifecycleFuse (s : State) (t : Fin 5) : State :=
  let used := if s.pwr.lc = 2 ∧ t = 3 then s.pwr.diagUsed + 1 else s.pwr.diagUsed
  startWipe { s with pwr := { s.pwr with lc := t, diagUsed := used, lcPend := none, lcWipe := some s.pwr.lc } } .vault

/-- A warm reset (R456 kind 1): the vault is wiped before the core islands leave reset. A transition that waits for entries goes on, since the
host link goes down (R463). -/
def warmReset (s0 : State) (mgmt : Bool) : State :=
  let s := match s0.pwr.lcPend with | some t => lifecycleFuse s0 t | none => s0
  let s1 := startWipe (resetRecord s 1 0) .vault
  let s2 := if mgmt then offer s1 0x0106 sevFault islMG.val 0 0 0 else s1
  let s3 := clearCounts (coreLost s2)
  { s3 with
    glb := { s3.glb with warm := if s3.glb.warm = 0xFFFF#16 then s3.glb.warm else s3.glb.warm + 1, last := 1 },
    pwr := { s3.pwr with
      floor := false, withhold := false, pfw := false, holdup := false, grace := false, stopped := false, resetPend := none,
      tamperPend := false, clkreq := true } }

/-- The MG island's own state after a cold reset: flash, fuses, pins and measurements stay. -/
def coldPwr (s : State) (epoch : Word) : Pwr :=
  let p := s.pwr
  { Pwr.reset epoch with
    mv := p.mv, iin := p.iin, w := p.w, active := p.active, lc := p.lc, diagUsed := p.diagUsed, tamper := p.tamper, locked := p.locked,
    jmax := p.jmax, smax := p.smax, cplate := p.cplate, senseP := p.senseP, senseN := p.senseN, inrush := p.inrush, perst := p.perst,
    prsntXp := p.prsntXp, image := p.active, auxok := p.auxok, tamperDue := p.tamperDue,
    tripHold := p.tripHold }

/-- What every cold reset does (R456 kind 0): every register takes its reset value, and the vault is wiped. The log,
the counts and the time base of the event recorder stay; its buffer does not. -/
def coldClear (s : State) : State :=
  let e := Config.entropy s.free
  let s0 := coreLost { s with free := s.free + 1 }
  let s1 : State := { s0 with
    pwr := coldPwr s0 e, glb := .reset, evr := { s0.evr with rate := .init 8, buf := [], flushing := false }, lms := .reset, fab := .reset,
    objs := { s0.objs with vaultFail := false } }
  startWipe (allPages.foldl resetPage s1) .vault

/-- A cold reset of a module whose MG island keeps its power. -/
def coldReset (s : State) (mgmt : Bool) : State :=
  let s1 := offer (coldClear s) 0x0105 sevNotice islMG.val 0 0 0
  if mgmt then offer s1 0x0106 sevFault islMG.val 0 0 0 else s1

/-- A module reset. -/
def doReset (s : State) (cold mgmt : Bool) : State := if cold then coldReset s mgmt else warmReset s mgmt

/-- A module reset that is asked for; it waits for a running flush pass (R466). -/
def moduleReset (s : State) (cold mgmt : Bool) : State :=
  if s.evr.flushing then
    let p := s.pwr.resetPend.getD (false, false)
    { s with pwr := { s.pwr with resetPend := some (cold || p.1, mgmt || p.2) } }
  else doReset s cold mgmt

/-! ## What waits for jobs to end -/

/-- Steps 5 and 6 of a lifecycle transition, once its wipe has ended (R463). -/
def lifecycleFinish (s : State) : State :=
  match s.pwr.lcWipe with
  | some old =>
    if s.objs.wipes.contains .vault then s
    else
      let s1 : State := { s with pwr := { s.pwr with lcWipe := none } }
      moduleReset (offer (bumpEpoch s1) 0x0109 sevNotice islMG.val old.val s.pwr.lc.val s.pwr.diagUsed.toNat) false false
  | none => s

/-- After a tamper event every core island except HL is held in reset (R465), and answers the requests that it holds (R13). What is left of the
jobs then, where the host link is down and no entry can be written, is lost with the AS island. -/
def holdIslands (s0 : State) : State :=
  let s1 := ((List.finRange 34).filter (fun i => decide (i.val ≠ 0) && decide (i.val ≠ 33))).foldl answerAll s0
  let s2 := (liveCtxs s1).foldl freeCtx (failParked s1 s1.hl.up)
  let s : State := { s2 with rqe := { s2.rqe with inbox := s2.rqe.inbox.filter (fun e => decide (entOpc e.entry ≠ 0x01)) } }
  { s with pwr := { s.pwr with tamperPend := false,
                               islands := Vector.ofFn (fun (i : Fin 34) =>
                                 if i.val = 0 ∨ i.val = 33 then s.pwr.islands[i.val] else { s.pwr.islands[i.val] with inrst := true }) } }

/-- Whether a fetched job's entry is still to be written while the link is up. -/
def entriesDue (s : State) : Bool :=
  s.hl.up && (!s.ctxs.isEmpty || s.rqe.inbox.any (fun e => decide (entOpc e.entry = 0x01)) || !s.rqe.compl.isEmpty)

/-- What follows when jobs have ended: function resets complete, a lifecycle transition goes on, tamper holds the
islands. -/
def settle (s : State) : State :=
  let s1 := settleFlr s
  let s2 := if s1.pwr.tamperPend && !entriesDue s1 then settleFlr (holdIslands s1) else s1
  match s2.pwr.lcPend with
  | some t => if entriesDue s2 then s2 else lifecycleFuse s2 t
  | none => s2

/-- A completion waits: its CQ lies in host memory, and HLK is held (R482) or the pair's function is in D3hot (R350). -/
def complWaits (s : State) (k : Compl) : Bool :=
  !(getQp s k.q.val).cqloc && ((hdr s .hlk).held || s.hl.d3.getLsbD (fnOf k.q).val)

/-- COMPLETION_ENTRY_WRITE: the HL island writes the oldest completion that can be written (R368); none after the grace (R451). -/
def execCompletionEntryWrite (s : State) : Host.Outcome State Fault Refusal :=
  match s.rqe.compl.find? (fun k => !complWaits s k) with
  | none => .next s
  | some k =>
    if islandUp s islHL && !s.pwr.stopped then .next (settle (finishCompl s k (s.rqe.compl.erase k))) else .next s

/-- CONTEXT_ENDING: a context that must end and has nothing outstanding moves to ENDING (R320). -/
def execContextEnding (c : Fin 4194304) (s : State) : Host.Outcome State Fault Refusal :=
  let x := getCtx s c.val
  if x.dying && asUp s && canEnd s c.val && !s.pwr.stopped then
    .next (settle (modCtx (beginEnding s c.val) c.val (fun y => if y.st = .free then y else { y with dying := false })))
  else .next s

end Sys2Proof.Machine
end

