-- ==== Sys2Proof/Machine/HostCommands.lean ====
section
/-! DEFINITION. The commands of the submission entries and the admission decision (R137 to R140, R171 to R177, R369 to
R379, R445). -/

namespace Sys2Proof.Machine

/-! ## Admission (R171 to R177) -/

/-- The RQE passes an entry to the DAU: its island runs, and its page is not held (R177, R482). -/
def dauReady (s : State) : Bool := islandUp s islAS && !(hdr s .dau).held

/-- The fields of a JOB_SUBMIT entry (R372). -/
structure JobAsk where
  prog : Nat
  cls : Nat
  depth : Nat
  novec : Bool
  aff : Nat
  affseq : Nat
  deadline : Nat
  reldelay : Nat
  budget : Vector Reg32 11
  dirSlots : Vector (Option (Fin 1024)) 8
  segs : List Nat
  deriving DecidableEq, Repr

/-- The directories that an entry names. -/
def JobAsk.dirs (a : JobAsk) : List (Fin 1024) := a.dirSlots.toList.filterMap id

/-- Reads the fields. -/
def jobAsk (e : Entry1024) : JobAsk :=
  { prog := ef e 4 0 16, cls := ef e 4 16 2, depth := ef e 4 18 4, novec := decide (ef e 4 22 1 = 1), aff := ef e 4 23 2,
    affseq := ef e 4 25 4, deadline := ef e 8 0 32, reldelay := ef e 0x0C 0 20,
    budget := Vector.ofFn (fun c => BitVec.ofNat 32 (ef e (0x10 + 4 * c.val) 0 32)),
    dirSlots := Vector.ofFn (fun j => if ef e (0x40 + 2 * j.val) 15 1 = 1 then
      some ⟨ef e (0x40 + 2 * j.val) 0 10 % 1024, Nat.mod_lt _ (by decide)⟩ else none),
    segs := (List.range 14).map (fun n => ef e (0x50 + 2 * n) 0 14) }

/-- A program handle of a function. -/
def ownProg (s : State) (f : Fin 64) (h : Nat) : Option Prog :=
  match getProg s h with
  | some p => if 1 ≤ h ∧ h ≤ 4095 ∧ p.func = f then some p else none
  | none => none

/-- The lowest number that a rising list of numbers does not hold, from a number on. -/
def lowestFree : List Nat → Nat → Nat
  | [], n => n
  | k :: t, n => if k = n then lowestFree t (n + 1) else if k < n then lowestFree t n else n

/-- Check 1 of R173. -/
def jobReserved (e : Entry1024) (a : JobAsk) : Bool :=
  entRsvd e || decide (2 ≤ a.cls) || decide (a.aff = 3) || (decide (a.cls = 0) && decide (a.reldelay ≠ 0))

/-- A directory that check 3 names: missing or of another function. -/
def dirMissing (s : State) (f : Fin 64) (h : Fin 1024) : Bool :=
  decide ((getDir s h.val).st = .free) || decide ((getDir s h.val).func ≠ f)

/-- Check 3 of R173 but for directories in state CREATING. -/
def jobMalformed (s : State) (f : Fin 64) (a : JobAsk) : Bool :=
  (ownProg s f a.prog).isNone || a.segs.any (fun h => decide (h ≠ 0) && (ownSeg s f h).isNone)
    || a.dirs.any (dirMissing s f) || decide (7 < a.depth)
    || (if a.cls = 1 then decide (a.deadline ≠ 0) || a.budget.any (fun b => decide (b ≠ 0))
        else decide (a.deadline = 0) || decide (a.budget[9] = 0) || decide (a.budget[10] = 0))

/-- A named directory in state CREATING (R139). -/
def jobCreating (s : State) (a : JobAsk) : Bool := a.dirs.any (fun h => decide ((getDir s h.val).st = .creating))

/-- The lowest unqualified port on which a budget counts (check 5). -/
def unqualified (s : State) (a : JobAsk) : Option Nat :=
  ((List.finRange 6).find? (fun p => decide (a.budget[1 + p.val] ≠ 0) && !(s.xpts[p.val]).qualified)).map (·.val)

/-- No context is free, or the save-area pool cannot cover a guaranteed job (check 6, R305). -/
def noContext (s : State) (a : JobAsk) : Bool :=
  decide (4194304 ≤ s.ctxs.length)
    || (decide (a.cls = 0) && decide (524288 < s.csc.poolRsv + (if a.novec then 1 else 10)))

/-- The per-job caps (R169). -/
def jcap (c : Nat) : Nat := match c with | 0 => 48000 | 7 => 1600 | 8 => 6400 | 9 => 1600 | _ => 0

/-- B[c] with the 3,000 Q-cycles of class 9 (R174, R175). -/
def jobDemand (a : JobAsk) (c : Fin 11) : Nat := a.budget[c.val].toNat + (if c.val = 9 then 3000 else 0)

/-- The slots from now to an effective deadline: 0 once it has passed (R174). -/
def effDist (s : State) (x : Ctx) : Nat := if distance s x.dlslot < distance s x.eff then 0 else distance s x.eff

/-- The remaining demand of accepted jobs in a class that is due within a number of slots. -/
def dueDemand (s : State) (c : Fin 11) (t : Nat) : Nat :=
  s.ctxs.foldl (fun n e => if e.2.held && decide (effDist s e.2 ≤ t) then n + e.2.rem[c.val] else n) 0

/-- The slots at which demand steps up, from an effective deadline on. -/
def stepSlots (s : State) (d : Nat) : List Nat :=
  d :: ((s.ctxs.filter (fun e => e.2.held && decide (d < effDist s e.2))).map (fun e => effDist s e.2))

/-- The module test of one class fails (R174): demand steps up only at the slots above, and capacity only grows. -/
def classFails (s : State) (cap : Nat) (b d : Nat) (c : Fin 11) : Bool :=
  (stepSlots s d).any (fun t => decide (cap * t < dueDemand s c t + b))

/-- The checks of R173 in order: the refusal code and detail. -/
def admitJob (s : State) (f : Fin 64) (e : Entry1024) : Option (Nat × Nat) :=
  let a := jobAsk e
  let g := decide (a.cls = 0)
  let setup := s.dau.cfg.active.setup.toNat
  if jobReserved e a then some (0x46, 0)
  else if g && !s.dau.gopen then some (0x44, closeCause s)
  else if !g && !s.dau.bopen then some (0x44, bcloseCause s)
  else if jobMalformed s f a then some (0x43, 0)
  else if g && jobCreating s a then some (0x43, 1)
  else if g && decide (1048576 ≤ a.deadline) then some (0x41, 0)
  else match (if g then unqualified s a else none) with
    | some p => some (0x45, p)
    | none =>
      if noContext s a then some (0x42, 0)
      else if !g then none
      else if a.deadline ≤ setup then some (0x40, 0x0F)
      else
        let d := a.deadline - setup
        match (List.finRange 11).find? (fun c => decide (jcap c.val ≠ 0) && decide (jcap c.val * d < jobDemand a c)) with
        | some c => some (0x40, c.val)
        | none => match (List.finRange 11).find? (fun c => classFails s (s.dau.cfg.active.caps[c.val]).toNat (jobDemand a c) d c) with
          | some c => some (0x40, c.val)
          | none => none

/-- The record of an accepted job (R174, R297). -/
def newCtx (s : State) (q : Fin 4096) (cid : BitVec 16) (a : JobAsk) : Ctx :=
  let f := fnOf q
  let g := decide (a.cls = 0)
  let n := s.dau.slot
  let dl := n + BitVec.ofNat 20 a.deadline
  let desc := fun (h : Nat) => (ownSeg s f h).getD 0
  { Ctx.free with
    st := .wait, be := !g, novec := a.novec, aff := BitVec.ofNat 2 a.aff, affseq := ⟨a.affseq % 16, Nat.mod_lt _ (by decide)⟩,
    queue := q, cid := cid, func := f, dlslot := if g then dl else 0, arrslot := n,
    relslot := n + BitVec.ofNat 20 a.reldelay, prog := BitVec.ofNat 16 a.prog, depth := BitVec.ofNat 3 a.depth,
    budget := a.budget, dirSlots := a.dirSlots,
    initseg := Vector.ofFn (fun (i : Fin 16) =>
      if i.val = 1 then (match ownProg s f a.prog with | some p => p.desc | none => 0)
      else if 2 ≤ i.val then desc ((a.segs[i.val - 2]?).getD 0) else 0),
    rem := if g then Vector.ofFn (fun c => jobDemand a c) else Vector.replicate 11 0,
    eff := dl - BitVec.ofNat 20 s.dau.cfg.active.setup.toNat, held := g,
    need := if g then (if a.novec then 1 else 10) else 0, order := s.dau.order }

/-- Step 4 of R18: the context enters WAIT or READY (R318). -/
def enterJob (s : State) (c : Nat) (a : JobAsk) : State :=
  if a.reldelay ≠ 0 then makeWait s c 5
  else if dirsCreating s (getCtx s c) then makeWait s c 4
  else makeReady s c

/-- The longest decision, in A-cycles, at most 120 (R176). -/
def noteDecision (s : State) : State :=
  let n := Config.freeTime s.free % 121
  { s with free := s.free + 1,
           dau := { s.dau with decMax := if s.dau.decMax.toNat < n then BitVec.ofNat 8 n else s.dau.decMax } }

/-- The DAU accepts a job. -/
def acceptJob (s : State) (e : InEntry) (a : JobAsk) : State :=
  let c := lowestFree (s.ctxs.map (·.1)) 0
  let x := newCtx s e.q (entCid e.entry) a
  let s1 := setCtx { s with dau := { s.dau with acc := satInc s.dau.acc, order := s.dau.order + 1 },
                            csc := { s.csc with poolRsv := s.csc.poolRsv + x.need } } c x
  enterJob s1 c a

/-- The DAU refuses a job (R173, R190, R373). -/
def refuseJob (s : State) (e : InEntry) (code detail : Nat) : State :=
  let s1 : State := { s with dau := { s.dau with
    ref := satInc s.dau.ref, lastQueue := BitVec.ofNat 12 e.q.val, lastDetail := BitVec.ofNat 8 detail,
    lastCode := BitVec.ofNat 8 code } }
  answer s1 e code detail (2 ^ 32 * s.dau.slot.toNat) (s.dau.slot.toNat + 0xF * 2 ^ 32)

/-- The JOB_CANCELs that wait for the decision on a job take effect after it (R22): they cancel an accepted one; after a refusal they wait for
the next job they name, or complete with NOT_FOUND where it was the last. -/
def afterDecision (s : State) (e : InEntry) (acc : Option Nat) : State :=
  let due := fun (r : Running) => match r.kind with
    | .cancelDue q cid _ => decide (q = e.q) && decide (cid = entCid e.entry)
    | _ => false
  match acc with
  | some c =>
    if s.rqe.running.any due then
      let s1 : State := { s with rqe := { s.rqe with running := s.rqe.running.map (fun r => if due r then { r with kind := .cancel c } else r) } }
      kill (modCtx s1 c (fun x => { x with cancel := true })) c
    else s
  | none =>
    let last := fun (r : Running) => due r && (match r.kind with | .cancelDue _ _ n => decide (n ≤ 1) | _ => false)
    let less := fun (r : Running) => match r.kind with
      | .cancelDue q cid n => if due r then { r with kind := RunKind.cancelDue q cid (n - 1) } else r
      | _ => r
    (s.rqe.running.filter last).foldl (fun a r => post a r.q r.cid r.cfg 0x04 0 0 0)
      { s with rqe := { s.rqe with running := (s.rqe.running.filter (fun r => !last r)).map less } }

/-- JOB_SUBMIT: the DAU decides on the next entry (R173, R177). A DAU with EN = 0 answers it with an error response (R476), which R371
calls DATA_ERROR with detail 2. DEDUCED, log entry 29. -/
def execJobSubmit (s : State) : Host.Outcome State Fault Refusal :=
  match (if dauReady s then takeEntry s 0x01 else none) with
  | none => .next s
  | some (e, s1) =>
    if !(hdr s .dau).en then .next (afterDecision (answer s1 e 0x07 2 0 0) e none) else
    let s2 := noteDecision s1
    match admitJob s2 (fnOf e.q) e.entry with
    | some r => .next (afterDecision (refuseJob s2 e r.1 r.2) e none)
    | none =>
      let s3 := acceptJob s2 e (jobAsk e.entry)
      .next (afterDecision (sweep s3.rqe.inbox.length s3) e (some (lowestFree (s2.ctxs.map (·.1)) 0)))

/-! ## JOB_CANCEL (R22, R374) -/

/-- The accepted jobs that a cancel names, the earliest first. -/
def cancelTargets (s : State) (q : Nat) (cid : Nat) : List (Nat × Ctx) :=
  s.ctxs.filter (fun e => decide (e.2.queue.val = q) && decide (e.2.cid.toNat = cid) && decide (e.2.st ≠ .ending))

/-- The target accepted first. -/
def earliest : List (Nat × Ctx) → Option (Nat × Ctx)
  | [] => none
  | x :: t => match earliest t with
    | none => some x
    | some y => if y.2.order < x.2.order then some y else some x

/-- The JOB_SUBMITs that the cancel names and that still wait for the DAU. Those of the cancel's own SQ stand behind the cancel: they are
decided after it (R367). -/
def cancelEarly (s : State) (own : Fin 4096) (q cid : Nat) : Nat :=
  (s.rqe.inbox.filter (fun e => decide (e.q ≠ own) && decide (e.q.val = q) && decide (entOpc e.entry = 0x01)
    && decide ((entCid e.entry).toNat = cid))).length

/-- JOB_CANCEL: it waits while a matching job waits in step 3, and holds nothing back meanwhile. -/
def execJobCancel (s : State) : Host.Outcome State Fault Refusal :=
  match (if asUp s then takeEntry s 0x02 else none) with
  | none => .next s
  | some (e, s1) =>
    let q := 64 * (fnOf e.q).val + ef e.entry 4 0 6
    let cid := ef e.entry 8 0 16
    match earliest (cancelTargets s1 q cid) with
    | some (c, _) =>
      let s2 := kill (modCtx s1 c (fun x => { x with cancel := true })) c
      let s3 := runOn s2 e (.cancel c)
      .next (sweep s3.rqe.inbox.length s3)
    | none =>
      let n := cancelEarly s1 e.q q cid
      if n = 0 then .next (answer s1 e 0x04 0 0 0)
      else
        let s2 := runOn s1 e (.cancelDue ⟨q % 4096, Nat.mod_lt _ (by decide)⟩ (BitVec.ofNat 16 cid) n)
        .next (sweep s2.rqe.inbox.length s2)

/-! ## MEM_COPY, MEM_FILL, HOST_DMA_COMPLETE (R375, R377) -/

/-- The first test that fails of a source and a destination: each test tries the source first. -/
def firstSegFail (a b : Except Nat Nat) : Option Nat :=
  let rank := fun (r : Nat) => if r = 0x05 then 0 else if r = 0x03 then 1 else 2
  match a, b with
  | .error x, .error y => if rank y < rank x then some y else some x
  | .error x, _ => some x
  | _, .error y => some y
  | _, _ => none

/-- A length that a copy or a fill may have. -/
def lenOk (n : Nat) : Bool := decide (1 ≤ n) && decide (n ≤ 2 ^ 40)

/-- MEM_COPY. -/
def execMemCopy (s : State) : Host.Outcome State Fault Refusal :=
  match takeEntry s 0x03 with
  | none => .next s
  | some (e, s1) =>
    let f := fnOf e.q
    let n := ef e.entry 0x18 0 64
    let a := segTest s1 f (ef e.entry 4 0 14) .read (ef e.entry 8 0 64) n
    let b := segTest s1 f (ef e.entry 4 16 14) .write (ef e.entry 0x10 0 64) n
    match firstSegFail a b, a, b with
    | some r, _, _ => .next (refuse s1 e (if lenOk n then r else if r = 0x05 ∨ r = 0x03 then r else 0x01))
    | none, .ok src, .ok dst =>
      if lenOk n then
        let s2 := runOn s1 e (.dma { src := some src, pattern := 0, dst := dst, len := n, lost := [] })
        .next (sweep s2.rqe.inbox.length s2)
      else .next (refuse s1 e 0x01)
    | none, _, _ => .next s

/-- MEM_FILL. -/
def execMemFill (s : State) : Host.Outcome State Fault Refusal :=
  match takeEntry s 0x04 with
  | none => .next s
  | some (e, s1) =>
    let n := ef e.entry 0x18 0 64
    match segTest s1 (fnOf e.q) (ef e.entry 4 16 14) .write (ef e.entry 0x10 0 64) n with
    | .error r => .next (refuse s1 e r)
    | .ok dst =>
      if lenOk n then
        let s2 := runOn s1 e (.dma { src := none, pattern := BitVec.ofNat 64 (ef e.entry 0x20 0 64), dst := dst, len := n, lost := [] })
        .next (sweep s2.rqe.inbox.length s2)
      else .next (refuse s1 e 0x01)

/-- The status and detail of a move. -/
def moveStatus (poison error : Bool) : Nat × Nat := if error then (0x07, 2) else if poison then (0x07, 1) else (0, 0)

/-- The first running copy or fill. -/
def firstMove (s : State) : Option Running :=
  s.rqe.running.find? (fun r => r.kind.move?.isSome)

/-- A move reaches memory whose block holds (R482). -/
def DmaJob.waits (s : State) (j : DmaJob) : Bool :=
  decide (j.len ≠ 0) && (kindWaits s .dma j.dst || (match j.src with | some g => kindWaits s .dma g | none => false))

/-- HOST_DMA_COMPLETE: the oldest move in the host DMA is done; a PROGRAM_LOAD records its program (R375, R376). A move takes effect here,
so one that a reset ends (R377) has moved nothing. DESIGN CHOICE, log entry 145. -/
def execHostDmaComplete (s : State) : Host.Outcome State Fault Refusal :=
  match (if islandUp s islHL then (firstMove s).filter (fun r => !r.kind.move?.any (DmaJob.waits s)) else none) with
  | none => .next s
  | some r =>
    let s1 : State := { s with rqe := { s.rqe with running := s.rqe.running.erase r } }
    match r.kind with
    | .dma j =>
      let d := j.run s1
      let st := moveStatus d.poison d.error
      .next (post d.st r.q r.cid r.cfg st.1 st.2 d.moved d.poisonGa)
    | .load entry tsbp edtb desc j =>
      let d := j.run s1
      let st := moveStatus d.poison d.error
      let h := lowestFree (s1.objs.progs.map (·.1)) 1
      if st.1 ≠ 0 then .next (post d.st r.q r.cid r.cfg st.1 st.2 0 0)
      else if 4095 < h then .next (post d.st r.q r.cid r.cfg 0x05 0x05 0 0)
      else .next (post (setProg d.st h (some { entry := entry, tsbp := tsbp, edtb := edtb, desc := desc, func := fnOf r.q }))
        r.q r.cid r.cfg 0 0 h 0)
    | _ => .next s

/-! ## PROGRAM_LOAD (R376) -/

/-- A table of R332 lies in memory that hardware may use and the function may use. -/
def tableOk (s : State) (f : Fin 64) (ga n : Nat) : Bool :=
  ((decide (lmSoft ≤ ga) && decide (ga + n ≤ GiB * lmTopG s))
    || (List.range 16).any (fun q => decide (onDieBase + 0x100000 * q ≤ ga) && decide (ga + n ≤ onDieBase + 0x100000 * q + 0xFF000)))
  && inRegion s f ga (ga + n - 1)

/-- PROGRAM_LOAD with UNLOAD = 1. -/
def unloadProg (s : State) (e : InEntry) : State :=
  let h := ef e.entry 8 0 14
  if (ownProg s (fnOf e.q) h).isNone then refuse s e 0x05
  else if s.ctxs.any (fun x => decide (x.2.prog.toNat = h)) then refuse s e 0x0B
  else answer (setProg s h none) e 0 0 0 0

/-- The tests of a load: its reason, or the code segment and the source. -/
def loadTest (s : State) (f : Fin 64) (e : Entry1024) : Except Nat (Desc256 × Nat) :=
  let n := ef e 0x18 0 64
  let soff := ef e 0x10 0 64
  let code := ownSeg s f (ef e 4 0 14)
  let src := ownSeg s f (ef e 8 0 14)
  let loads := (s.rqe.running.filter (fun r => match r.kind with | .load .. => true | _ => false)).length
  match code with
  | none => .error 0x05
  | some d =>
    let x := src.getD 0
    if (n ≠ 0 ∧ src.isNone) ∨ 4095 ≤ s.objs.progs.length + loads then .error 0x05
    else if !dX d ∨ (n ≠ 0 ∧ !dR x) then .error 0x03
    else if ef e 0x20 0 64 % 4 ≠ 0 ∨ ef e 0x28 0 64 % 64 ≠ 0 ∨ ef e 0x30 0 64 % 64 ≠ 0 then .error 0x08
    else if dLimit d + 1 < n ∨ dLimit d < ef e 0x20 0 64 ∨ (n ≠ 0 ∧ dLimit x < soff + n - 1)
        ∨ tableOk s f (ef e 0x28 0 64) 512 = false ∨ tableOk s f (ef e 0x30 0 64) 8192 = false then .error 0x01
    else .ok (d, dBase x + soff)

/-- PROGRAM_LOAD. -/
def execProgramLoad (s : State) : Host.Outcome State Fault Refusal :=
  match (if asUp s then takeEntry s 0x10 else none) with
  | none => .next s
  | some (e, s1) =>
    if entRsvd e.entry then .next (refuse s1 e 0x02)
    else if ef e.entry 4 16 1 = 1 then .next (unloadProg s1 e)
    else match loadTest s1 (fnOf e.q) e.entry with
      | .error r => .next (refuse s1 e r)
      | .ok (d, src) =>
        .next (runOn s1 e (.load (BitVec.ofNat 64 (ef e.entry 0x20 0 64)) (BitVec.ofNat 64 (ef e.entry 0x28 0 64))
          (BitVec.ofNat 64 (ef e.entry 0x30 0 64)) d
          { src := some src, pattern := 0, dst := dBase d, len := ef e.entry 0x18 0 64, lost := [] }))

/-! ## Segments (R375) -/

/-- SEG_CREATE. -/
def execSegCreate (s : State) : Host.Outcome State Fault Refusal :=
  match (if asUp s then takeEntry s 0x11 else none) with
  | none => .next s
  | some (e, s1) =>
    let d : Desc256 := BitVec.ofNat 256 (ef e.entry 8 0 256)
    let h := lowestFree (s1.objs.segs.map (·.1)) 1
    if !descOk d then .next (refuse s1 e 0x02)
    else if !dV d || !inRegion s1 (fnOf e.q) (dBase d) (dBase d + dLimit d) then .next (refuse s1 e 0x01)
    else if 16383 < h then .next (refuse s1 e 0x05)
    else .next (answer (setSeg s1 h (some ⟨d, fnOf e.q⟩)) e 0 0 h 0)

/-- SEG_DESTROY. -/
def execSegDestroy (s : State) : Host.Outcome State Fault Refusal :=
  match (if asUp s then takeEntry s 0x12 else none) with
  | none => .next s
  | some (e, s1) =>
    let h := ef e.entry 4 0 14
    if (ownSeg s1 (fnOf e.q) h).isNone then .next (refuse s1 e 0x05)
    else .next (answer (setSeg s1 h none) e 0 0 0 0)

/-! ## Directories (R137 to R140) -/

/-- The parameters of DIR_CREATE. -/
structure DirAsk where
  ktype : Nat
  mainLog2 : Nat
  filtLog2 : Nat
  cache : Bool
  seed : Nat
  miss : Nat
  mainBase : Nat
  ovfBase : Nat
  ovfCount : Nat
  filtBase : Nat
  deriving DecidableEq, Repr

/-- Reads them from an entry. -/
def dirAsk (e : Entry1024) : DirAsk :=
  { ktype := ef e 4 0 4, mainLog2 := ef e 4 4 5, filtLog2 := ef e 4 9 5, cache := decide (ef e 4 14 1 = 1), seed := ef e 8 0 64,
    miss := ef e 0x10 0 64, mainBase := ef e 0x18 0 24, ovfBase := ef e 0x1C 0 24, ovfCount := ef e 0x20 0 25,
    filtBase := ef e 0x24 0 26 }

/-- The bucket ranges and the filter range of a directory. -/
def dirRanges (x : Directory) : List (Nat × Nat) :=
  [(x.mainBase.toNat, x.mainBase.toNat + 2 ^ x.mainLog2.toNat), (x.ovfBase.toNat, x.ovfBase.toNat + x.ovfCount.toNat)]
def dirFilter (x : Directory) : List (Nat × Nat) :=
  if x.filtLog2 = 0 then [] else [(x.filtBase.toNat, x.filtBase.toNat + 2 ^ x.filtLog2.toNat)]

/-- The tests of R138 in order. -/
def dirTest (s : State) (a : DirAsk) : Option Nat :=
  let fl := a.filtLog2
  let main := (a.mainBase, a.mainBase + 2 ^ a.mainLog2)
  let ovf := (a.ovfBase, a.ovfBase + a.ovfCount)
  let used := s.dir.dirs.flatMap (fun e => dirRanges e.2)
  if !(decide (a.ktype ≤ 7) || decide (a.ktype = 9) || decide (a.ktype = 10)) then some 0x02
  else if fl = 0 ∧ a.filtBase ≠ 0 then some 0x03
  else if a.mainLog2 < 8 ∨ 24 < a.mainLog2 ∨ (fl ≠ 0 ∧ (fl < 10 ∨ 26 < fl)) ∨ 2 ^ 24 < main.2 ∨ 2 ^ 24 < ovf.2
      ∨ (fl ≠ 0 ∧ 2 ^ 26 < a.filtBase + 2 ^ fl) then some 0x01
  else if a.mainBase % 2 ^ a.mainLog2 ≠ 0 ∨ (fl ≠ 0 ∧ a.filtBase % 2 ^ fl ≠ 0) then some 0x08
  else if meet main ovf || used.any (meet main) || used.any (meet ovf)
      || (decide (fl ≠ 0) && (s.dir.dirs.flatMap (fun e => dirFilter e.2)).any (meet (a.filtBase, a.filtBase + 2 ^ fl))) then some 0x09
  else if 1024 ≤ s.dir.dirs.length then some 0x05
  else none

/-- DIR_CREATE: the directory enters CREATING (R138). -/
def execDirCreate (s : State) : Host.Outcome State Fault Refusal :=
  match (if islandUp s islDR then takeEntry s 0x13 else none) with
  | none => .next s
  | some (e, s1) =>
    let a := dirAsk e.entry
    let h := lowestFree (s1.dir.dirs.map (·.1)) 0
    match dirTest s1 a with
    | some r => .next (refuse s1 e r)
    | none =>
      if hh : h < 1024 then
        let x : Directory :=
          { Directory.free with
            st := .creating, ktype := BitVec.ofNat 4 a.ktype, mainLog2 := BitVec.ofNat 5 a.mainLog2,
            filtLog2 := BitVec.ofNat 5 a.filtLog2, cache := a.cache, mainBase := BitVec.ofNat 24 a.mainBase,
            ovfBase := BitVec.ofNat 24 a.ovfBase, ovfCount := BitVec.ofNat 25 a.ovfCount,
            filtBase := BitVec.ofNat 26 a.filtBase, seed := BitVec.ofNat 64 a.seed, miss := BitVec.ofNat 64 a.miss, func := fnOf e.q }
        .next (runOn (setDir s1 h x) e (.fill ⟨h, hh⟩))
      else .next (refuse s1 e 0x05)

/-- Contexts that wait for directories become READY once none they name is CREATING (R318). -/
def wakeDirs (s : State) : State :=
  s.ctxs.foldl (fun a e =>
    if e.2.st = .wait ∧ e.2.waiton = 4 ∧ e.2.dying = false ∧ dirsCreating a e.2 = false then makeReady a e.1 else a) s

/-- The zero-fill of a directory's buckets and filter bits. -/
def zeroDir (s : State) (x : Directory) : State :=
  let s1 := (dirRanges x).foldl (fun a r => clearRange a (bucketGa r.1) (bucketGa r.2)) s
  (dirFilter x).foldl (fun a r => clearRange a (filterBase + r.1 / 8) (filterBase + r.2 / 8)) s1

/-- DIR_CREATE_FILL_DONE: the directory becomes READY (R138). -/
def execDirCreateFillDone (h : Fin 1024) (s : State) : Host.Outcome State Fault Refusal :=
  match (if islandUp s islDR then s.rqe.running.find? (fun r => decide (r.kind = .fill h)) else none) with
  | none => .next s
  | some r =>
    let x := getDir s h.val
    let s1 := setDir (zeroDir s x) h.val
      { x with st := .ready, seq := 0, ovfUsed := 0, depth := 0, entries := 0, fvalid := decide (x.filtLog2 ≠ 0) }
    let s2 : State := { s1 with rqe := { s1.rqe with running := s1.rqe.running.erase r } }
    .next (wakeDirs (post s2 r.q r.cid r.cfg 0 0 h.val 0))

/-- DIR_DESTROY (R140). -/
def execDirDestroy (s : State) : Host.Outcome State Fault Refusal :=
  match (if islandUp s islDR then takeEntry s 0x14 else none) with
  | none => .next s
  | some (e, s1) =>
    let h := ef e.entry 4 0 10
    let x := getDir s1 h
    if x.st = .free ∨ x.func ≠ fnOf e.q then .next (refuse s1 e 0x05)
    else if s1.ctxs.any (fun y => y.2.dirs.any (fun d => decide (d.val = h))) then .next (refuse s1 e 0x0B)
    else .next (answer (freeDir s1 h) e 0 0 0 0)

/-! ## Keys (R378, R411 to R413, R461) -/

/-- What KEY_INSTALL answers: a status, detail and handle, or a wipe to wait for. -/
inductive KeyAns where
  | done (s : State) (status detail res0 : Nat)
  | wait (s : State) (slot : Fin 4096) (refused : Bool)
  deriving DecidableEq, Repr

/-- A key goes into a slot. -/
def putKey (s : State) (k : Nat) (f : Fin 64) (key : BitVec 256) : State :=
  let clean := s.poison.filter (fun a => decide (a < vaultKey (64 * k)) || decide (vaultKey (64 * k + 64) ≤ a))
  setVault { s with poison := clean } k
    { key := key, func := f, valid := true, gen := (getVault s k).gen + 1, kchk := BitVec.ofNat 16 (crc16 (bytesOf key.toNat 32)) }

/-- The lowest slot without a key. -/
def freeSlot (s : State) : Nat := lowestFree ((s.objs.vault.filter (fun e => e.2.valid)).map (·.1)) 0

/-- KEY_INSTALL for a function, after the test of its protection. -/
def keyInstall (s : State) (f : Fin 64) (e : Entry1024) : KeyAns :=
  let key : BitVec 256 := BitVec.ofNat 256 (ef e 0x20 0 256)
  let alloc := decide (ef e 4 12 1 = 1)
  let erase := decide (ef e 4 13 1 = 1)
  let k := if alloc then freeSlot s else ef e 4 0 12
  let own := (getVault s k).valid && decide ((getVault s k).func = f)
  if erase && decide (key ≠ 0) then .done s 0x06 4 0
  else if s.pwr.lc = 3 ∨ s.pwr.lc = 4 then .done s 0x05 0x06 0
  else if alloc && erase then .done s 0x05 0x03 0
  else if s.objs.vaultFail then .done s 0x05 0x05 0
  else if h : k < 4096 then
    if !alloc && !own then .done s 0x05 0x05 0
    else if s.objs.wipes.any (fun w => wipeCovers w k) then .wait s ⟨k, h⟩ true
    else if erase then .wait (startWipe s (.slot ⟨k, h⟩)) ⟨k, h⟩ false
    else .done (putKey s k f key) 0 0 k
  else .done s 0x05 0x05 0

/-- KEY_INSTALL: only an entry that a Secure IDE stream carried (R360, R378). -/
def execKeyInstall (s : State) : Host.Outcome State Fault Refusal :=
  match takeEntry s 0x15 with
  | none => .next s
  | some (e, s1) =>
    if !e.prot then .next (answer s1 e 0x08 1 0 0)
    else match keyInstall s1 (fnOf e.q) e.entry with
      | .done s2 st d r => .next (answer s2 e st d r 0)
      | .wait s2 k refused => .next (runOn s2 e (.erase k refused))

/-- A secured session that is established (R359). -/
def sessionUp (s : State) (n : Nat) : Bool := s.hl.sessions.any (fun x => decide (x.id = n) && x.done)

/-- The completion entry that a DOE response carries: no queue, no phase. -/
def doeEntry (e : Entry1024) (status detail res0 : Nat) : BitVec 256 :=
  BitVec.ofNat 256 (res0 + 2 ^ 128 * (entCid e).toNat + 2 ^ 160 * status + 2 ^ 168 * detail)

/-- DOE_KEY_INSTALL (R378): a KEY_INSTALL entry in a secured session, for a named function. One that a wipe concerns is answered when the wipe
ends (R413). -/
def execDoeKeyInstall (session : Nat) (fn : Fin 64) (entry : Entry1024) (s : State) : Host.Outcome State Fault Refusal :=
  if !(islandUp s islHL && s.hl.up) then .next s
  else if !sessionUp s session then .next (send s (.spdmError 2))
  else if entOpc entry ≠ 0x15 then .next (send s (.doeCompletion (doeEntry entry 0x06 1 0)))
  else if entRsvd entry then .next (send s (.doeCompletion (doeEntry entry 0x06 4 0)))
  else match keyInstall s fn entry with
    | .done s1 st d r => .next (send s1 (.doeCompletion (doeEntry entry st d r)))
    | .wait s1 k refused => .next { s1 with hl := { s1.hl with doe := s1.hl.doe ++ [⟨entry, k, refused⟩] } }

/-- The end of a wipe completes an ERASE of a slot, or an install that the wipe refuses. -/
def wipeEnds (s : State) (w : Wipe) (k : Fin 4096) (refused : Bool) : Bool :=
  if refused then wipeCovers w k.val || s.objs.wipes.isEmpty else decide (w = .slot k)

/-- The DOE requests that the end of a wipe answers (R378, R413). -/
def wipeDoneDoe (s : State) (w : Wipe) : State :=
  let hit := fun (d : DoeWait) => wipeEnds s w d.slot d.refused
  (s.hl.doe.filter hit).foldl (fun a d => send a (.doeCompletion
      (if d.refused then doeEntry d.entry 0x05 0x05 0 else doeEntry d.entry 0 0 d.slot.val)))
    { s with hl := { s.hl with doe := s.hl.doe.filter (fun d => !hit d) } }

/-- The running commands that the end of a wipe completes (R378, R413). -/
def wipeDone (s : State) (w : Wipe) : State :=
  let hit := fun (r : Running) => match r.kind with
    | .erase k refused => wipeEnds s w k refused
    | _ => false
  (s.rqe.running.filter hit).foldl (fun a r => match r.kind with
    | .erase _ true => post a r.q r.cid r.cfg 0x05 0x05 0 0
    | .erase k _ => post a r.q r.cid r.cfg 0 0 k.val 0
    | _ => a) { s with rqe := { s.rqe with running := s.rqe.running.filter (fun r => !hit r) } }

/-- A stream loses its key copies, and no keystream is produced any more (R134): one whose chain has a KXOR step goes back to its first
uncommitted strip, takes no further wave, and ends when its job is cancelled. The manual does not say how it ends. DESIGN CHOICE, log
entry 143. -/
def wipeKeys (t : Stream) : Stream :=
  if t.keys.isEmpty ∨ isActive t = false then { t with keys := [] } else { rewindStrm t with keys := [] }

/-- What a wipe clears: the slots in its scope, and for the whole vault every key copy; or every scratchpad. -/
def applyWipe (s : State) (w : Wipe) : State :=
  match w with
  | .scratchpads => clearRange s onDieBase (onDieBase + 0x1000000)
  | .vault =>
    { s with objs := { s.objs with vault := [] }, poison := s.poison.filter (fun a => decide (a < vaultKey 0)),
             pipes := s.pipes.map (fun p => { p with table := p.table.map (fun e => e.map wipeKeys) }) }
  | w => { s with objs := { s.objs with vault := s.objs.vault.filter (fun e => !wipeCovers w e.1) },
                  poison := s.poison.filter (fun a => decide (a < vaultKey 0) || !wipeCovers w ((a - vaultKey 0) / 64)) }

/-- TERMITE_WIPE_COMPLETE: the oldest wipe ends; a word that does not read back as zero sets FAIL (R412), with no slot to name where it was a
scratchpad's. A lifecycle transition goes on after its wipe (R463). -/
def execTermiteWipeComplete (bad : Option (Fin 4096)) (s : State) : Host.Outcome State Fault Refusal :=
  match s.objs.wipes with
  | [] => .next s
  | w :: rest =>
    let s0 := wipeDoneDoe (wipeDone { s with objs := { s.objs with wipes := rest } } w) w
    let s1 := applyWipe s0 w
    let s2 := match bad, w with
      | some _, .scratchpads => offer { s1 with objs := { s1.objs with vaultFail := true } } 0x010A sevCritical islMG.val 0 0 0
      | some k, _ => offer { s1 with objs := { s1.objs with vaultFail := true } } 0x010A sevCritical islMG.val k.val 0 0
      | none, _ => s1
    .next (lifecycleFinish (if s.pwr.locked && decide (w = .vault) then
      (List.range 4).foldl (fun a i => if s.pwr.tamperDue.getLsbD i then offer a 0x0108 sevCritical islMG.val (i + 1) 0 0 else a)
        { s2 with pwr := { s2.pwr with tamperDue := 0 } }
    else settle s2))

/-! ## Queues (R379) -/

/-- QUEUE_CREATE. -/
def execQueueCreate (s : State) : Host.Outcome State Fault Refusal :=
  match takeEntry s 0x18 with
  | none => .next s
  | some (e, s1) =>
    let f := fnOf e.q
    let idx := ef e.entry 4 0 6
    let a : QpAsk :=
      { rsvd := entRsvd e.entry, iv := ef e.entry 8 0 11, ien := decide (ef e.entry 4 14 1 = 1),
        sqloc := decide (ef e.entry 4 12 1 = 1), cqloc := decide (ef e.entry 4 13 1 = 1), sqm1 := ef e.entry 0x0C 0 16,
        cqm1 := ef e.entry 0x0C 16 16, sqBase := ef e.entry 0x10 0 64, cqBase := ef e.entry 0x18 0 64 }
    match queueTest s1 f idx false a with
    | some r => .next (refuse s1 e r)
    | none => .next (answer (setQp s1 (64 * f.val + idx) (openQp a (getQp s1 (64 * f.val + idx)).reason)) e 0 0 0 0)

/-- QUEUE_DELETE. -/
def execQueueDelete (s : State) : Host.Outcome State Fault Refusal :=
  match takeEntry s 0x19 with
  | none => .next s
  | some (e, s1) =>
    let idx := ef e.entry 4 0 6
    let g := 64 * (fnOf e.q).val + idx
    let x := getQp s1 g
    if idx = 0 then .next (refuse s1 e 0x01)
    else if x.st = .off then .next (refuse s1 e 0x05)
    else if x.outst ≠ 0 then .next (refuse s1 e 0x0B)
    else .next (answer (setQp s1 g (closeQp x)) e 0 0 0 0)

/-! ## LOG_READ (R445, R461) -/

/-- The lifecycle states in which CLEAR is permitted (R461). -/
def clearAllowed (s : State) : Bool := decide (s.pwr.lc ≠ 2)

/-- The records at an index and after it. -/
def logPart (s : State) (first count : Nat) : List (BitVec 256) := (s.evr.log.drop first).take count

/-- CLEAR: records below an index go, and LOG_CLEARED becomes index 0 (R445). -/
def clearLog (s : State) (n : Nat) : State :=
  let r := sealRecord (recordBody s 0x0801 sevNotice islMG.val (min n s.evr.log.length) s.evr.dropped.toNat 0 0 false)
  let log := r :: s.evr.log.drop n
  let keep := (if 32768 ≤ log.length then 1#32 else 0#32) ||| (if 65536 ≤ log.length then 2#32 else 0#32)
  modHdr { s with evr := { s.evr with log := log, dropped := 0, dropSeen := false } } .evr
    (fun h => { h with pend := h.pend &&& (keep ||| ~~~7#32) })

/-- LOG_READ: a flush pass, then the records that exist; it waits for memory whose block holds (R482). -/
def execLogRead (s : State) : Host.Outcome State Fault Refusal :=
  match takeEntry s 0x21 with
  | none => .next s
  | some (e, s1) =>
    let n := ef e.entry 0x14 0 17
    let first := ef e.entry 0x10 0 16
    let clear := decide (ef e.entry 4 16 1 = 1)
    match segTest s1 (fnOf e.q) (ef e.entry 4 0 14) .write (ef e.entry 8 0 64) (32 * n) with
    | .error r => .next (refuse s1 e (if n = 0 ∨ 65536 < n then (if r = 0x01 then 0x01 else r) else r))
    | .ok dst =>
      if n = 0 ∨ 65536 < n then .next (refuse s1 e 0x01)
      else if clear && !clearAllowed s1 then .next (refuse s1 e 0x06)
      else if kindWaits s .dma dst then .next s
      else
        let s2 := persist (flushPass s1)
        let l := logPart s2 first n
        let r := dmaRun s2 [] (.list (l.flatMap (fun x => bytesOf x.toNat 32))) dst (32 * l.length)
        if r.error then .next (answer r.st e 0x07 2 (r.moved / 32) 0)
        else .next (answer (if clear then clearLog r.st (first + l.length) else r.st) e 0 0 l.length 0)

end Sys2Proof.Machine
end

