-- ==== Sys2Proof/Machine/Registers.lean ====
section
/-! DEFINITION. Reading the register pages (R14, R57, R105, R165, R190, R294, R321, R355, R380 to R383, R403, R434, R435,
R447, R469 to R472, R484). -/

namespace Sys2Proof.Machine

/-! ## Where a BAR0 offset leads (R353, R383, R403, R470, R483) -/

/-- A register's place. -/
inductive RegAt where
  /-- Page 0 of an instance. -/
  | page (pg : PageId) (off : Nat)
  /-- EVC_SRCn. -/
  | src (n : Nat)
  /-- EVC_GRPg; from 128 on reserved. -/
  | grp (g : Nat)
  /-- A target page of the EVC. -/
  | tgt (t : Fin 18) (off : Nat)
  /-- A queue-pair block. -/
  | qp (g : Fin 4096) (off : Nat)
  /-- The rest of a VF's BAR0, which reads as zero. -/
  | zero
  /-- No implemented page, or an offset that is not aligned. -/
  | undefined
  deriving DecidableEq, Repr

/-- The place of an offset in the PF's BAR0. -/
def regAt (off : Nat) : RegAt :=
  if off % 4 ≠ 0 then .undefined
  else if 0x31000 ≤ off ∧ off < 0x33000 then .src ((off - 0x31000) / 4)
  else if 0x33000 ≤ off ∧ off < 0x34000 then .grp ((off - 0x33000) / 4)
  else if h : 0x40000 ≤ off ∧ off < 0x52000 then .tgt ⟨(off - 0x40000) / 0x1000, by omega⟩ (off % 0x1000)
  else if h : 0x110000 ≤ off ∧ off < 0x150000 then .qp ⟨(off - 0x110000) / 64, by omega⟩ (off % 64)
  else match allPages.find? (fun pg => decide (pageBase pg ≤ off) && decide (off < pageBase pg + 0x1000)) with
    | some pg => .page pg (off - pageBase pg)
    | none => .undefined

/-- The place of an offset in the BAR0 of an agent. -/
def regFor (ag : Agent) (off : Nat) : RegAt :=
  match ag with
  | .host f =>
    if f.val = 0 then regAt off
    else if off % 4 ≠ 0 ∨ 0x10000 ≤ off then .undefined
    else if h : off < 4096 then .qp ⟨64 * f.val + off / 64, by omega⟩ (off % 64)
    else .zero
  | _ => regAt off

/-- The page that a place belongs to. -/
def RegAt.pageId : RegAt → Option PageId
  | .page pg _ => some pg
  | .src _ | .grp _ | .tgt _ _ => some .evc
  | .qp _ _ => some .rqe
  | .zero | .undefined => none

/-- How an island serves its pages (R13, R14). -/
inductive Serve where
  | up | gone | asleep
  deriving DecidableEq, Repr

/-- Whether an island serves register accesses. -/
def serveIsl (s : State) (i : Fin 34) : Serve :=
  let x := s.pwr.islands[i.val]
  if i = islMG then (if s.pwr.powered then .up else .gone)
  else if !s.pwr.core || x.inrst || decide (x.st = .off) then .gone
  else if x.st = .run then .up else .asleep

/-- J9 is enabled (R461, R489); where no image boots, only the always-complete operations are served (R454). -/
def j9Enabled (s : State) : Bool :=
  fwRuns s && (decide (s.pwr.lc = 0) || decide (s.pwr.lc = 1) || decide (s.pwr.lc = 3))

/-- An agent can reach the registers: the host through a ready link, Thaid while it runs, J9 in the
lifecycle states that enable it (R353, R461, R489). -/
def reaches (s : State) (ag : Agent) : Bool :=
  match ag with
  | .host _ => islandUp s islHL && s.hl.up
  | .fw => fwRuns s
  | .j9 => j9Enabled s

/-- An agent can reach the memory space of its function: not while the function is in D3hot (R350). -/
def memReaches (s : State) (ag : Agent) : Bool :=
  reaches s ag && (match ag with | .host f => !s.hl.d3.getLsbD f.val | _ => true)

/-- An agent can reach the register pages: the host not after a tamper event (R465). -/
def bar0Reaches (s : State) (ag : Agent) : Bool :=
  memReaches s ag && (match ag with | .host _ => !hlLocked s | _ => true)

/-- A function exists: the PF, or a VF that is enabled (R358). -/
def fnExists (s : State) (f : Fin 64) : Bool := decide (f.val = 0) || (s.hl.vfe && decide (f.val ≤ s.hl.numvf.toNat))

/-- The host may reach a function's configuration. -/
def hostOf (s : State) (ag : Agent) (f : Fin 64) : Bool :=
  reaches s ag && fnExists s f && (match ag with | .host g => decide (g = f) || decide (g.val = 0) | _ => false)

/-- A configuration request to a function (R361, R362): Retry Status before readiness and while the function is being reset. -/
def cfgRequest (s : State) (ag : Agent) (f : Fin 64) (act : State) : State :=
  match ag with
  | .host _ =>
    if !islandUp s islHL || !(s.hl.up || (s.hl.training && s.hl.l0)) then s
    else if !s.hl.up || s.hl.flr.any (fun r => decide (r.1 = f)) then send s .retryStatus
    else if hostOf s ag f then act else s
  | _ => s

/-! ## Staged values (R475) -/

/-- A staged value differs from its active one. -/
def Staged.dirty {α : Type} [DecidableEq α] (x : Staged α) : Bool := decide (x.stage ≠ x.active)

/-- PG_STAT.COMMIT_PEND. -/
def commitPend (s : State) (pg : PageId) : Bool :=
  match pg with
  | .pwr => s.pwr.cfg.dirty
  | .evr => s.evr.rate.dirty
  | .evc => s.evc.cfg.dirty
  | .hlk => s.hl.cfg.dirty
  | .dau => s.dau.cfg.dirty
  | .csc => s.csc.beSlice.dirty
  | .lmc n => s.lmcs[n.val].scrub.dirty
  | .map => s.map.sets.dirty
  | .seq q => s.seqs[q.val].wdog.dirty || s.seqs[q.val].masklim.dirty
  | .lms => s.lms.scrub.dirty
  | .fab => s.fab.cfg.dirty
  | _ => false

/-! ## The common header (R472) -/

/-- A block that QUIESCE holds has not completed what it had started (R482). -/
def pageBusy (s : State) (pg : PageId) : Bool :=
  match pg with
  | .pipe p => (s.pipes[p.val]).table.any (fun e => match e with
      | some t => (match t.phase with | .active _ | .ended => true | _ => false)
      | none => false)
  | .seq q => let x := s.seqs[q.val]; !x.loads.isEmpty || !x.fq.isEmpty || x.md.isSome || !x.sb.isEmpty
  | .csc => s.seqs.any (fun x => x.xfer.isSome)
  | .xpt p => (s.xpts[p.val]).qstart
  | .lmc n => let x := s.lmcs[n.val]; !x.waiting.isEmpty || x.retire.isSome || !x.correct.isEmpty
  | .rqe => !s.rqe.running.isEmpty || !s.rqe.compl.isEmpty
  | .dir => s.rqe.running.any (fun r => match r.kind with | .fill _ => true | _ => false)
  | _ => false

/-- A register of the common header. -/
def hdrReg (s : State) (pg : PageId) (o : Nat) : Nat :=
  let h := hdr s pg
  match o with
  | 0x000 => 65536 * pageType pg + pageInst pg * 256
  | 0x004 => 0x100
  | 0x008 => b2n h.en + 2 * b2n h.commit + 8 * b2n h.quiesce
  | 0x00C => b2n (h.en && (!h.held || pageBusy s pg)) + 2 * b2n h.refused + 4 * b2n (commitPend s pg) + 8 * b2n h.wwb + 16 * b2n h.wrsv
      + 32 * b2n h.stale + 256 * h.reason.toNat
  | 0x010 => h.refReason.toNat + 256 * h.refOffset.toNat + 0x1000000 * h.refDetail.toNat
  | 0x014 => h.epoch.toNat % 2 ^ 32
  | 0x018 => h.pend.toNat
  | 0x024 => h.msk.toNat
  | 0x030 => h.errcnt.toNat
  | _ => 0

/-! ## The block registers -/

/-- Half of a 64-bit quantity. -/
def half (v : Nat) (hi : Bool) : Nat := if hi then v / 2 ^ 32 % 2 ^ 32 else v % 2 ^ 32

/-- Saturation of a count at a number of bits. -/
def satTo (w n : Nat) : Nat := if 2 ^ w ≤ n then 2 ^ w - 1 else n

/-- GLB (R484). -/
def glbReg (s : State) (o : Nat) : Nat :=
  match o with
  | 0x040 => 0x73000000 + b2n s.ml * 256 + 0x21
  | 0x044 => s.glb.fwver.toNat
  | 0x048 => half Config.serial.toNat false
  | 0x04C => half Config.serial.toNat true
  | 0x050 => b2n s.glb.ready + 2 * b2n s.pwr.core + 4 * b2n (s.lmcs.all (·.trained)) + 8 * b2n s.glb.fmenum
      + 16 * b2n s.glb.qual + 32 * b2n s.pwr.locked
  | 0x054 => s.glb.last.toNat + 256 * s.glb.warm.toNat
  | 0x058 => s.glb.refReason.toNat + 256 * s.glb.refInst.toNat + 65536 * s.glb.refType.toNat
  | 0x05C => s.glb.refcnt.toNat
  | 0x060 => s.glb.scratch0.toNat
  | 0x064 => s.glb.scratch1.toNat
  | _ => 0

/-- P(V) in mW at an input voltage in mV (R449); 0 without input. Below 9 V the manual states only bounds. Log entry 23. -/
def availMw (mv : Nat) : Nat :=
  if mv = 0 then 0
  else if mv < 9000 then min (min 214000 (26 * mv - 1)) (Config.powerBelow mv)
  else if mv < 12000 then 215000 + (mv - 9000) * 85 / 3
  else if mv < 20000 then 300000 + (mv - 12000) * 25
  else if mv < 30000 then 500000 + (mv - 20000) * 25
  else if mv < 40000 then 750000 + (mv - 30000) * 25
  else 1000000

/-- The two-bit code of a sleep state. -/
def islCode : IslState → Nat
  | .run => 0 | .clkstop => 1 | .retain => 2 | .off => 3

/-- The island that PWR_ISL_SEL names. -/
def selIsland (s : State) : Fin 34 := if h : s.pwr.islSel.toNat < 33 then ⟨s.pwr.islSel.toNat, by omega⟩ else 0

/-- PWR (R469). -/
def pwrReg (s : State) (o : Nat) : Nat :=
  let p := s.pwr
  match o with
  | 0x040 => 1000 * 65536 + 26 * 256 + 20
  | 0x044 => 65536 * p.iin.toNat + p.mv.toNat
  | 0x048 => 65536 * (availMw p.mv.toNat / 1000) + p.w.toNat
  | 0x04C => 65536 * p.cfg.stage.grace.toNat + p.cfg.stage.slope.toNat * 256
  | 0x050 => b2n p.auxok + 2 * b2n p.core + 4 * b2n p.holdup + 8 * b2n p.pfw + 16 * b2n p.floor
      + 32 * b2n (decide (p.level ≠ 0)) + 64 * b2n p.trip + 128 * b2n p.locked
  | 0x054 => p.lc.val + 256 * p.diagUsed.toNat
  | 0x058 => p.tamper.toNat
  | 0x05C => 65536 * p.jmax.toNat + p.cplate.toNat
  | 0x064 => p.islSel.toNat
  | 0x068 => islCode (p.islands[(selIsland s).val]).req
  | 0x06C => islCode (p.islands[(selIsland s).val]).st + 4 * b2n (p.islands[(selIsland s).val]).inrst
  | 0x070 => p.level.toNat
  | _ => 0

/-- EVR (R447). -/
def evrReg (s : State) (o : Nat) : Nat :=
  match o with
  | 0x040 => 2048 * 131072 + 65536
  | 0x044 => s.evr.rate.stage.toNat
  | 0x048 => b2n s.evr.flushing
  | 0x04C => s.evr.log.length + 131072 * s.evr.buf.length + 2 ^ 29 * b2n s.evr.flushing
      + 2 ^ 30 * b2n (decide (65536 ≤ s.evr.log.length + s.evr.buf.length))
  | 0x050 => s.evr.dropped.toNat
  | 0x054 => s.evr.pcc.toNat
  | 0x058 => half s.evr.opt.toNat false
  | 0x05C => half s.evr.opt.toNat true
  | 0x060 => s.evr.tick.toNat
  | 0x064 => s.evr.supp.toNat
  | _ => 0

/-- A bitmap word over sources 32 w to 32 w + 31. -/
def bitmapWord (w : Nat) (p : Nat → Bool) : Nat :=
  (List.range 32).foldl (fun a i => a + 2 ^ i * b2n (p (32 * w + i))) 0

/-- EVC page 0 (R403). -/
def evcReg (s : State) (o : Nat) : Nat :=
  let w := o % 0x100 / 4
  if o = 0x040 then 18 * 2 ^ 24 + 128 * 65536 + 2048
  else match o / 0x100 with
    | 1 => bitmapWord w (srcPending s)
    | 4 => bitmapWord w (fun n => decide (n ≠ 0) && (srcState s n).mask)
    | 7 => bitmapWord w (fun n => (srcState s n).insvc.isSome)
    | 8 => bitmapWord w (fun n => srcLevel n && (srcState s n).input)
    | _ => 0

/-- EVC_SRCn. -/
def srcReg (s : State) (n : Nat) : Nat :=
  let x := tget SrcCfg.reset s.evc.cfg.stage n
  x.prio.toNat + 16 * x.tgt.toNat + 512 * x.cls.toNat + 2 ^ 14 * b2n (srcPulse n) + 2 ^ 15 * b2n x.en + 65536 * x.vec.toNat

/-- EVC_GRPg. -/
def grpReg (s : State) (g : Nat) : Nat :=
  if g < 128 then (getGrp s g).holdoff.toNat + 65536 * b2n (getGrp s g).hact else 0

/-- Sources in service at a target. -/
def insvcCount (s : State) (t : Fin 18) : Nat := (s.evc.src.filter (fun e => decide (e.2.insvc = some t))).length

/-- A register of a target page, read without side effect. -/
def tgtReg (s : State) (t : Fin 18) (o : Nat) : Nat :=
  match o with
  | 0x000 => (claimValue s ((candidate s t).getD 0)).toNat
  | 0x008 => insvcCount s t + 4096 * b2n (candidate s t).isSome
  | 0x00C => (s.evc.spur[t.val]).toNat
  | _ => 0

/-- HLK (R381). -/
def hlkReg (s : State) (o : Nat) : Nat :=
  let h := s.hl
  let r := if h.fnSel = 0 then FnRange.reset else tget FnRange.reset h.cfg.stage.ranges h.fnSel.toNat
  match o with
  | 0x040 => h.width.toNat + 32 * h.speed.toNat + 1024 * b2n h.flit + 2048 * b2n h.l0
  | 0x044 => h.numvf.toNat + 256 * b2n h.vfe
  | 0x048 => half h.cfg.stage.aper.toNat false
  | 0x04C => half h.cfg.stage.aper.toNat true
  | 0x050 => h.fnSel.toNat
  | 0x054 => r.lmBase.toNat
  | 0x058 => r.lmSize.toNat
  | 0x05C => r.fmBase.toNat
  | 0x060 => r.fmSize.toNat
  | 0x064 => h.errCnt.toNat
  | 0x068 => h.ide.toNat
  | 0x06C => h.ctoCnt.toNat
  | _ => 0

/-- RQE page (R383). -/
def rqeReg (s : State) (o : Nat) : Nat :=
  match o with
  | 0x040 => 64 * 65536 + 4096
  | 0x044 => (s.rqe.qps.filter (fun e => decide (e.2.st = .err))).length
  | _ => 0

/-- The code of a queue pair's state. -/
def qpCode : QpState → Nat
  | .off => 0 | .active => 1 | .draining => 2 | .err => 3

/-- A register of a queue-pair block (R383). -/
def qpReg (s : State) (g : Fin 4096) (o : Nat) : Nat :=
  let x := getQp s g.val
  match o with
  | 0x00 => b2n (if g.val % 64 = 0 then x.en else decide (x.st = .active))
  | 0x04 => x.sqm1.toNat + 65536 * x.cqm1.toNat
  | 0x08 => x.iv.toNat + 4096 * b2n x.sqloc + 8192 * b2n x.cqloc + 16384 * b2n x.ien
  | 0x0C => x.sqhd + 65536 * x.reason.toNat + 2 ^ 24 * qpCode x.st
  | 0x10 => half x.sqBase.toNat false
  | 0x14 => half x.sqBase.toNat true
  | 0x18 => half x.cqBase.toNat false
  | 0x1C => half x.cqBase.toNat true
  | 0x20 => x.cqtail + 65536 * b2n x.phase
  | 0x24 => x.outst
  | _ => 0

/-- Remaining demand of accepted guaranteed jobs in a class (R190). -/
def demandSum (s : State) (c : Fin 11) : Nat :=
  s.ctxs.foldl (fun a e => if e.2.held then a + e.2.rem[c.val] else a) 0

/-- DAU (R190). -/
def dauReg (s : State) (o : Nat) : Nat :=
  let d := s.dau
  let c := o % 0x40 / 4
  if h : 0x080 ≤ o ∧ o < 0x0AC then d.cfg.stage.caps[(o - 0x080) / 4].toNat
  else if 0x0C0 ≤ o ∧ o < 0x0EC then jcap c
  else if h : 0x100 ≤ o ∧ o < 0x12C then satTo 32 (demandSum s ⟨(o - 0x100) / 4, by omega⟩)
  else match o with
    | 0x040 => b2n d.gopen + 2 * b2n d.bopen + 256 * d.cfg.stage.setup.toNat
    | 0x044 => closeCause s + 8 * bcloseCause s
    | 0x048 => d.slot.toNat
    | 0x04C => 4194304 - s.ctxs.length
    | 0x050 => d.cfg.stage.band.toNat
    | 0x054 => d.acc.toNat
    | 0x058 => d.ref.toNat
    | 0x05C => d.lastCode.toNat + 256 * d.lastDetail.toNat + 65536 * d.lastQueue.toNat
    | 0x060 => d.ovr.toNat
    | 0x064 => d.void.toNat
    | 0x068 => d.decMax.toNat
    | _ => 0

/-- Save areas that hold saved state (R302, R321). -/
def poolUsed (s : State) : Nat :=
  s.ctxs.foldl (fun a e => a + b2n e.2.lower.isSome + 9 * b2n e.2.upper.isSome) 0

/-- CSC_SEQ_BANKS of the selected sequencer. -/
def seqBanksReg (s : State) : Nat :=
  let x := s.seqs[s.csc.sel.toNat]
  let map8 := fun (p : Fin 8 → Bool) => (List.finRange 8).foldl (fun a b => a + 2 ^ b.val * b2n (p b)) 0
  map8 (fun b => x.banks[b.val].occ.isSome)
    + 256 * map8 (fun b => match x.banks[b.val].occ with | some c => decide ((getCtx s c).st = .ready) | none => false)
    + 65536 * map8 (inTransfer x)
    + (match x.run with | some b => 2 ^ 24 * b.val + 2 ^ 27 | none => 0)

/-- CSC (R321). -/
def cscReg (s : State) (o : Nat) : Nat :=
  let c := s.csc
  match o with
  | 0x040 => 16 * 65536 + 8 * 256 + 9
  | 0x044 => 65536 * c.beSlice.stage.toNat
  | 0x048 => c.cal.length
  | 0x04C => c.fifo.length
  | 0x050 => (s.ctxs.filter (fun e => decide (e.2.st = .wait))).length
  | 0x054 => c.poolRsv
  | 0x058 => poolUsed s
  | 0x05C => c.sel.toNat
  | 0x060 => seqBanksReg s
  | 0x064 => half c.switches.toNat false
  | 0x068 => half c.switches.toNat true
  | 0x06C => c.loads.toNat
  | 0x070 => c.evicts.toNat
  | 0x074 => c.demotes.toNat
  | 0x078 => c.xferMax.toNat
  | 0x07C => c.irqWake.toNat
  | _ => 0

/-- MAP (R57). -/
def mapReg (s : State) (o : Nat) : Nat :=
  if h : 0x080 ≤ o ∧ o < 0x0C0 then
    let v := s.map.sets.stage[(o - 0x080) / 16]
    match o % 16 with
    | 0 => v.baseG.toNat
    | 4 => v.sizeG.toNat
    | 8 => b2n v.en + 2 * v.ways.toNat + 16 * v.gran.toNat + 256 * v.members.toNat
    | 12 => v.pbaseG.toNat
    | _ => 0
  else match o with
    | 0x040 => lmTopG s
    | 0x044 => 8
    | 0x048 => s.map.portEn.toNat
    | _ => 0

/-- LMC (R57). -/
def lmcReg (s : State) (n : Fin 12) (o : Nat) : Nat :=
  let x := s.lmcs[n.val]
  match o with
  | 0x040 => 48 * 65536 + 32 * 256 + (if s.ml then 32 else 48)
  | 0x044 => b2n x.trained + 2 * b2n x.degraded + 4 * b2n x.therm
  | 0x048 => b2n x.scrub.stage.en + 2 * x.scrub.stage.period
  | 0x04C => x.scrubPos.toNat
  | 0x050 => x.ce.toNat
  | 0x054 => x.ue.toNat
  | 0x058 => half x.ueAddr.toNat false
  | 0x05C => half x.ueAddr.toNat true
  | 0x060 => x.spareFree.toNat + 65536 * x.spareUsed.toNat
  | 0x064 => x.slotG.toNat
  | _ => 0

/-- XPT (R57). -/
def xptReg (s : State) (p : Fin 6) (o : Nat) : Nat :=
  let x := s.xpts[p.val]
  match o with
  | 0x040 => x.width.toNat + 64 * x.speed.toNat + 512 * x.flit.toNat + 2048 * b2n x.up
  | 0x044 => x.count.toNat + 32 * b2n x.switch
  | 0x048 => x.capG.toNat
  | 0x04C => b2n x.qstart
  | 0x050 => b2n x.qualified + 2 * x.qstate.toNat + 16 * x.step.toNat
  | 0x054 => 8 * x.step.toNat
  | 0x058 => x.lat.toNat
  | 0x05C => x.poisonCnt.toNat
  | _ => 0

/-- PIPE (R105). -/
def pipeReg (s : State) (p : Fin 8) (o : Nat) : Nat :=
  let x := s.pipes[p.val]
  let used := (x.table.toList.filter Option.isSome).length
  let act := (x.table.toList.filter (fun e => match e with
    | some t => (match t.phase with | .active _ => true | _ => false)
    | none => false)).length
  match o with
  | 0x040 => 2 * 65536 + 64 * 256 + 4
  | 0x044 => 16 * x.ra.toNat
  | 0x048 => act + 256 * used + 65536 * satTo 8 x.waiting.length
  | 0x04C => x.sp0.lane.toNat + 128 * b2n x.sp0.used + 256 * x.sp1.lane.toNat + 2 ^ 15 * b2n x.sp1.used
      + 65536 * b2n x.sp0.fail + 131072 * b2n x.sp1.fail
  | 0x050 => half x.laneFail.toNat false
  | 0x054 => half x.laneFail.toNat true
  | 0x058 => x.strmCnt.toNat
  | 0x05C => x.sfaultCnt.toNat
  | 0x060 => half x.busy.toNat false
  | 0x064 => half x.busy.toNat true
  | _ => 0

/-- SEQ (R294). -/
def seqReg (s : State) (q : Fin 16) (o : Nat) : Nat :=
  let x := s.seqs[q.val]
  match o with
  | 0x040 => 64 * 2 ^ 24 + 64 * 65536 + 8 * 256 + q.val / 2
  | 0x044 => x.st.toNat + (match x.run with | some b => 16 * b.val + 128 | none => 0) + 256 * b2n x.wdogExp
  | 0x048 => b2n x.wdogEn + 4 * x.wdog.stage.toNat
  | 0x04C => x.masklim.stage.toNat
  | 0x050 => half x.bundles.toNat false
  | 0x054 => half x.bundles.toNat true
  | 0x058 => half x.stalls.toNat false
  | 0x05C => half x.stalls.toNat true
  | 0x060 => x.mispred.toNat
  | 0x064 => x.ibMiss.toNat
  | 0x068 => x.sbStall.toNat
  | 0x06C => x.collided.toNat
  | _ => 0

/-- The code of a directory's state. -/
def dirCode : DirState → Nat
  | .free => 0 | .creating => 1 | .ready => 2 | .suspect => 3

/-- Buckets that belong to directories. -/
def bucketsUsed (s : State) : Nat :=
  s.dir.dirs.foldl (fun a e => if e.2.st = .free then a else a + 2 ^ e.2.mainLog2.toNat + e.2.ovfCount.toNat) 0

/-- Filter bits that belong to directories. -/
def filtUsed (s : State) : Nat :=
  s.dir.dirs.foldl (fun a e => if e.2.st = .free ∨ e.2.filtLog2 = 0 then a else a + 2 ^ e.2.filtLog2.toNat) 0

/-- DIR (R165). -/
def dirReg (s : State) (o : Nat) : Nat :=
  let d := s.dir
  let x := getDir s d.sel.toNat
  match o with
  | 0x040 => 7 * 2 ^ 24 + 8 * 2 ^ 20 + 1024
  | 0x044 => (d.dirs.filter (fun e => decide (e.2.st ≠ .free))).length
  | 0x048 => 16777216 - bucketsUsed s
  | 0x04C => 67108864 - filtUsed s
  | 0x050 => d.sel.toNat
  | 0x054 => dirCode x.st + 16 * x.ktype.toNat + 256 * b2n x.cache + 512 * b2n x.fvalid + 65536 * x.filtLog2.toNat
      + 2 ^ 24 * x.mainLog2.toNat
  | 0x058 => x.mainBase.toNat
  | 0x05C => x.ovfBase.toNat
  | 0x060 => x.ovfCount.toNat
  | 0x064 => x.ovfUsed.toNat
  | 0x068 => x.depth.toNat + 65536 * x.func.val
  | 0x06C => x.entries.toNat
  | 0x070 => x.filtBase.toNat
  | 0x074 => half x.seq.toNat false
  | 0x078 => half x.seed.toNat false
  | 0x07C => half x.seed.toNat true
  | 0x080 => half x.miss.toNat false
  | 0x084 => half x.miss.toNat true
  | 0x088 => half d.ops.toNat false
  | 0x08C => half d.ops.toNat true
  | 0x090 => d.ovfCnt.toNat
  | 0x094 => d.hcHit.toNat
  | 0x098 => d.filtSkip.toNat
  | 0x09C => half x.seq.toNat true
  | _ => 0

/-- The island of the memory of a number (R434). -/
def memIsland (m : Nat) : Fin 34 :=
  if h : m < 16 then islSQ ⟨m, h⟩
  else if h : m < 24 then islPP ⟨m - 16, by omega⟩
  else if m < 26 then islDR else islMG

/-- LMS (R434). -/
def lmsReg (s : State) (o : Nat) : Nat :=
  let m := s.lms.sel.toNat
  let x := getMem s m
  if 0x080 ≤ o ∧ o < 0x0C0 then
    if m < 16 then (tget 0 s.lms.coll (16 * m + (o - 0x080) / 4) : Reg32).toNat else 0
  else match o with
    | 0x040 => 16 * 65536 + 256 + 27
    | 0x044 => b2n s.lms.scrub.stage.en + 2 * s.lms.scrub.stage.period
    | 0x048 => m
    | 0x04C => islCode (s.pwr.islands[(memIsland m).val]).st + 4 * b2n (x.stale && decide (m < 16))
    | 0x050 => x.ce.toNat
    | 0x054 => x.ue.toNat
    | 0x058 => x.ueAddr.toNat
    | 0x05C => if m < 16 then half x.epoch.toNat false else 0
    | 0x060 => half s.pwr.epoch.toNat false
    | 0x064 => half s.pwr.epoch.toNat true
    | 0x068 => (s.objs.vault.filter (fun e => e.2.valid)).length
        + 2 ^ 13 * b2n (!s.objs.wipes.isEmpty) + 2 ^ 14 * b2n s.objs.vaultFail
    | _ => 0

/-- FAB (R435). -/
def fabReg (s : State) (o : Nat) : Nat :=
  let f := s.fab
  let c := fun (t : Table Reg32) => (tget 0 t f.sel.toNat).toNat
  match o with
  | 0x040 => 16 * 256 + 34
  | 0x044 => f.cfg.stage.floor.toNat + 256 * f.cfg.stage.age.toNat
  | 0x048 => f.sel.toNat
  | 0x04C => c f.ce
  | 0x050 => c f.ue
  | 0x054 => c f.hold
  | 0x058 => c f.floorCnt
  | _ => 0

/-- The current value of a register of page 0 of an instance. -/
def pageReg (s : State) (pg : PageId) (o : Nat) : Nat :=
  if o < 0x040 then hdrReg s pg o
  else match pg with
    | .glb => glbReg s o
    | .pwr => pwrReg s o
    | .evr => evrReg s o
    | .evc => evcReg s o
    | .hlk => hlkReg s o
    | .rqe => rqeReg s o
    | .dau => dauReg s o
    | .csc => cscReg s o
    | .lmc n => lmcReg s n o
    | .xpt p => xptReg s p o
    | .map => mapReg s o
    | .pipe p => pipeReg s p o
    | .seq q => seqReg s q o
    | .dir => dirReg s o
    | .lms => lmsReg s o
    | .fab => fabReg s o

/-- The current value of a register. -/
def regValue (s : State) (r : RegAt) : Nat :=
  match r with
  | .page pg o => pageReg s pg o
  | .src n => srcReg s n
  | .grp g => grpReg s g
  | .tgt t o => tgtReg s t o
  | .qp g o => qpReg s g o
  | .zero | .undefined => 0

/-! ## Pairs (R471) -/

/-- The HI half of the pair whose LO half is a register. -/
def hiOf (r : RegAt) : Option RegAt :=
  match r with
  | .page .glb 0x048 => some (.page .glb 0x04C)
  | .page .evr 0x058 => some (.page .evr 0x05C)
  | .page .hlk 0x048 => some (.page .hlk 0x04C)
  | .page .csc 0x064 => some (.page .csc 0x068)
  | .page (.lmc n) 0x058 => some (.page (.lmc n) 0x05C)
  | .page (.pipe p) 0x050 => some (.page (.pipe p) 0x054)
  | .page (.pipe p) 0x060 => some (.page (.pipe p) 0x064)
  | .page (.seq q) 0x050 => some (.page (.seq q) 0x054)
  | .page (.seq q) 0x058 => some (.page (.seq q) 0x05C)
  | .page .dir 0x074 => some (.page .dir 0x09C)
  | .page .dir 0x078 => some (.page .dir 0x07C)
  | .page .dir 0x080 => some (.page .dir 0x084)
  | .page .dir 0x088 => some (.page .dir 0x08C)
  | .page .lms 0x060 => some (.page .lms 0x064)
  | .qp g 0x10 => some (.qp g 0x14)
  | .qp g 0x18 => some (.qp g 0x1C)
  | _ => none

/-- The BAR0 offset of a register, in the PF's view. -/
def regOffset : RegAt → Nat
  | .page pg o => pageBase pg + o
  | .src n => 0x31000 + 4 * n
  | .grp g => 0x33000 + 4 * g
  | .tgt t o => 0x40000 + 0x1000 * t.val + o
  | .qp g o => 0x110000 + 64 * g.val + o
  | .zero | .undefined => 0

/-- An agent that has latches. -/
def hasLatch (ag : Agent) : Bool :=
  match ag with
  | .host f => decide (f.val = 0)
  | _ => true

/-- What a read by an agent returns: a HI half that the agent has latched, else the current value. -/
def readValue (s : State) (ag : Agent) (r : RegAt) : Nat :=
  match (if hasLatch ag then tget none s.latch (latchKey (regOffset r) ag) else none) with
  | some v => v.toNat
  | none => regValue s r

/-- A read of a LO half latches the HI half for the agent. -/
def latchHi (s : State) (ag : Agent) (r : RegAt) : State :=
  match hiOf r with
  | some h =>
    if hasLatch ag then
      { s with latch := tset none s.latch (latchKey (regOffset h) ag) (some (BitVec.ofNat 32 (regValue s h))) }
    else s
  | none => s

/-- The answer to a read that cannot be served. -/
def readError (s : State) (ag : Agent) : State :=
  match ag with
  | .host _ => urAnswer s
  | _ => send s .fwError

/-- A read of a page whose island is in reset or off: zeros except PG_ID (R14). -/
def goneValue (s : State) (r : RegAt) : Nat :=
  match r with
  | .page pg 0 => hdrReg s pg 0
  | _ => 0

/-- The target for which a read claims (R403, R473). -/
def claimAt (ag : Agent) (r : RegAt) : Option (Fin 18) :=
  match r with
  | .tgt t 0 => if claims ag t then some t else none
  | _ => none

/-- A read of a BAR0 register by an agent, which latches the HI half where it names a LO half (R471). -/
def readBar0 (ag : Agent) (off : Nat) (s : State) : State :=
  let r := regFor ag off
  match r.pageId with
  | none => if r = .zero then send s (.reg ag 0) else readError s ag
  | some pg =>
    match serveIsl s (pageIsland pg) with
    | .up => (match claimAt ag r with
      | some t => claimRead s ag t
      | none => send (latchHi s ag r) (.reg ag (BitVec.ofNat 32 (readValue s ag r))))
    | .gone => send s (.reg ag (BitVec.ofNat 32 (goneValue s r)))
    | .asleep => readError s ag

/-- The function whose BAR2 an agent reaches. -/
def hostFn : Agent → Option (Fin 64)
  | .host f => some f
  | _ => none

/-- An aligned access of 4 or 8 bytes (R355). -/
def wordAccess (off n : Nat) : Bool := (decide (n = 4) || decide (n = 8)) && decide (off % n = 0)

/-- An access to queue memory that R355 allows. -/
def spanOk (off n : Nat) : Bool := decide (1 ≤ n) && decide (n ≤ 512) && decide (off % 4096 + n ≤ 4096)

/-- The 16 bytes of a vector's entry in the MSI-X table: address, data and mask bit. -/
def vecBytes (s : State) (f : Fin 64) (v : Nat) : List Byte :=
  let x := tget VecState.reset s.hl.msix (vecKey f.val v)
  bytesOf x.addr.toNat 8 ++ bytesOf x.data.toNat 4 ++ bytesOf (b2n x.mask) 4

/-- A byte of the pending bit array of a function. -/
def pendByte (s : State) (f : Fin 64) (b : Nat) : Byte :=
  BitVec.ofNat 8 (((List.range 8).map (fun i => 2 ^ i * b2n (tget VecState.reset s.hl.msix (vecKey f.val (8 * b + i))).pend)).sum)

/-- What a read through the BAR2 of a function returns (R353, R355); none where the interface defines no such read. -/
def bar2Bytes (s : State) (f : Fin 64) (off n : Nat) : Option (List Byte) :=
  match bar2At f off with
  | .tail _ | .head _ => if wordAccess off n then some (List.replicate n 0) else none
  | .msix v b => if wordAccess off n then some (((vecBytes s f v).drop b).take n) else none
  | .pending b => if wordAccess off n then some ((List.range n).map (fun i => pendByte s f (b + i))) else none
  | .queueMem o => if spanOk off n then some (qmRead s o n) else none
  | .undefined => none

/-- A read through BAR2. -/
def readBar2 (s : State) (f : Fin 64) (off n : Nat) : State :=
  match bar2Bytes s f off n with
  | some bs => send s (.data bs false)
  | none => urAnswer s

/-! ## The crash capability (R468) -/

/-- Thaid has written its heartbeat within the last second (R455). -/
def fwOk (s : State) : Bool := s.pwr.beat && decide ((s.evr.tick - s.pwr.beatTick).toNat ≤ 1000000)

/-- A register of the crash capability, by its offset, as the PF's configuration space shows it; the first three are the headers. PRESUMED:
their layout is PCIe's. Log entry 147. -/
def crashReg (s : State) (o : Nat) : Nat :=
  match o with
  | 0x00 => 0x10023 + 2 ^ 20 * Config.nextCapability.toNat
  | 0x04 => 0x02400000 + Config.vendorId.toNat
  | 0x08 => 1
  | 0x0C => s.dau.cfg.active.band.toNat + 16 * b2n s.pwr.core + 32 * b2n (fwOk s) + 64 * b2n s.pwr.pfw + 128 * b2n s.pwr.trip
      + 256 * b2n s.pwr.locked + 512 * s.pwr.lc.val
  | 0x10 => s.evr.crashCode.toNat + 65536 * s.evr.crashSev.toNat
  | 0x14 => (List.finRange 16).foldl (fun a q => a + 2 ^ q.val * b2n (decide ((s.seqs[q.val]).st = 2))) 0
  | 0x18 => s.evr.pcc.toNat
  | 0x1C => half s.evr.opt.toNat false
  | 0x20 => half s.evr.opt.toNat true
  | _ => 0

/-! ## Configuration space (R350, R352, R361, R468, R499) -/

/-- What the Readiness Time Reporting capability reports, in milliseconds: the reset time and the FLR time (R361). -/
def readyMs : Nat := 1000
def flrMs : Nat := 100

/-- Device Control of a function. -/
def devCtl (s : State) (f : Fin 64) : DevCtl := tget DevCtl.reset s.hl.devs f.val

/-- A word of a function's configuration space. What the manual does not lay out is said in the terms of CapWord. Log entry 147. -/
def capValue (s : State) (f : Fin 64) (w : CapWord) : Nat :=
  match w with
  | .speed => 6 | .width => 16 | .aspm => 2 | .devicePower => 4 | .payload => 2 | .readRequest => 5 | .tags => 14 | .timeouts => 15
  | .extended c => b2n (decide (c.val < 9))
  | .vectors => vecCount f
  | .totalVfs => 63
  | .bar4Sizes => 127
  | .resetTime => readyMs | .flrTime => flrMs
  | .serial hi => half Config.serial.toNat hi
  | .crash n => crashReg s (4 * n.val)
  | .aer => s.hl.aer.toNat
  | .command => 2 * b2n (s.hl.mse.getLsbD f.val)
  | .power => 3 * b2n (s.hl.d3.getLsbD f.val)
  | .device => 2 ^ 5 * (devCtl s f).mps.toNat + 2 ^ 12 * (devCtl s f).mrrs.toNat
  | .device2 => (devCtl s f).cto.toNat
  | .link => 2 * b2n s.hl.aspm
  | .bar4 => s.hl.bar4.val
  | .sriov => s.hl.numvf.toNat + 2 ^ 31 * b2n s.hl.vfe

/-- LO_REGISTER_READ (R355, R471): a read of a register, of two adjacent ones, through BAR2, or of configuration space. A read of TGT_CLAIM
by an agent of R403 claims. -/
def execLoRegisterRead (ag : Agent) (t : ReadTarget) (s : State) : Host.Outcome State Fault Refusal :=
  match t with
  | .config f w => .next (cfgRequest s ag f (send s (.reg ag (BitVec.ofNat 32 (capValue s f w)))))
  | .bar0 off => .next (if bar0Reaches s ag then readBar0 ag off.toNat s else if reaches s ag then urAnswer s else s)
  | .bar0Pair off =>
    .next (if bar0Reaches s ag then readBar0 ag (off.toNat + 4) (readBar0 ag off.toNat s) else if reaches s ag then urAnswer s else s)
  | .bar2 off n =>
    match hostFn ag with
    | none => .next s
    | some f => .next (if memReaches s ag then readBar2 s f off.toNat n.val else if reaches s ag then urAnswer s else s)

/-! ## STATUS_READ (R380) -/

/-- A copy of a register for the status block: zero while its island is in reset or off (R14). -/
def statusCopy (s : State) (pg : PageId) (o : Nat) : Nat :=
  if serveIsl s (pageIsland pg) = .gone then 0 else pageReg s pg o

/-- The word of the status block at an index. -/
def statusEntry (s : State) (i : Nat) : Nat :=
  if i < 5 then statusCopy s .dau (0x040 + 4 * i)
  else if i = 5 then statusCopy s .map 0x048
  else if h : 6 ≤ i ∧ i < 12 then statusCopy s (.xpt ⟨i - 6, by omega⟩) 0x050
  else if h : 12 ≤ i ∧ i < 18 then statusCopy s (.xpt ⟨i - 12, by omega⟩) 0x054
  else if i = 18 then statusCopy s .csc 0x054 else if i = 19 then statusCopy s .csc 0x058
  else if i = 20 then statusCopy s .dir 0x048 else if i = 21 then statusCopy s .dir 0x04C
  else if 32 ≤ i ∧ i < 43 then statusCopy s .dau (4 * i)
  else if 48 ≤ i ∧ i < 59 then statusCopy s .dau (0x040 + 4 * i)
  else 0

/-- The 256 bytes of the status block. -/
def statusBlock (s : State) : List Byte := (List.range 64).flatMap (fun i => bytesOf (statusEntry s i) 4)

/-- STATUS_READ (R380); it waits for memory whose block holds (R482). -/
def execStatusRead (s : State) : Host.Outcome State Fault Refusal :=
  match takeEntry s 0x20 with
  | none => .next s
  | some (e, s1) =>
    match segTest s1 (fnOf e.q) (ef e.entry 4 0 14) .write (ef e.entry 8 0 64) 256 with
    | .error r => .next (refuse s1 e r)
    | .ok ga =>
      if kindWaits s .dma ga then .next s else
      let r := dmaRun s1 [] (.list (statusBlock s1)) ga 256
      .next (if r.error then answer r.st e 0x07 2 0 0 else answer r.st e 0 0 0 0)

end Sys2Proof.Machine
end

