-- ==== Sys2Proof/Machine/HostLink.lean ====
section
/-! DEFINITION. The host link: BAR4, requests the interface does not define, timeouts, link loss, PERST#, readiness, FLR,
IDE integrity (R30, R42, R352, R354, R358, R360 to R363, R397). -/

namespace Sys2Proof.Machine

/-! ## BAR4 (R354) -/

/-- The size of the BAR4 window in bytes. -/
def bar4Size (s : State) : Nat := GiB * 2 ^ s.hl.bar4.val

/-- The HL island takes BAR4 requests: the link is ready, the PF is in D0 with Memory Space Enable 1, the
HLK page is enabled, and no tamper event has limited it (R465). -/
def bar4Open (s : State) : Bool := s.hl.mse.getLsbD 0 && !s.hl.d3.getLsbD 0 && (hdr s .hlk).en && !hlLocked s

/-- Every byte of a range of BAR4 leads to LM, FM or an on-die memory. -/
def bar4Mapped (s : State) (off len : Nat) : Bool :=
  decide (off + len ≤ bar4Size s) &&
  (List.range len).all (fun i => match place s .bar4 (s.hl.cfg.active.aper.toNat + off + i) with
    | some p => decide (p.region ≠ .host)
    | none => false)

/-- What a BAR4 read returns. Bytes that are poisoned or met an error are free values, and the completion is poisoned. -/
def bar4Read (s0 : State) (ga len : Nat) : State :=
  let s := touch s0 .bar4 ga len
  let r := gaRead s .bar4 ga len
  if r.poison.isNone && r.error.isNone then send s (.data r.bytes false)
  else
    let bad := fun (i : Nat) => match place s .bar4 (ga + i) with
      | some p => poisoned s p || errorAt s p
      | none => true
    let bs := (List.range len).map (fun i => if bad i then Config.freeByte s.free i else (r.bytes[i]?).getD 0)
    let s1 := match r.poison with | some g => noteUE s .bar4 g | none => s
    send { s1 with free := s1.free + 1 } (.data bs true)

/-- What a BAR4 write does: one that the fourth COLLIDED answer fails is dropped and counted (R409). -/
def bar4Write (s : State) (ga : Nat) (bs : List Byte) : State :=
  let w := gaWrite s .bar4 ga bs
  match w.2 with
  | some g => if collidedAt s .bar4 g then countHlk w.1 else noteUE w.1 .bar4 g
  | none => w.1

/-- A BAR4 request that the HL island has received (R354). -/
def bar4Do (s : State) : BarAccess → State
  | .read off len =>
    if bar4Open s && bar4Mapped s off.toNat len.val then bar4Read s (s.hl.cfg.active.aper.toNat + off.toNat) len.val
    else urAnswer s
  | .write off bs =>
    if bar4Open s && bar4Mapped s off.toNat bs.length then bar4Write s (s.hl.cfg.active.aper.toNat + off.toNat) bs
    else urDrop s

/-! ## The debug path (R489) -/

/-- What J9 reads or writes. -/
def j9Access (s : State) (a : BarAccess) : State :=
  match a with
  | .read ga len =>
    let s := touch s .j9 ga.toNat len.val
    let r := gaRead s .j9 ga.toNat len.val
    if r.error.isSome || r.unmapped.isSome then send s (.rsp islMG 0 1 false [])
    else send (match r.poison with | some g => noteUE s .j9 g | none => s) (.rsp islMG 0 0 r.poison.isSome r.bytes)
  | .write ga bs =>
    let w := gaWrite s .j9 ga.toNat bs
    send w.1 (.rsp islMG 0 (if w.2.isSome then 1 else 0) false [])

/-! ## Accesses from outside that wait (R482) -/

/-- The bytes that an access names. -/
def accLen : BarAccess → Nat
  | .read _ n => n.val
  | .write _ bs => bs.length
def accAt : BarAccess → Nat
  | .read off _ => off.toNat
  | .write off _ => off.toNat

/-- An access to a block that QUIESCE holds waits. -/
def parkWaits (s : State) : Parked → Bool
  | .bar4 a => bar4Open s && ((hdr s .hlk).held || waits s .bar4 (s.hl.cfg.active.aper.toNat + accAt a) (accLen a))
  | .j9 a => waits s .j9 (accAt a) (accLen a)
  | .claim .. | .complete .. => (hdr s .evc).held

/-- Two accesses come the same way, on which they keep their order. -/
def sameWay : Parked → Parked → Bool
  | .bar4 _, .bar4 _ | .j9 _, .j9 _ => true
  | .claim .., .claim .. | .claim .., .complete .. | .complete .., .claim .. | .complete .., .complete .. => true
  | _, _ => false

/-- An access is made, or waits for its block and behind an earlier one that waits. -/
def makeAccess (s : State) (a : Parked) : State :=
  if s.parked.any (sameWay a) || parkWaits s a then { s with parked := s.parked ++ [a] }
  else match a with
    | .bar4 x => bar4Do s x
    | .j9 x => j9Access s x
    | .claim ag t => claimRead s ag t
    | .complete t n => completeAt s t n

/-- What waits goes on, in order, where nothing holds it any more: the pulses of the EVC, then the requests. -/
def resumeParked (s : State) : State :=
  let s1 := releasePulses s
  s1.parked.foldl makeAccess { s1 with parked := [] }

/-- BAR4_ACCESS (R354). A block that QUIESCE holds keeps it waiting (R482). -/
def execBar4Access (a : BarAccess) (s : State) : Host.Outcome State Fault Refusal :=
  if islandUp s islHL && s.hl.up then .next (makeAccess s (.bar4 a)) else .next s

/-- BAR4_RESIZE (R353, R354): a configuration request to the PF (R362); the BAR takes a new size while Memory Space Enable is 0. -/
def execBar4Resize (log2GiB : Fin 7) (s : State) : Host.Outcome State Fault Refusal :=
  .next (cfgRequest s (.host 0) 0 (if s.hl.mse.getLsbD 0 then s else { s with hl := { s.hl with bar4 := log2GiB } }))

/-! ## Requests that are not answered in time (R30, R42) -/

/-- The long load of a sequencer that waits for a GA. -/
def waitingLoad (s : State) (q : Fin 16) (ga : Nat) : Option (Nat × LongLoad) :=
  let ls := (s.seqs[q.val]).loads
  match ls.findIdx? (fun l => l.failed.isNone && decide (l.ga ≤ ga) && decide (ga < l.ga + l.len)) with
  | some i => (ls[i]?).map (fun l => (i, l))
  | none => none

/-- A GA lies in what the pipe reads of a stream block at issue (R60, R62). -/
def inBlock (t : Stream) (ga : Nat) : Bool :=
  decide (t.blk ≤ ga) && (decide (ga < t.blk + 0x128) || (decide (t.blk + 0x340 ≤ ga) && decide (ga < t.blk + 0x380)))

/-- A memory request of a master completes with an error response at a GA: the state after it and the context that
issued it; none where the master has no such request. A running stream works its uncommitted strips again, with the results that the
engine kept of retired directory operations (R155, R157), and stops at the element whose data the request touched. A transfer of a bank
has no fault of its own: its context takes a deferred Memory Uncorrectable; a fetch that fails takes no entry, and is made again. DESIGN
CHOICE, log entry 145. -/
def waitFails (s : State) (w : Waiter) (ga cause : Nat) : Option (State × Option Nat) :=
  match w with
  | .load q =>
    match waitingLoad s q ga with
    | none => none
    | some (i, l) =>
      some (failLoad (voidJob s l.ctx cause) q l (fault 6 0x0D 0 ga), some l.ctx)
  | .stream p e =>
    match getStream s p e with
    | none => none
    | some t =>
      match t.phase with
      | .held | .ready => none
      | .issued => if !inBlock t ga then none else some (voidJob (setStream s p e (some { t with bad := t.bad.orElse (fun _ => some ga) })) t.ctx cause, some t.ctx)
      | .active _ =>
        some (voidJob (setStream s p e (some { rewindStrm t with lost := t.lost ++ [ga] })) t.ctx cause, some t.ctx)
      | .ended => some (voidJob (setStream s p e (some { t with lost := t.lost ++ [ga] })) t.ctx cause, some t.ctx)
  | .dma =>
    match s.rqe.running.findIdx? (fun r => r.kind.move?.any (·.names ga)) with
    | none => none
    | some i =>
      some ({ s with rqe := { s.rqe with running := s.rqe.running.modify i (fun r =>
        { r with kind := r.kind.onMove (fun j => { j with lost := j.lost ++ [ga] }) }) } }, none)
  | .store q =>
    match (s.seqs[q.val]).sb.findIdx? (fun e => e.sent && decide (e.ga ≤ ga) && decide (ga < e.ga + e.bytes.length)) with
    | none => none
    | some i =>
      match (s.seqs[q.val]).sb[i]? with
      | none => none
      | some e =>
        let s1 := modSeq s q (fun x => { x with sb := dropStore x.sb i })
        some (deferAt (voidJob s1 e.ctx cause) e.ctx ga, some e.ctx)
  | .bundle q =>
    match running s q with
    | none => none
    | some (_, c) => some (voidJob (modSeq s q (fun x => { x with lost := x.lost ++ [ga] })) c cause, some c)
  | .bank q =>
    match (s.seqs[q.val]).xfer with
    | none => none
    | some t => some (deferAt (voidJob s t.load cause) t.load ga, some t.load)
  | .fetch =>
    match nextQueue s with
    | some g =>
      let x := getQp s g.val
      let at_ := hostBase + x.sqBase.toNat + 128 * x.sqhd
      if !x.sqloc && decide (at_ ≤ ga) && decide (ga < at_ + 128) then some (s, none) else none
    | none => none

/-- A read of host memory by a master meets an error response, with its record; the kinds are those of HOST_WINDOW_ERROR. -/
def hostReadFails (s : State) (w : Waiter) (ga kind : Nat) : State :=
  match waitFails s w ga 0x0218 with
  | none => s
  | some (s1, _) =>
    let s2 : State := if kind = 3 then aerSet { s1 with hl := { s1.hl with ctoCnt := satInc s1.hl.ctoCnt } } 14
      else if kind = 4 then aerSet s1 12 else s1
    offer s2 0x0218 sevFault islHL.val (ga % 2 ^ 32) (ga % hostBase / 2 ^ 32) kind

/-- A read that a master makes of host memory. A write is posted, so it has no answer. -/
def hostRead (s : State) (w : Waiter) (ga : Nat) : Bool :=
  (match place s .dma ga with | some p => decide (p.region = .host) | none => false)
    && (match w with | .store _ => false | _ => true) && islandUp s islHL

/-- HOST_WINDOW_COMPLETION_TIMEOUT (R30, R352): a read of host memory is answered Unsupported Request or Completer Abort, or not
at all. -/
def execHostWindowCompletionTimeout (m : HostMiss) (ga : BitVec 57) (s : State) : Host.Outcome State Fault Refusal :=
  if hostRead s m.w ga.toNat then
    .next (hostReadFails s m.w ga.toNat (match m.how with | .unsupported => 1 | .abort => 2 | .timeout => 3))
  else .next s

/-- UNDEFINED_BAR_REQUEST (R352). A poisoned completion is an error response to the master whose read it answers. -/
def execUndefinedBarRequest (r : BadRequest) (s : State) : Host.Outcome State Fault Refusal :=
  if !(islandUp s islHL && s.hl.up) then .next s
  else match r with
    | .nonPosted _ => .next (urAnswer s)
    | .postedUndefined => .next (urDrop s)
    | .postedPoisoned => .next (countHlk (aerSet s 12))
    | .completionPoisoned w ga => if hostRead s w ga.toNat then .next (hostReadFails s w ga.toNat 4) else .next s

/-- FM_RESPONSE_LIMIT_EXPIRY (R42). -/
def execFmResponseLimitExpiry (p : Fin 6) (w : Waiter) (ga : BitVec 57) (s : State) : Host.Outcome State Fault Refusal :=
  let far := match place s .dma ga.toNat with | some x => decide (x.region = .fm p) | none => false
  if !far || !islandUp s (islXP p) then .next s
  else match waitFails s w ga.toNat 0x0212 with
    | none => .next s
    | some (s1, c) =>
      let g := match c with | some i => !(getCtx s i).be | none => false
      .next (offer s1 0x0212 sevFault (islXP p).val (ga.toNat % 2 ^ 32) (ga.toNat / 2 ^ 32) (p.val + 256 * b2n g))

/-! ## The link goes down and comes up (R361, R363, R397) -/

/-- Presentable sources of the host target that have not sent their message send it (R397). -/
def sendHostSources (s : State) : State :=
  if !(hdr s .evc).en || (hdr s .evc).held || !evcUp s || !s.hl.l0 then s
  else (presentableOf s 17).foldl (fun a n =>
    if (srcState a n).sent then a
    else sendMsix (setSrc a n { srcState a n with sent := true }) 0 (srcCfg a n).vec.toNat) s

/-- HOST_LINK_LOSS (R363): surprise down, hot reset or link disable. -/
def execHostLinkLoss (cause : Fin 3) (s : State) : Host.Outcome State Fault Refusal :=
  if s.pwr.core && s.hl.up then .next (settle (hostLoss s (cause.val + 1))) else .next s

/-- PERST_ASSERT (R363, R456 kind 2): the reset is made, and recorded, whether or not the core rails are on. A pulse of PERST# that the
input filter of R494 takes away reaches nothing: the command stands for one that is longer. -/
def execPerstAssert (s : State) : Host.Outcome State Fault Refusal :=
  if s.pwr.perst then .next s
  else
    let s1 : State := { s with pwr := { s.pwr with perst := true, clkreq := s.pwr.clkreq || s.pwr.powered } }
    if !s.pwr.powered then .next s1
    else if !s.pwr.core then let s2 := resetRecord s1 2 0; .next { s2 with glb := { s2.glb with last := 2 } }
    else
      let s2 := resetHL (clearLinks (resetRecord s1 2 0) islHL) 4
      .next (settle { s2 with glb := { s2.glb with ready := false, last := 2 } })

/-- PERST_DEASSERT (R361): the link leaves Detect once the core rails are good. -/
def execPerstDeassert (s : State) : Host.Outcome State Fault Refusal :=
  .next { s with pwr := { s.pwr with perst := false }, hl := { s.hl with training := s.hl.training || (s.pwr.core && s.pwr.perst) } }

/-- HOST_LINK_READY (R350, R361, R484): LM is trained, FM is enumerated, and the link is in L0; 64 GT/s takes FLIT mode. -/
def execHostLinkReady (speed : Fin 7) (width : Fin 17) (flit : Bool) (s : State) : Host.Outcome State Fault Refusal :=
  if s.hl.training && islandUp s islHL && !s.hl.up && s.lmcs.all (·.trained) && s.glb.fmenum && (flit || decide (speed.val ≤ 5)) then
    let s1 : State := { s with hl := { s.hl with up := true, l0 := true, training := false, flit := flit,
                                                 speed := BitVec.ofNat 3 speed.val, width := BitVec.ofNat 5 width.val } }
    let s2 := if s1.glb.ready then s1 else raiseIrq { s1 with glb := { s1.glb with ready := true } } .glb 1#32
    .next (sendHostSources s2)
  else .next s

/-- The link stands at the speed, width and mode that it negotiated (R350, R361), which the partner decides: free values. Log entry 148. -/
def negotiated (s : State) : State :=
  let n := Config.freeTime s.free
  { s with free := s.free + 1, hl := { s.hl with
      speed := BitVec.ofNat 3 (1 + n % 6), width := BitVec.ofNat 5 (2 ^ (n / 6 % 5)), flit := decide (n % 6 = 5) || decide (n / 30 % 2 = 1) } }

/-- HOST_LINK_L0_ENTRY (R361, R397): the link reaches L0 while it trains, or is back in L0 or L0p. -/
def execHostLinkL0Entry (s : State) : Host.Outcome State Fault Refusal :=
  if islandUp s islHL && (s.hl.up || s.hl.training) then
    let s1 := if s.hl.up || s.hl.l0 then s else negotiated s
    .next (sendHostSources { s1 with hl := { s1.hl with l0 := true } })
  else .next s

/-! ## Functions (R358, R362) -/

/-- One Function Level Reset with its record (R362, R456 kind 3). -/
def flrOne (s : State) (f : Fin 64) : State := flrFn (resetRecord s 3 f.val) f

/-- FLR: a configuration request to the function. -/
def execFlr (f : Fin 64) (s : State) : Host.Outcome State Fault Refusal := .next (cfgRequest s (.host f) f (flrOne s f))

/-- VF Enable 1 to 0: an FLR of every VF (R358). -/
def disableVfs (s : State) : State :=
  let s1 := ((List.finRange 64).filter (fun f => decide (f.val ≠ 0) && fnExists s f)).foldl flrOne s
  { s1 with hl := { s1.hl with vfe := false } }

/-- VF_DISABLE: a configuration request to the PF (R358, R362). -/
def execVfDisable (s : State) : Host.Outcome State Fault Refusal :=
  .next (cfgRequest s (.host 0) 0 (if s.hl.vfe then disableVfs s else s))

/-- IDE_INTEGRITY_FAIL (R360): the stream goes Insecure, and its keys are gone. Log entry 24. -/
def execIdeIntegrityFail (stream : Fin 9) (s : State) : Host.Outcome State Fault Refusal :=
  if s.hl.ide.getLsbD stream.val then
    let m : BitVec 9 := ~~~(BitVec.ofNat 9 (2 ^ stream.val))
    .next (offer { s with hl := { s.hl with ide := s.hl.ide &&& m, ideKeyed := s.hl.ideKeyed &&& m } }
      0x0702 sevWarning islHL.val stream.val 0 0)
  else .next s

end Sys2Proof.Machine
end

