-- ==== Sys2Proof/Machine/Spdm.lean ====
section
/-! DEFINITION. The DOE mailbox of the PF: DOE Discovery, the SPDM 1.2 responder and IDE_KM (R359, R360). Response codes,
error codes and the order of requests are those of SPDM 1.2 and PCIe, which the manual names and does not restate. Log
entry 24. -/

namespace Sys2Proof.Machine

/-- The DOE mailbox answers: configuration space is served once the link is ready (R361). -/
def doeUp (s : State) : Bool := islandUp s islHL && s.hl.up

/-- SPDM error codes. -/
def spdmInvalidRequest : Nat := 1
def spdmInvalidSession : Nat := 2
def spdmUnexpected : Nat := 4
def spdmSessionLimit : Nat := 10

/-- A response, or the error of a request that comes out of order. -/
def spdmAnswer (s : State) (ok : Bool) (t : State) : State :=
  if !doeUp s then s else if ok then t else send s (.spdmError spdmUnexpected)

/-- The connection has negotiated its algorithms. -/
def spdmReady (s : State) : Bool := s.hl.spdmVersion && s.hl.spdmCaps && s.hl.spdmAlgs

/-- A response whose payload is fixed by the module's keys and firmware. -/
def spdmReply (s : State) (code : Nat) : State := send s (.spdm code 0 (Config.spdmPayload code))

/-- GET_VERSION starts the connection afresh. -/
def execGetVersion (s : State) : Host.Outcome State Fault Refusal :=
  .next (spdmAnswer s true (send { s with hl := { s.hl with spdmVersion := true, spdmCaps := false, spdmAlgs := false, sessions := [] } }
    (.spdm 0x04 0x12 0)))

/-- GET_CAPABILITIES. -/
def execGetCapabilities (s : State) : Host.Outcome State Fault Refusal :=
  .next (spdmAnswer s s.hl.spdmVersion (spdmReply { s with hl := { s.hl with spdmCaps := true } } 0x61))

/-- NEGOTIATE_ALGORITHMS: ECDSA P-384, SHA-384 and AES-256-GCM must be among the requester's. -/
def execNegotiateAlgorithms (supported : Bool) (s : State) : Host.Outcome State Fault Refusal :=
  .next (spdmAnswer s (s.hl.spdmVersion && s.hl.spdmCaps)
    (if supported then spdmReply { s with hl := { s.hl with spdmAlgs := true } } 0x63 else send s (.spdmError spdmInvalidRequest)))

/-- GET_DIGESTS. -/
def execGetDigests (s : State) : Host.Outcome State Fault Refusal := .next (spdmAnswer s (spdmReady s) (spdmReply s 0x01))

/-- A request that names a certificate slot: one chain is provisioned, in slot 0. -/
def slotReply (s : State) (slot : BitVec 8) (code : Nat) : State :=
  if slot = 0 then spdmReply s code else send s (.spdmError spdmInvalidRequest)

/-- GET_CERTIFICATE. -/
def execGetCertificate (slot : BitVec 8) (s : State) : Host.Outcome State Fault Refusal :=
  .next (spdmAnswer s (spdmReady s) (slotReply s slot 0x02))

/-- CHALLENGE. -/
def execChallenge (slot : BitVec 8) (s : State) : Host.Outcome State Fault Refusal :=
  .next (spdmAnswer s (spdmReady s) (slotReply s slot 0x03))

/-- GET_MEASUREMENTS. -/
def execGetMeasurements (s : State) : Host.Outcome State Fault Refusal :=
  .next (spdmAnswer s (spdmReady s) (spdmReply s 0x60))

/-- KEY_EXCHANGE: at most 4 sessions at once. -/
def execKeyExchange (s : State) : Host.Outcome State Fault Refusal :=
  .next (spdmAnswer s (spdmReady s)
    (if 4 ≤ s.hl.sessions.length then send s (.spdmError spdmSessionLimit)
     else send { s with hl := { s.hl with sessions := s.hl.sessions ++ [⟨s.hl.nextSession, false⟩], nextSession := s.hl.nextSession + 1 } }
       (.spdm 0x64 s.hl.nextSession (Config.spdmPayload 0x64))))

/-- FINISH completes the establishment of a session. -/
def execFinish (session : Nat) (s : State) : Host.Outcome State Fault Refusal :=
  match s.hl.sessions.find? (fun x => decide (x.id = session)) with
  | none => .next (spdmAnswer s true (send s (.spdmError spdmInvalidSession)))
  | some x =>
    .next (spdmAnswer s (!x.done)
      (send { s with hl := { s.hl with sessions := s.hl.sessions.map (fun y => if y.id = session then { y with done := true } else y) } }
        (.spdm 0x65 session 0)))

/-- A request inside an established session. -/
def inSession (s : State) (session : Nat) (t : State) : State :=
  if !doeUp s then s else if sessionUp s session then t else send s (.spdmError spdmInvalidSession)

/-- KEY_UPDATE. -/
def execKeyUpdate (session : Nat) (s : State) : Host.Outcome State Fault Refusal :=
  .next (inSession s session (send s (.spdm 0x69 session 0)))

/-- HEARTBEAT. -/
def execHeartbeat (session : Nat) (s : State) : Host.Outcome State Fault Refusal :=
  .next (inSession s session (send s (.spdm 0x68 session 0)))

/-- END_SESSION. -/
def execEndSession (session : Nat) (s : State) : Host.Outcome State Fault Refusal :=
  .next (inSession s session (send { s with hl := { s.hl with sessions := s.hl.sessions.filter (fun x => decide (x.id ≠ session)) } }
    (.spdm 0x6C session 0)))

/-- IDE_KM_REQUEST (R360): keys are programmed, and a stream whose keys are programmed is started and is Secure. -/
def execIdeKmRequest (session : Nat) (stream : Fin 9) (start : Bool) (s : State) : Host.Outcome State Fault Refusal :=
  let m : BitVec 9 := BitVec.ofNat 9 (2 ^ stream.val)
  .next (inSession s session
    (if start then
      if s.hl.ideKeyed.getLsbD stream.val then
        send { s with hl := { s.hl with ide := s.hl.ide ||| m } } (.spdm 0x200 (stream.val + 16) 0)
      else send s (.spdmError spdmUnexpected)
    else send { s with hl := { s.hl with ideKeyed := s.hl.ideKeyed ||| m } } (.spdm 0x200 stream.val 0)))

/-- DOE_DISCOVERY (R359): the data-object types 0 Discovery, 1 CMA/SPDM and 2 Secured CMA/SPDM, with the index of the
next one; all ones past the last. -/
def execDoeDiscovery (index : BitVec 8) (s : State) : Host.Outcome State Fault Refusal :=
  if !doeUp s then .next s
  else if index.toNat < 3 then .next (send s (.spdm 0x100 (index.toNat + 256 * ((index.toNat + 1) % 3)) 0))
  else .next (send s (.spdm 0x100 0xFFFF 0))

end Sys2Proof.Machine
end

