-- ==== Sys2Proof/Machine/LocalMemory.lean ====
section
/-! DEFINITION. Local memory and on-die memories: frames, aging, corrected write-backs, scrub, row retirement, training,
stack temperature, scratchpad banks (R33, R35, R37, R51, R53, R54, R407 to R409, R414 to R416, R419, R453). -/

namespace Sys2Proof.Machine

/-! ## Frames (R33 to R35) -/

/-- The pseudo-channel of a GA. -/
def lmPc (ga : Nat) : Nat := (lmPlace ga).2.1

/-- The key of the bank of a GA, and the row in it. -/
def lmBank (ga : Nat) : Nat := 48 * lmPc ga + (lmPlace ga).2.2.1
def lmRow (ga : Nat) : Nat := (lmPlace ga).2.2.2

/-- A request that hits the row its bank last served. -/
def rowHit (rows : Table Nat) (r : LmReq) : Bool := decide (tget 0 rows (lmBank r.ga) = lmRow r.ga + 1)

/-- A pick from requests with room: guaranteed ones oldest first; best-effort ones aged first, then row hits, then the oldest
(R35). -/
def pickReq (room : Nat → Nat) (rows : Table Nat) (l : List LmReq) : Option LmReq :=
  let ok := l.filter (fun r => decide (0 < room (lmPc r.ga)))
  (ok.find? (fun r => r.guaranteed || r.aged)).orElse (fun _ => (ok.find? (rowHit rows)).orElse (fun _ => ok.head?))

/-- Serves requests while their pseudo-channel has eighth-slots left: those served, those that go on waiting, and the rows. -/
def takeSlots : Nat → (Nat → Nat) → Table Nat → List LmReq → List LmReq × List LmReq × Table Nat
  | 0, _, rows, l => ([], l, rows)
  | n + 1, room, rows, l =>
    match pickReq room rows l with
    | none => ([], l, rows)
    | some r =>
      let q := takeSlots n (fun p => if p = lmPc r.ga then room p - 1 else room p) (tset 0 rows (lmBank r.ga) (lmRow r.ga + 1)) (l.erase r)
      (r :: q.1, q.2)

/-- Served requests of a pseudo-channel. -/
def onPc (l : List LmReq) (pc : Nat) : Nat := (l.filter (fun r => decide (lmPc r.ga = pc))).length

/-- Maintenance eighth-slots of a pseudo-channel that scrub and write-backs have left in a frame (R33). -/
def maintLeft (x : Lmc) (pc : Nat) : Nat := 80 - tget 0 x.maint pc

/-- Scrub or a write-back uses an eighth-slot. -/
def useMaint (x : Lmc) (pc : Nat) : Lmc := { x with maint := tset 0 x.maint pc (tget 0 x.maint pc + 1) }

/-- What maintenance leaves of a pseudo-channel's slots for best-effort requests: none where a row copy takes the rest. -/
def maintSpare (x : Lmc) (pc : Nat) : Nat :=
  match x.retire with
  | some r => if r.pc.val = pc then 0 else maintLeft x pc - Config.refreshSlots x.therm
  | none => maintLeft x pc - Config.refreshSlots x.therm

/-- A frame of a controller: 100 slots for guaranteed requests, 15 and every slot left over for best-effort ones, and those of
maintenance's ten that it has not used. -/
def serveFrame (x : Lmc) : Lmc :=
  let gs := x.waiting.filter (·.guaranteed)
  let g := takeSlots gs.length (fun _ => 800) x.rows gs
  let be := x.waiting.filter (fun r => !r.guaranteed)
  let b := takeSlots be.length (fun pc => 800 - onPc g.1 pc + 120 + maintSpare x pc) g.2.2 be
  { x with slotG := BitVec.ofNat 12 (min 3200 (cdiv x.used 8)), used := g.1.length, waiting := g.2.1 ++ b.2.1, rows := b.2.2, maint := [] }

/-- An LM controller goes on with what it has started: its island runs, its stack is trained and its page is enabled. -/
def lmcWorks (s : State) (n : Fin 12) : Bool := islandUp s (islLM n) && (s.lmcs[n.val]).trained && (hdr s (.lmc n)).en

/-- An LM controller starts something new: it is not held by QUIESCE (R482). -/
def lmcRuns (s : State) (n : Fin 12) : Bool := lmcWorks s n && !(hdr s (.lmc n)).held

/-- LM_FRAME_START (R33). -/
def execLmFrameStart (n : Fin 12) (s : State) : Host.Outcome State Fault Refusal :=
  if lmcWorks s n then .next (modLmc s n serveFrame) else .next s

/-- LM_BE_AGING (R35): the i-th waiting request is best-effort and older than 4 µs. -/
def execLmBeAging (n : Fin 12) (i : Nat) (s : State) : Host.Outcome State Fault Refusal :=
  .next (modLmc s n (fun x => { x with waiting := x.waiting.modify i (fun r => if r.guaranteed then r else { r with aged := true }) }))

/-! ## Correction and patrol scrub (R51 to R53) -/

/-- LM_CORRECTED_WRITEBACK: the oldest corrected sector is written back in a maintenance slot of its pseudo-channel (R33, R51). -/
def execLmCorrectedWriteback (n : Fin 12) (s : State) : Host.Outcome State Fault Refusal :=
  match (s.lmcs[n.val]).correct with
  | [] => .next s
  | ga :: rest =>
    if lmcWorks s n && decide (0 < maintLeft s.lmcs[n.val] (lmPc ga)) then
      .next (modLmc s n (fun x => useMaint { x with correct := rest } (lmPc ga)))
    else .next s

/-- The GA of a sector of a stack: its granule group q, and the sector within the granule (R31). -/
def stackSector (n : Fin 12) (q sec : Nat) : Nat :=
  match (List.range 12).find? (fun k => decide ((lmPlace ((12 * q + k) * 256)).1 = n.val)) with
  | some k => (12 * q + k) * 256 + 32 * sec
  | none => 0

/-- Granule groups of a stack. -/
def stackGroups (s : State) : Nat := GiB * lmTopG s / 256 / 12

/-- The sector that patrol scrub reads next: of the group that it is at, or the first of the next group. -/
def scrubAt (s : State) (x : Lmc) : Nat × Nat :=
  if x.scrubSec.toNat < 8 then (x.scrubPos.toNat, x.scrubSec.toNat)
  else (if x.scrubPos.toNat + 1 < stackGroups s then x.scrubPos.toNat + 1 else 0, 0)

/-- LM_PATROL_SCRUB (R53), in a maintenance slot (R33). A sector that is already poisoned reads as uncorrectable. -/
def execLmPatrolScrub (n : Fin 12) (found : CodeWord) (s : State) : Host.Outcome State Fault Refusal :=
  let x := s.lmcs[n.val]
  let at_ := scrubAt s x
  let ga := stackSector n at_.1 at_.2
  if !lmcRuns s n || !x.scrub.active.en || decide (maintLeft x (lmPc ga) = 0) then .next s
  else
    let s1 := modLmc s n (fun y => useMaint { y with scrubPos := BitVec.ofNat 28 at_.1, scrubSec := BitVec.ofNat 4 (at_.2 + 1) } (lmPc ga))
    let u := { s1 with upset := tset .clean s1.upset ga .clean }
    if found = .uncorrectable ∨ poisoned s ⟨.lm, ga⟩ = true ∨ tget .clean s.upset ga = .uncorrectable then
      .next (offer (modLmc { u with poison := ninsert ga u.poison } n (fun y => { y with ue := satInc y.ue, ueAddr := BitVec.ofNat 57 ga }))
        0x0201 sevFault (islLM n).val (ga % 2 ^ 32) (ga / 2 ^ 32) n.val)
    else if found = .corrected ∨ tget .clean s.upset ga = .corrected then
      .next (modLmc u n (fun y => { y with ce := satInc y.ce, correct := y.correct ++ [ga] }))
    else .next s1

/-! ## Row retirement (R54) -/

/-- LM_ROW_RETIRE_START: post-package repair first, then a spare row. Taking the last spare row exhausts the resources. -/
def execLmRowRetireStart (n : Fin 12) (pc : Fin 32) (bank : Fin 48) (row : Nat) (s : State) : Host.Outcome State Fault Refusal :=
  let x := s.lmcs[n.val]
  if !lmcRuns s n || x.retire.isSome || decide (32768 ≤ row) then .next s
  else if x.repairs < Config.repairRows then
    .next (modLmc s n (fun y => { y with retire := some ⟨pc, bank, row, false⟩, repairs := y.repairs + 1 }))
  else if x.spareFree = 0 then .next s
  else
    let s1 := modLmc s n (fun y => { y with retire := some ⟨pc, bank, row, true⟩, spareFree := y.spareFree - 1, spareUsed := y.spareUsed + 1 })
    if x.spareFree = 1 then
      .next (offer (modLmc s1 n (fun y => { y with degraded := true })) 0x0203 sevFault (islLM n).val n.val 0 0)
    else .next s1

/-- LM_ROW_RETIRE_SWITCH: the copy is complete and the mapping switches, a repair action of R419. No GA changes. -/
def execLmRowRetireSwitch (n : Fin 12) (s : State) : Host.Outcome State Fault Refusal :=
  match (s.lmcs[n.val]).retire with
  | none => .next s
  | some r =>
    if lmcWorks s n then
      .next (offer (bumpEpoch (modLmc s n (fun y => { y with retire := none, retired := y.retired ++ [r] })))
        0x0202 sevNotice (islLM n).val n.val r.row (b2n r.spare))
    else .next s

/-! ## Training and temperature (R37, R453) -/

/-- FM enumeration is complete once no port is being brought up (R453, R484); qualification has ended once no enumerated
port has a run before it or in progress. -/
def settleQual (s : State) : State :=
  let q := s.glb.fmenum && (List.finRange 6).all (fun p => !s.map.portEn.getLsbD p.val || decide (2 ≤ (s.xpts[p.val]).qstate.toNat))
  { s with glb := { s.glb with qual := q } }

/-- FM enumeration has ended when PERST_XP# is released everywhere. -/
def settleEnum (s : State) : State :=
  settleQual { s with glb := { s.glb with fmenum := s.glb.fmenum || (s.lmcs.all (·.trained) && decide (s.pwr.perstXp = 0)) } }

/-- LM_TRAINING_COMPLETE (R453). Firmware then enumerates every port that has an expander, each after PERST_XP#. -/
def execLmTrainingComplete (s : State) : Host.Outcome State Fault Refusal :=
  if !s.pwr.core || s.lmcs.all (·.trained) || !(List.finRange 12).all (fun n => islandUp s (islLM n)) then .next s
  else
    .next (settleEnum { s with lmcs := s.lmcs.map (fun x => { x with trained := true }),
                               pwr := { s.pwr with perstXp := s.pwr.perstXp ||| s.pwr.prsntXp } })

/-- LM_STACK_TEMP_CHANGE (R37): refresh runs at twice the normal rate above 85 °C. -/
def execLmStackTempChange (n : Fin 12) (tenths : BitVec 16) (s : State) : Host.Outcome State Fault Refusal :=
  let hot := decide (850 < tenths.toInt)
  let was := (s.lmcs[n.val]).therm
  if hot = was ∨ islandUp s (islLM n) = false then .next s
  else
    let s1 := modLmc s n (fun x => { x with therm := hot })
    .next (if hot then offer s1 0x0204 sevWarning (islLM n).val n.val 0 0 else s1)

/-! ## Scratchpad banks (R407 to R409, R415) -/

/-- The range of a port access. -/
def portRange : PortAccess → Nat × Nat
  | .read off len _ => (off.val, len.val)
  | .write off bs => (off.val, bs.length)

/-- A port access that a bank can take: at most a number of bytes, within one line of the bank. -/
def portFits (bank : Fin 16) (limit : Nat) (a : PortAccess) : Bool :=
  let r := portRange a
  decide (0 < r.2) && decide (r.2 ≤ limit) && decide (r.1 / 64 = (r.1 + r.2 - 1) / 64) && decide (r.1 / 64 % 16 = bank.val)

/-- A port-A write and a port-B write touch one 32-bit word. -/
def portCollide (a b : PortAccess) : Bool :=
  match a, b with
  | .write x xs, .write y ys => decide (x.val / 4 ≤ (y.val + ys.length - 1) / 4) && decide (y.val / 4 ≤ (x.val + xs.length - 1) / 4)
  | _, _ => false

/-- The GA of a scratchpad offset. -/
def spGa (sp : Fin 16) (off : Nat) : Nat := onDieBase + 0x100000 * sp.val + off

/-- The owning sequencer as a master: its accesses reach the escalation area only while STAT.ESC = 1 (R330). -/
def ownMaster (s : State) (sp : Fin 16) : Master :=
  .seq sp (match running s sp with | some (b, _) => ((s.seqs[sp.val]).banks[b.val]).lo.stat.esc | none => false)

/-- Port A: the sequencer's own access. A write that fails raises a deferred Memory Uncorrectable of the running context. -/
def portA (s : State) (sp : Fin 16) (a : PortAccess) : State :=
  let m := ownMaster s sp
  match a with
  | .read off len found =>
    let s1 := meetErrors s m (spGa sp off.val) len.val found
    match (gaRead s1 m (spGa sp off.val) len.val).poison with
    | some g => noteUE s1 m g
    | none => s1
  | .write off bs =>
    let w := gaWrite s m (spGa sp off.val) bs
    match w.2, running s sp with
    | some g, some (_, c) => deferFault w.1 c g
    | some g, none => noteUE w.1 m g
    | none, _ => w.1

/-- The resends of port-B writes without one that has ended. -/
def endResend (s : State) (sp : Fin 16) (off : Nat) (bs : List Byte) : State :=
  { s with lms := { s.lms with resend := s.lms.resend.filter (fun e => !(decide (e.1 = sp) && decide (e.2.1 = off) && decide (e.2.2.1 = bs))) } }

/-- Port B answers an access of another master; what it reads is the bank at the start of the cycle. -/
def portB (old s : State) (sp : Fin 16) (b : PortAccess) : State :=
  match b with
  | .read off len found =>
    let r := gaRead (meetErrors old .mgmt (spGa sp off.val) len.val found) .mgmt (spGa sp off.val) len.val
    let s1 := meetErrors s .mgmt (spGa sp off.val) len.val found
    let s2 := match r.poison with | some g => noteUE s1 .mgmt g | none => s1
    send s2 (if r.error.isSome || r.unmapped.isSome then .rsp (islSQ sp) 0 1 false [] else .rsp (islSQ sp) 0 0 r.poison.isSome r.bytes)
  | .write off bs =>
    let w := gaWrite s .mgmt (spGa sp off.val) bs
    match w.2 with
    | some g => send (endResend (noteUE w.1 .mgmt g) sp off.val bs) (.rsp (islSQ sp) 0 1 false [])
    | none => send (endResend w.1 sp off.val bs) (.rsp (islSQ sp) 0 0 false [])

/-- A collision: port B's access is dropped and answered COLLIDED. After the fourth answer the management core has an
error and a record is written (R409). -/
def collide (s : State) (sp bank : Fin 16) (off : Nat) (bs : List Byte) : State :=
  let n := ((s.lms.resend.find? (fun e => decide (e.1 = sp) && decide (e.2.1 = off) && decide (e.2.2.1 = bs))).map (·.2.2.2)).getD 0
  let k := 16 * sp.val + bank.val
  let s1 : State := { s with lms := { s.lms with coll := tset (0 : Reg32) s.lms.coll k (satInc (tget 0 s.lms.coll k)) } }
  let s2 := send (endResend s1 sp off bs) (.rsp (islSQ sp) 0 2 false [])
  if n + 1 < 4 then { s2 with lms := { s2.lms with resend := s2.lms.resend ++ [(sp, off, bs, n + 1)] } }
  else send (offer s2 0x0304 sevWarning islMG.val sp.val off 0) .fwError

/-- SCRATCHPAD_BANK_CYCLE: one Q-cycle of a bank (R407, R408). -/
def execScratchpadBankCycle (sp bank : Fin 16) (a b : Option PortAccess) (s : State) : Host.Outcome State Fault Refusal :=
  let a := a.filter (portFits bank 8)
  let b := b.filter (portFits bank 64)
  if !islandUp s (islSQ sp) then .next s
  else
    let s1 := match a with | some x => portA s sp x | none => s
    .next (match a, b with
      | some x, some y =>
        match y with
        | .write off bs => if portCollide x y then collide s1 sp bank off.val bs else portB s s1 sp y
        | .read .. => portB s s1 sp y
      | none, some y => portB s s1 sp y
      | _, none => s1)

/-! ## On-die correction and scrub (R414, R416, R419) -/

/-- Words of a memory (R405). -/
def memWords (m : Nat) : Nat :=
  if m < 16 then 262144 else if m < 24 then 1048576 else if m = 24 then 4194304 else if m = 25 then 2097152 else 65536

/-- The GA of the first word of a memory, or the key of the vault's. -/
def memBase (m : Nat) : Nat :=
  if m < 16 then onDieBase + 0x100000 * m
  else if m < 24 then onDieBase + 0x1000000 + 0x400000 * (m - 16)
  else if m = 24 then onDieBase + 0x4000000
  else if m = 25 then onDieBase + 0x5000000
  else vaultKey 0

/-- What LMS_M_UE_ADDR and a record show for a word (R434). -/
def memOffset (m key : Nat) : Nat := if m = 26 then key - vaultKey 0 else key - onDieBase

/-- SRAM_CORRECTED_WRITEBACK: the oldest corrected word is written back. -/
def execSramCorrectedWriteback (m : Fin 27) (s : State) : Host.Outcome State Fault Refusal :=
  if islandUp s (memIsland m.val) then .next (modMem s m.val (fun x => { x with correct := x.correct.drop 1 })) else .next s

/-- Background scrub works: LMS is enabled with scrub on. -/
def scrubRuns (s : State) (m : Fin 27) : Bool :=
  s.lms.scrub.active.en && (hdr s .lms).en && !(hdr s .lms).held && islandUp s (memIsland m.val)

/-- SRAM_SCRUB: the next word is read and checked. A word that is already poisoned reads as uncorrectable. -/
def execSramScrub (m : Fin 27) (found : CodeWord) (s : State) : Host.Outcome State Fault Refusal :=
  if !scrubRuns s m then .next s
  else
    let w := (getMem s m.val).scrubPos
    let key := memBase m.val + 4 * w
    let s1 := modMem s m.val (fun x => { x with scrubPos := if w + 1 < memWords m.val then w + 1 else 0 })
    let u := { s1 with upset := tset .clean s1.upset key .clean }
    if found = .uncorrectable ∨ s.poison.contains key = true ∨ tget .clean s.upset key = .uncorrectable then
      .next (offer (modMem { u with poison := ninsert key u.poison } m.val (fun x =>
        { x with ue := satInc x.ue, ueAddr := BitVec.ofNat 32 (memOffset m.val key) }))
        0x0301 sevFault (memIsland m.val).val m.val (memOffset m.val key) 0)
    else if found = .corrected ∨ tget .clean s.upset key = .corrected then
      .next (modMem u m.val (fun x => { x with ce := satInc x.ce, correct := x.correct ++ [key] }))
    else .next s1

/-- SRAM_REDUNDANCY_REMAP: a repair action by firmware (R419). -/
def execSramRedundancyRemap (m : Fin 27) (s : State) : Host.Outcome State Fault Refusal :=
  if islandUp s (memIsland m.val) then .next (bumpEpoch s) else .next s

end Sys2Proof.Machine
end

