-- ==== Sys2Proof/Machine/FarMemory.lean ====
section
/-! DEFINITION. Far-memory ports: withdrawal, qualification, enumeration, presence (R38, R39, R41, R43 to R45, R492, R494). -/

namespace Sys2Proof.Machine

/-- A withdrawal, after which the port is no longer among the enumerated ones. -/
def withdrawPort (s : State) (p : Fin 6) (why : Nat) (up : Bool) : State := settleQual (withdraw s p why up)

/-- FM_LINK_DOWN (R41): the link goes down, or retrains; only a lower speed or width withdraws the port. The flit mode follows the
speed: 256-byte flits at 64 GT/s, 68-byte flits below (R38). -/
def execFmLinkDown (p : Fin 6) (why : LinkChange) (s : State) : Host.Outcome State Fault Refusal :=
  let x := s.xpts[p.val]
  if !islandUp s (islXP p) || !x.up then .next s
  else match why with
    | .down => .next (modXpt (withdrawPort s p 1 false) p (fun y => { y with up := false, speed := 0, width := 0 }))
    | .speed c =>
      let s1 := if c.val < x.speed.toNat then withdrawPort s p 2 true else s
      .next (modXpt s1 p (fun y => { y with speed := BitVec.ofNat 3 c.val, flit := if c.val = 3 then 1 else 0 }))
    | .width w =>
      let s1 := if w.val < x.width.toNat then withdrawPort s p 3 true else s
      .next (modXpt s1 p (fun y => { y with width := BitVec.ofNat 5 w.val }))

/-- FM_VIRAL (R38): treated as link loss. -/
def execFmViral (p : Fin 6) (s : State) : Host.Outcome State Fault Refusal :=
  if islandUp s (islXP p) && (s.xpts[p.val]).up then
    .next (modXpt (withdrawPort s p 4 false) p (fun y => { y with up := false, speed := 0, width := 0 }))
  else .next s

/-- XPT_QUAL_START (R43): the latency monitor is cleared and step 1 begins. Ignored while a run is active or QUIESCE holds the block (R482). -/
def execXptQualStart (p : Fin 6) (s : State) : Host.Outcome State Fault Refusal :=
  if islandUp s (islXP p) && s.map.portEn.getLsbD p.val && !(s.xpts[p.val]).qstart && !(hdr s (.xpt p)).held then
    .next (settleQual (modXpt s p (fun y => { y with qstart := true, qstate := 1, cur := 1, mon := 0 })))
  else .next s

/-- A run ends (R44): the last passing step, and the largest latency measured at it. -/
def qualDone (s : State) (p : Fin 6) (step lat : Nat) : State :=
  let s1 := modXpt s p (fun y => { y with
    step := BitVec.ofNat 4 step, lat := BitVec.ofNat 16 lat, qualified := decide (1 ≤ step), qstate := 2, qstart := false, cur := 0 })
  settleQual (offer s1 0x0214 sevNotice (islXP p).val p.val step lat)

/-- The 64-byte writes of the load over the port's mapped capacity: port-local addresses and data, which R43 calls random, so
the command names those that took effect. Log entry 133. -/
def loadWrites (s : State) (p : Fin 6) (l : List (Nat × BitVec 512)) : State :=
  l.foldl (fun a w =>
    let x := w.1 - w.1 % 64
    if x + 64 ≤ fmCap a p.val then
      wrBytes { a with poison := a.poison.filter (fun k => decide (k < fmBase p.val + x) || decide (fmBase p.val + x + 64 ≤ k)) }
        (fmBase p.val + x) (bytesOf w.2.toNat 64)
    else a) s

/-- FM_QUAL_STEP_END (R43, R44): a step, whose load has written to the port, passes when its largest latency is at most 1.2 µs. -/
def execFmQualStepEnd (p : Fin 6) (r : QualStep) (s0 : State) : Host.Outcome State Fault Refusal :=
  let x := s0.xpts[p.val]
  let s := loadWrites s0 p r.writes
  if !x.qstart || !islandUp s0 (islXP p) then .next s0
  else if 1200 < r.worstNs.toNat then .next (qualDone s p (x.cur.toNat - 1) x.mon.toNat)
  else if x.cur = 15 then .next (qualDone s p 15 r.worstNs.toNat)
  else .next (modXpt s p (fun y => { y with cur := y.cur + 1, mon := r.worstNs }))

/-- The modes of R38: 64 GT/s in 256-byte flit mode, 32 and 16 GT/s in 68-byte flit mode, x16, x8 or x4. -/
def linkSupported (r : Enumeration) : Bool :=
  decide (1 ≤ r.speed.val) && decide (r.flit = decide (r.speed.val = 3)) && (r.width.val == 4 || r.width.val == 8 || r.width.val == 16)

/-- One expander directly, or up to 16 behind one level of switch (R39). -/
def topologyOk (r : Enumeration) : Bool := decide (r.count.val ≤ 1) || r.switch

/-- The records of an enumeration (R38, R39). -/
def enumRecords (s : State) (p : Fin 6) (r : Enumeration) : State :=
  let s1 := match r.rejected with
    | some (dev, why) => offer s 0x0215 sevWarning (islXP p).val p.val dev.toNat why.val
    | none => if r.trained && (!linkSupported r || !topologyOk r) then
        offer s 0x0215 sevWarning (islXP p).val p.val 0 (if linkSupported r then 3 else 2) else s
  if r.trained && decide (32768 < r.capGiB) then offer s1 0x0216 sevWarning (islXP p).val p.val (r.capGiB - 32768) 0 else s1

/-- What an enumeration leaves in a port: enabled with the capacity found, or withdrawn. A port that is not enabled again keeps its
capacity, and its GAs their errors (R41). -/
def enumPort (s : State) (p : Fin 6) (r : Enumeration) : State :=
  let m : BitVec 6 := BitVec.ofNat 6 (2 ^ p.val)
  let ok := r.trained && linkSupported r && topologyOk r && decide (1 ≤ r.count.val)
  let s1 := modXpt s p (fun y => { y with
    up := r.trained, flit := if r.trained && r.flit then 1 else 0, speed := if r.trained then BitVec.ofNat 3 r.speed.val else 0,
    width := if r.trained then BitVec.ofNat 5 r.width.val else 0, switch := ok && r.switch,
    count := if ok then BitVec.ofNat 5 r.count.val else 0, capG := if ok then BitVec.ofNat 16 (min 32768 r.capGiB) else y.capG })
  if ok then { s1 with map := { s1.map with portEn := s1.map.portEn ||| m } }
  else { s1 with map := { s1.map with portEn := s1.map.portEn &&& ~~~m } }

/-- PERST_XP# of a port is released (R491). -/
def releasePerstXp (s : State) (p : Fin 6) : State :=
  { s with pwr := { s.pwr with perstXp := s.pwr.perstXp &&& ~~~(BitVec.ofNat 6 (2 ^ p.val)) } }

/-- PERST_XP_END (R45): the pin is released; the port is trained and enumerated, if its island runs. -/
def execPerstXpEnd (p : Fin 6) (r : Enumeration) (s : State) : Host.Outcome State Fault Refusal :=
  if !s.pwr.perstXp.getLsbD p.val then .next s
  else if !islandUp s (islXP p) then .next (settleEnum (releasePerstXp s p))
  else .next (settleEnum (enumRecords (enumPort (releasePerstXp s p) p r) p r))

/-- PRSNT_XP_REMOVAL (R492, R494): a high pulse of 1 µs or less is filtered. -/
def execPrsntXpRemoval (p : Fin 6) (pulseNs : Nat) (s : State) : Host.Outcome State Fault Refusal :=
  if pulseNs ≤ 1000 ∨ s.pwr.prsntXp.getLsbD p.val = false then .next s
  else
    let s1 : State := { s with pwr := { s.pwr with prsntXp := s.pwr.prsntXp &&& ~~~(BitVec.ofNat 6 (2 ^ p.val)) } }
    .next (modXpt (settleQual (withdraw s1 p 1 false)) p (fun y => { y with up := false, speed := 0, width := 0 }))

/-- PRSNT_XP_INSERT (R492, R494): after the debounce, PERST_XP# is asserted; an XP island that is OFF is woken. During
bring-up the port is enumerated with the others. -/
def execPrsntXpInsert (p : Fin 6) (s : State) : Host.Outcome State Fault Refusal :=
  if s.pwr.prsntXp.getLsbD p.val then .next s
  else
    let s1 : State := { s with pwr := { s.pwr with prsntXp := s.pwr.prsntXp ||| BitVec.ofNat 6 (2 ^ p.val) } }
    let s2 := if s1.pwr.core then modIsl s1 (islXP p) (fun x => if x.st = .run then x else { x with req := .run, waking := true }) else s1
    if s2.pwr.core && s2.lmcs.all (·.trained) then .next (assertPerstXp s2 p) else .next s2

end Sys2Proof.Machine
end

