-- ==== Sys2Proof/Machine/Fabric.lean ====
section
/-! DEFINITION. Crossings and crossbars: receiving a transaction, credits, arbitration, aging, floor grants and holdback
(R13, R15 to R17, R422 to R433). -/

namespace Sys2Proof.Machine

/-! ## What a sender sends (R422, R430) -/

/-- The channel that carries a transaction. -/
def xChannel (t : Crossing) : Nat :=
  if xQos t = 15 then 3 else if !isRequest t then 2 else if 12 ≤ xQos t then 0 else 1

/-- The QoS of guaranteed traffic with a deadline slot (R422). -/
def urgency (s : State) (d : BitVec 20) : Nat :=
  if distance s d ≤ 64 then 14 else if distance s d ≤ 1024 then 13 else 12

/-- What the QoS of an access is computed from: ESC, the best-effort class, and the deadline slot of its job or stream. -/
structure Urgent where
  esc : Bool
  be : Bool
  dl : BitVec 20
  deriving DecidableEq, Repr

/-- The access of a context, as it stands in the capacity classes. -/
def ctxUrgent (s : State) (esc : Bool) (c : Nat) : Urgent := ⟨esc, (getCtx s c).be, (getCtx s c).dlslot⟩

/-- The access that a request carries, where its master waits for it. -/
def ownUrgent (s : State) (t : Crossing) : Option Urgent :=
  match t.own with
  | some (.load q, ga) => (waitingLoad s q ga.toNat).map (fun l => ctxUrgent s l.2.before.lo.stat.esc l.2.ctx)
  | some (.store q, ga) =>
    ((s.seqs[q.val]).sb.find? (fun e => e.sent && decide (e.ga ≤ ga.toNat) && decide (ga.toNat < e.ga + e.bytes.length))).map
      (fun e => ctxUrgent s e.esc e.ctx)
  | some (.bundle q, _) => (running s q).map (fun r => ctxUrgent s (((s.seqs[q.val]).banks[r.1.val]).lo.stat.esc) r.2)
  | some (.stream p e, _) => (getStream s p e).map (fun x => ⟨false, x.be, x.dl⟩)
  | _ => none

/-- A request carries the QoS that its master assigns (R422): 2 and 3 are never assigned. A best-effort request enters at 4 and may have
aged on its way (R423). The management island sends for the management core, for the scrub of on-die memories and for J9; the host
island's own traffic is best-effort. DEDUCED, log entry 146. -/
def qosFits (s : State) (t : Crossing) : Bool :=
  let q := xQos t
  let be := decide (4 ≤ q) && decide (q ≤ 11)
  let i := xSrc t
  if i = 33 then decide (q = 15) || decide (q = 1) || decide (q = 0)
  else if i = 32 then decide (q = 14)
  else if i = 0 then be
  else if i < 19 then decide (q = 1)
  else match ownUrgent s t with
    | some u => if u.esc then decide (q = 15) else if u.be then be else decide (q = urgency s u.dl)
    | none => decide (4 ≤ q)

/-- A transaction that a sender of R422 and R430 sends; a bit error or a reserved value is not the sender's. -/
def xSendable (s : State) (t : Crossing) : Bool :=
  t.double || xReserved t || (decide (t.xvc.val = xChannel t) && (!isRequest t || qosFits s t))

/-! ## Ports and holdback (R423, R428) -/

/-- A key of an island's port. -/
def portKey (isl : Fin 34) (port : Nat) : Nat := 64 * isl.val + port

/-- Requests waiting at a port. -/
def portOf (s : State) (isl : Fin 34) (port : Nat) : List FabReq := tget [] s.fab.ports (portKey isl port)

/-- Replaces the requests waiting at a port. -/
def setPort (s : State) (isl : Fin 34) (port : Nat) (l : List FabReq) : State :=
  { s with fab := { s.fab with ports := tset [] s.fab.ports (portKey isl port) l } }

/-- The target port of a request in an island: the pseudo-channel, the sequencer's scratchpad, or the one port. -/
def targetPort (isl : Fin 34) (t : Crossing) : Nat :=
  if 7 ≤ isl.val ∧ isl.val < 19 then lmPc (xGa t)
  else if 27 ≤ isl.val ∧ isl.val < 31 then (xGa t - onDieBase) / 0x100000 % 4
  else 0

/-- Two transactions have a 64-byte line in common. -/
def sameLine (r t : Crossing) : Bool :=
  decide (xGa r / 64 ≤ (xGa t + xLen t - 1) / 64) && decide (xGa t / 64 ≤ (xGa r + xLen r - 1) / 64)

/-- An earlier request of a list holds back a later one of the same master: a write to one of its lines, or a FENCE. -/
def holdsBack (l : List FabReq) (t : Crossing) : Bool :=
  l.any (fun r => decide (xMaster r.t = xMaster t) && (decide (xOp r.t = 2) || (decide (xOp r.t = 1) && sameLine r.t t)))

/-- Every write and FENCE of an island that is not acknowledged: granted, waiting at a port, or held back itself. -/
def pendingWrites (s : State) (isl : Fin 34) : List FabReq :=
  tget [] s.fab.unacked isl.val
    ++ ((s.fab.ports.filter (fun e => decide (e.1 / 64 = isl.val))).flatMap (·.2)).filter (fun r => decide (1 ≤ xOp r.t))
    ++ (tget [] s.fab.held isl.val).filter (fun r => decide (1 ≤ xOp r.t))

/-- Adds one to a counter of an island. -/
def countFab (t : Table Reg32) (isl : Fin 34) (n : Nat) : Table Reg32 := tset (0 : Reg32) t isl.val (satAdd (tget 0 t isl.val) n)

/-- A request enters its port, or is held back and counted. -/
def enterPort (s : State) (isl : Fin 34) (r : FabReq) : State :=
  if holdsBack (pendingWrites s isl) r.t then
    { s with fab := { s.fab with held := tset [] s.fab.held isl.val (tget [] s.fab.held isl.val ++ [r]), hold := countFab s.fab.hold isl 1 } }
  else setPort s isl (targetPort isl r.t) (portOf s isl (targetPort isl r.t) ++ [r])

/-! ## Receiving (R15, R16, R431, R433) -/

/-- The page of an island whose PG_ERRCNT counts its corrected words: the island's own, its first sequencer's in an SQ island, DAU's
in AS, HLK's in HL, GLB's in MG. DESIGN CHOICE (log entry 134): R16 says only 'the receiving block'. -/
def islPage (i : Fin 34) : PageId :=
  if h : 1 ≤ i.val ∧ i.val < 7 then .xpt ⟨i.val - 1, by omega⟩
  else if h : 7 ≤ i.val ∧ i.val < 19 then .lmc ⟨i.val - 7, by omega⟩
  else if h : 19 ≤ i.val ∧ i.val < 27 then .pipe ⟨i.val - 19, by omega⟩
  else if h : 27 ≤ i.val ∧ i.val < 31 then .seq ⟨4 * (i.val - 27), by omega⟩
  else if i.val = 0 then .hlk else if i.val = 31 then .dir else if i.val = 32 then .dau else .glb

/-- Counts corrected words. -/
def countSingles (s : State) (dst : Fin 34) (n : Nat) : State :=
  if n = 0 then s
  else modHdr { s with fab := { s.fab with ce := countFab s.fab.ce dst n } } (islPage dst) (fun h => { h with errcnt := satAdd h.errcnt n })

/-- A transaction that is not delivered. -/
def dropCrossing (s : State) (dst : Fin 34) (t : Crossing) : State :=
  let s1 : State := { s with fab := { s.fab with ue := countFab s.fab.ue dst 1 } }
  if isRequest t then respond s1 dst t 1 [] else s1

/-- The access that a transaction belongs to completes with an error: its job has met an uncorrectable memory error (R16). -/
def failOwner (s : State) (t : Crossing) : State :=
  match t.own.bind (fun o => waitFails s o.1 o.2.toNat 0x0302) with
  | some r => r.1
  | none => s

/-- Requests of a master that are outstanding at a target port of an island (R427). -/
def outstandingAt (s : State) (isl : Fin 34) (t : Crossing) : Nat :=
  ((portOf s isl (targetPort isl t) ++ tget [] s.fab.held isl.val ++ tget [] s.fab.unacked isl.val).filter (fun r =>
    decide (xMaster r.t = xMaster t) && decide (targetPort isl r.t = targetPort isl t))).length

/-- CROSSING_TRANSACTION_RECEIVE. The sender holds a credit of the channel for every beat that it has in flight, and a 65th request
to a target port waits at its master (R427); it uses the channel and the QoS that the tables give its master (R422, R430). -/
def execCrossingTransactionReceive (dst : Fin 34) (link : Fin 256) (t : Crossing) (s : State) : Host.Outcome State Fault Refusal :=
  let k := creditKey (srcIsl t) dst link t.xvc
  let cap := channelCredits t.xvc.val
  if !xSendable s t || decide (cap ≤ creditsUsed s k) || (isRequest t && decide (64 ≤ outstandingAt s dst t)) then .next s
  else if !islandUp s dst then .next (if isRequest t then respond s dst t 1 [] else s)
  else
    let s1 := countSingles (takeCredits s k t.xvc (xBeats t)) dst t.singles
    if t.double then
      .next (offer (failOwner (dropCrossing s1 dst t) t) 0x0302 sevFault dst.val dst.val (srcIsl t).val t.xvc.val)
    else if xReserved t then .next (dropCrossing s1 dst t)
    else if isRequest t then .next (enterPort s1 dst ⟨t, BitVec.ofNat 4 (xQos t), 0⟩)
    else .next s1

/-- CROSSING_CREDIT_RETURN (R430): a response that waits for the credit goes out. -/
def execCrossingCreditReturn (src dst : Fin 34) (link : Fin 256) (ch : Fin 4) (s : State) : Host.Outcome State Fault Refusal :=
  let k := creditKey src dst link ch
  .next (releaseRsps (setCredits s k (creditsUsed s k - 1)))

/-- XRST_N (R431): the buffers of every link of an island are emptied, and full credits restored. -/
def execXrstN (isl : Fin 34) (s : State) : Host.Outcome State Fault Refusal := .next (clearLinks s isl)

/-! ## Grants (R36, R405, R414, R423 to R426) -/

/-- The master of a transaction as memory sees it. In the AS island port 0 is the DAU's, every other the CSC's; J9's accesses carry
QoS 0 (R422). DESIGN CHOICE, log entry 135. -/
def xMemMaster (t : Crossing) : Master :=
  let i := xSrc t
  if h : 19 ≤ i ∧ i < 27 then .pipe ⟨i - 19, by omega⟩
  else if h : 27 ≤ i ∧ i < 31 then .seq ⟨4 * (i - 27) + xPort t % 4, by omega⟩ (decide (xQos t = 15))
  else if i = 31 then .scarab
  else if i = 32 then (if xPort t = 0 then .dau else .csc)
  else if i = 33 then (if xQos t = 0 then .j9 else .mgmt)
  else if i = 0 then .dma
  else .other

/-- A write of one data beat carries byte enables for its first 32 bytes. -/
def xEnabled (t : Crossing) (i : Nat) : Bool := decide (64 < t.data.length) || decide (32 ≤ i) || t.w4.getLsbD i

/-- The bytes of a write are written, one by one where some are not enabled. A write of the DAU or the CSC to the context store or
the pool carries the record or the half that the state of the context holds already (R297, R302). -/
def xWrite (s : State) (m : Master) (t : Crossing) : State × Option Nat :=
  if (m = .dau || m = .csc) && inStore (xGa t) then (s, none)
  else if (List.range t.data.length).all (xEnabled t) then gaWrite s m (xGa t) t.data
  else (List.range t.data.length).foldl (fun a i =>
    if xEnabled t i then
      let w := gaWrite a.1 m (xGa t + i) [(t.data[i]?).getD 0]
      (w.1, a.2.orElse (fun _ => w.2))
    else a) (s, none)

/-- Whether every byte that a request names is served by an island. -/
def xServed (s : State) (isl : Fin 34) (m : Master) (t : Crossing) : Bool :=
  (List.range (xLen t)).all (fun i => match place s m (xGa t + i) with
    | some p => decide (regionIsland p = isl)
    | none => false)

/-- A request that an LM controller has accepted takes eighth-slots, one per sector (R33). -/
def queueSlots (s : State) (isl : Fin 34) (t : Crossing) : State :=
  if h : 7 ≤ isl.val ∧ isl.val < 19 then
    modLmc s ⟨isl.val - 7, by omega⟩ (fun x => { x with waiting := x.waiting ++
      (List.range ((xGa t + xLen t - 1) / 32 - xGa t / 32 + 1)).map (fun j => ⟨(xGa t / 32 + j) * 32, xGuaranteed t, false⟩) })
  else s

/-- A write of the management core that the fourth COLLIDED answer fails: an error goes to Thaid, and a record is written (R409). -/
def mgmtFails (s : State) (failed : Bool) (ga : Nat) : State :=
  if failed then send (offer s 0x0304 sevWarning islMG.val ((ga - onDieBase) / 0x100000) (ga % 0x100000) 0) .fwError else s

/-- A granted request takes effect: a READ is answered with its data, a WRITE becomes visible, and WRITE and FENCE wait for
their acknowledgement. -/
def serveReq (s : State) (isl : Fin 34) (r : FabReq) : State :=
  let t := r.t
  let m := xMemMaster t
  let unacked := fun (a : State) =>
    { a with fab := { a.fab with unacked := tset [] a.fab.unacked isl.val (tget [] a.fab.unacked isl.val ++ [r]) } }
  if xOp t = 2 then unacked s
  else if !xServed s isl m t then respond s isl t 1 []
  else if xOp t = 0 then
    let d := gaRead s m (xGa t) (xLen t)
    let s1 := queueSlots (match d.poison with | some g => noteUE s m g | none => s) isl t
    respondData s1 isl t (if d.error.isSome then 1 else 0) d.poison.isSome
      (d.bytes.mapIdx (fun i b => if inStore (xGa t + i) then storeByte s (xGa t + i) else b))
  else
    let w := xWrite s m t
    match w.2 with
    | some g => mgmtFails (respond (noteUE w.1 m g) isl t 1 []) (decide (m = .mgmt) && collidedAt s m g) g
    | none => unacked (queueSlots w.1 isl t)

/-- Requests of a list that follow no request of the same master to the same bytes: an LM controller completes those of one address in
issue order (R35). -/
def firstOnes : List FabReq → List FabReq → List FabReq
  | _, [] => []
  | before, r :: rs =>
    (if before.any (fun y => decide (xMaster y.t = xMaster r.t) && decide (xGa y.t < xGa r.t + xLen r.t) && decide (xGa r.t < xGa y.t + xLen y.t))
      then [] else [r]) ++ firstOnes (before ++ [r]) rs

/-- The requests of a port among which it may grant one: a block held by QUIESCE keeps its requests at the crossing (R482). -/
def grantable (s : State) (isl : Fin 34) (l : List FabReq) : List FabReq :=
  (if 7 ≤ isl.val ∧ isl.val < 19 then firstOnes [] l else l).filter (fun r => !waits s (xMemMaster r.t) (xGa r.t) (xLen r.t))

/-- The waiting request that arbitration grants: the highest QoS, and among equals the master whose turn comes next after the
one granted last. -/
def arbitrate (last : Nat) (l : List FabReq) : Option FabReq :=
  let turn := fun (r : FabReq) => (xMaster r.t + 4096 - (last + 1)) % 4096
  l.foldl (fun b r => match b with
    | none => some r
    | some x => if x.qos < r.qos ∨ (x.qos = r.qos ∧ turn r < turn x) then some r else some x) none

/-- A request leaves its port and is served; `found` is what a READ finds in the units it reads. Beats that the port carries let
time pass for the block on floor grants. -/
def grant (s0 : State) (isl : Fin 34) (port : Nat) (r : FabReq) (floor : Bool) (found : List (BitVec 57 × CodeWord)) : State :=
  let s := if xOp r.t = 0 then meetErrors s0 (xMemMaster r.t) (xGa r.t) (xLen r.t) found else s0
  let k := portKey isl port
  let b := xBeats r.t
  let s1 := setPort s isl port ((portOf s isl port).erase r)
  let left := tget 0 s1.fab.blocked k - b
  let s2 : State := { s1 with fab := { s1.fab with
    last := tset 0 s1.fab.last k (xMaster r.t),
    blocked := tset 0 s1.fab.blocked k (if floor then b * s1.fab.cfg.active.floor.toNat else left) } }
  serveReq s2 isl r

/-- CROSSBAR_ARBITRATION (R423, R425, R426). -/
def execCrossbarArbitration (isl : Fin 34) (t : PortTurn) (s : State) : Host.Outcome State Fault Refusal :=
  if !islandUp s isl then .next s
  else match arbitrate (tget 0 s.fab.last (portKey isl t.port.val)) (grantable s isl (portOf s isl t.port.val)) with
    | some r => .next (grant s isl t.port.val r false t.found)
    | none => .next s

/-- QOS_AGING_STEP (R423): a best-effort request has waited FAB_CFG.AGE cycles more. -/
def execQosAgingStep (isl : Fin 34) (port : Fin 64) (i : Nat) (s : State) : Host.Outcome State Fault Refusal :=
  .next (setPort s isl port.val ((portOf s isl port.val).modify i (fun r =>
    { r with waited := r.waited + 1, qos := if 4 ≤ r.qos.toNat ∧ r.qos.toNat < 11 then r.qos + 1 else r.qos })))

/-- FLOOR_GRANT (R424): the request below QoS 12 that has waited longest wins, unless a QoS 15 request waits or floor grants
are blocked. -/
def execFloorGrant (isl : Fin 34) (t : PortTurn) (s : State) : Host.Outcome State Fault Refusal :=
  let l := portOf s isl t.port.val
  if !islandUp s isl || l.any (fun r => decide (r.qos = 15)) || decide (tget 0 s.fab.blocked (portKey isl t.port.val) ≠ 0) then .next s
  else match (grantable s isl l).find? (fun r => decide (r.qos.toNat < 12)) with
    | none => .next s
    | some r =>
      let s1 : State := { s with fab := { s.fab with floorCnt := countFab s.fab.floorCnt isl 1 } }
      .next (grant s1 isl t.port.val r true t.found)

/-! ## Acknowledgement and holdback (R428) -/

/-- Requests held back in an island whose reason has gone enter their ports, in order. -/
def releaseHeld (s : State) (isl : Fin 34) : State :=
  let l := tget [] s.fab.held isl.val
  let s0 : State := { s with fab := { s.fab with held := tset [] s.fab.held isl.val [] } }
  l.foldl (fun a r =>
    if holdsBack (pendingWrites a isl) r.t then
      { a with fab := { a.fab with held := tset [] a.fab.held isl.val (tget [] a.fab.held isl.val ++ [r]) } }
    else setPort a isl (targetPort isl r.t) (portOf a isl (targetPort isl r.t) ++ [r])) s0

/-- FABRIC_HOLDBACK_RELEASE: the write or FENCE of a tag is acknowledged; a FENCE only once every earlier write of its master
is. -/
def execFabricHoldbackRelease (isl : Fin 34) (tag : BitVec 12) (s : State) : Host.Outcome State Fault Refusal :=
  let l := tget [] s.fab.unacked isl.val
  match l.find? (fun r => decide (xTag r.t = tag)) with
  | none => .next s
  | some r =>
    let before := l.takeWhile (fun y => y != r)
    let waiting := ((s.fab.ports.filter (fun e => decide (e.1 / 64 = isl.val))).flatMap (·.2)).filter (fun y => decide (xOp y.t = 1))
    if decide (xOp r.t = 2) && (before ++ waiting).any (fun (y : FabReq) => decide (xMaster y.t = xMaster r.t)) then .next s
    else
      let s1 : State := { s with fab := { s.fab with unacked := tset [] s.fab.unacked isl.val (l.erase r) } }
      .next (releaseHeld (respond s1 isl r.t 0 []) isl)

end Sys2Proof.Machine
end

