-- ==== Sys2Proof/Machine/Power.lean ====
section
/-! DEFINITION. Power, bring-up, module and block resets, island sleep states, lifecycle, tamper, the flush engine's end, and
J9 (R186, R187, R319, R391, R397, R401, R417 to R420, R441, R442, R448 to R466, R488, R489). -/

namespace Sys2Proof.Machine

/-! ## Power-fail and the flush (R441, R442, R451, R452, R466) -/

/-- A reset that waited for the flush pass is made (R466). -/
def pendingReset (s : State) : State :=
  match s.pwr.resetPend with
  | some (cold, mgmt) => doReset { s with pwr := { s.pwr with resetPend := none } } cold mgmt
  | none => s

/-- A tamper wipe of the vault runs during a power-fail warning: it comes before the flush (R466). -/
def wipeFirst (s : State) : Bool := s.pwr.pfw && s.pwr.locked && s.objs.wipes.contains .vault

/-- EVR_RECORD_PROGRAMMED (R441): the oldest buffered record is in the log. At the end of the pass the counts are written
(R438, R442), and a reset that waited is made. -/
def execEvrRecordProgrammed (s : State) : Host.Outcome State Fault Refusal :=
  if !s.pwr.powered || wipeFirst s then .next s
  else if s.evr.flushing then
    let s1 := programOne s
    .next (if s1.evr.flushing then s1 else pendingReset (persist s1))
  else .next (pendingReset s)

/-- POWER_FAIL_WARNING (R442, R451): by level below 8.5 V, or by slope unless PWR_CFG.SLOPE is 0. -/
def execPowerFailWarning (mv : BitVec 16) (slope : Bool) (s : State) : Host.Outcome State Fault Refusal :=
  let low := decide (mv.toNat < 8500)
  let fast := slope && decide (s.pwr.cfg.active.slope ≠ 0)
  if !s.pwr.powered || s.pwr.pfw || !(low || fast) then .next s
  else
    let s1 : State := { s with pwr := { s.pwr with mv := mv, pfw := true, holdup := true, grace := true } }
    let s2 := offer s1 0x0102 sevFault islMG.val mv.toNat (if low then 1 else 2) 0
    .next (raiseIrq (startFlush (closeBoth s2 3)) .pwr 1#32)

/-- GRACE_EXPIRY (R451): sequencers and pipes stop, no further entry is written, and the core rails go off. -/
def execGraceExpiry (s : State) : Host.Outcome State Fault Refusal :=
  if s.pwr.grace then .next (settle (coreLost { s with pwr := { s.pwr with grace := false, stopped := true } })) else .next s

/-- INPUT_RECOVERY (R452): a warm reset once the flush pass has ended. -/
def execInputRecovery (mv : BitVec 16) (s : State) : Host.Outcome State Fault Refusal :=
  if s.pwr.powered && s.pwr.pfw && decide (9500 ≤ mv.toNat) then
    .next (moduleReset { s with pwr := { s.pwr with mv := mv } } false false)
  else .next s

/-! ## Measurement and the throttle (R186, R187, R448 to R450) -/

/-- The guarantee floor of a band, in mV (R186). -/
def floorMv (band : Nat) : Nat :=
  match band with
  | 0 => 39000 | 1 => 29000 | 2 => 19000 | 3 => 11000 | _ => 8500

/-- The floor of the committed band is crossed (R187): the input is below it, or guaranteed cycles are withheld. -/
def floorCrossed (s : State) : Bool :=
  decide (s.pwr.mv.toNat < floorMv s.dau.cfg.active.band.toNat) || s.pwr.withhold

/-- The input voltage that is measured: at the sense contacts, or inside the module while either of them is open (R488). -/
def measuredMv (s : State) (m : Measurement) : BitVec 16 := if s.pwr.senseP && s.pwr.senseN then m.mv else m.mvInside

/-- The measured power exceeds P(V). -/
def powerExceeds (s : State) (m : Measurement) : Bool := decide (availMw (measuredMv s m).toNat < 1000 * m.w.toNat)

/-- The throttle raises its level by 1. -/
def raiseLevel (s : State) : State :=
  let s1 : State := { s with pwr := { s.pwr with level := if s.pwr.level = 15 then 15 else s.pwr.level + 1 } }
  if s.pwr.level = 0 then raiseIrq s1 .pwr 8#32 else s1

/-- PWR_MEASUREMENT (R450, R469). Log entry 32. -/
def execPwrMeasurement (m : Measurement) (s : State) : Host.Outcome State Fault Refusal :=
  if !s.pwr.powered then .next s
  else if s.pwr.core && decide (60000 < (measuredMv s m).toNat) then .fault .surroundingsInput
  else
    let s1 : State := { s with pwr := { s.pwr with
      mv := measuredMv s m, iin := m.ma10, w := m.w, jmax := m.jmax, smax := m.smax, cplate := m.cplate } }
    let s2 := if powerExceeds s m then raiseLevel { s1 with pwr := { s1.pwr with withhold := s1.pwr.withhold || m.beExhausted } } else s1
    .next { s2 with pwr := { s2.pwr with floor := s2.pwr.floor && floorCrossed s2 } }

/-- THROTTLE_LOWER (R450): power has stayed below 95 % of P(V) for 100 µs. Guaranteed cycles are withheld no more, so the floor counts as
crossed only while the input lies below it (R187). -/
def execThrottleLower (s : State) : Host.Outcome State Fault Refusal :=
  if decide (s.pwr.level ≠ 0) && decide (100000 * s.pwr.w.toNat < 95 * availMw s.pwr.mv.toNat) then
    let s1 : State := { s with pwr := { s.pwr with level := s.pwr.level - 1, withhold := false } }
    .next { s1 with pwr := { s1.pwr with floor := s1.pwr.floor && floorCrossed s1 } }
  else .next s

/-- GUARANTEE_FLOOR_CROSSING (R187): guaranteed admission closes, and a guaranteed job that reaches its deadline before it
completes is void (R167). -/
def execGuaranteeFloorCrossing (s : State) : Host.Outcome State Fault Refusal :=
  if !s.pwr.powered || s.pwr.floor || !floorCrossed s then .next s
  else
    let s1 := offer s 0x0104 sevFault islMG.val s.dau.cfg.active.band.toNat s.pwr.mv.toNat 0
    let s2 := raiseIrq (closeG s1 2) .pwr 2#32
    .next { s2 with pwr := { s2.pwr with floor := true },
                    ctxs := tmap Ctx.free (fun x =>
                      if x.be = false ∧ x.st ≠ .free ∧ x.st ≠ .ending then { x with floor := true } else x) s2.ctxs }

/-- The trip point of a sensor, in 0.1 °C (R460). -/
def tripPoint : TempSensor → Int
  | .junction _ => 1150
  | .stack _ => 1050

/-- The number of a sensor. -/
def sensorNumber : TempSensor → Nat
  | .junction n | .stack n => n.toNat

/-- THERMAL_TRIP (R460): a sensor reaches its trip point, and the core rails go off. -/
def execThermalTrip (sensor : TempSensor) (tenths : BitVec 32) (s : State) : Host.Outcome State Fault Refusal :=
  if !s.pwr.powered || decide (tenths.toInt < tripPoint sensor) then .next s
  else
    let s1 := offer s 0x0107 sevCritical islMG.val (sensorNumber sensor) tenths.toNat 0
    .next (settle (coreLost { s1 with pwr := { s1.pwr with trip := true, tripHold := true, stopped := true, grace := false } }))

/-! ## Tamper and the lifecycle (R461 to R466) -/

/-- TAMPER (R464 to R466). The TAMPER record is written when the wipe of the vault has completed. -/
def execTamper (src : Fin 4) (s : State) : Host.Outcome State Fault Refusal :=
  let m : BitVec 4 := BitVec.ofNat 4 (2 ^ src.val)
  if !s.pwr.powered || (decide (src.val = 0) && decide (s.pwr.lc = 0)) then .next s
  else
    let s1 : State := { s with pwr := { s.pwr with
      tamper := s.pwr.tamper ||| m, tamperDue := s.pwr.tamperDue ||| m, locked := true, lcPend := none, tamperPend := true } }
    let s2 := closeBoth (startWipe (startWipe s1 .vault) .scratchpads) 4
    .next (settle (endAllVoid s2 0x0108))

/-- A transition of R462 and the key that must sign it; owner says which key signed the request. -/
def lcPermitted (s : State) (t : Fin 5) (owner : Bool) : Bool :=
  match s.pwr.lc.val, t.val with
  | 0, 1 => !owner
  | 1, 2 => owner
  | 2, 3 => owner && decide (s.pwr.diagUsed ≠ 15)
  | 3, 2 => owner
  | 0, 4 => !owner
  | 4, _ => false
  | _, 4 => true
  | _, _ => false

/-- The number under which a signature is checked: the two states and the key. -/
def lcCase (s : State) (r : LcRequest) : Nat := s.pwr.lc.val + 8 * r.target.val + 64 * b2n r.owner

/-- An answer to a request of a secured session; a request over MCTP has none. -/
def lcRefuse (s : State) (r : LcRequest) (code : Nat) : State := if r.session.isSome then send s (.spdmError code) else s

/-- Steps 1 and 2 of R463; the rest follows when every job's entry has been written. -/
def lcBegin (s : State) (t : Fin 5) : State :=
  let s1 := endAllVoid (closeBoth s 4) 0x0109
  settle { s1 with pwr := { s1.pwr with lcPend := some t } }

/-- LIFECYCLE_TRANSITION (R462, R463). -/
def execLifecycleTransition (r : LcRequest) (s : State) : Host.Outcome State Fault Refusal :=
  let session := match r.session with | some n => sessionUp s n | none => true
  let link := r.session.isNone || (islandUp s islHL && s.hl.up)
  if !fwRuns s || s.pwr.lcPend.isSome || s.pwr.lcWipe.isSome || !link then .next s
  else if !session then .next (lcRefuse s r 2)
  else if lcPermitted s r.target r.owner && Config.signatureValid r.auth (lcCase s r) then .next (lcBegin s r.target)
  else .next (lcRefuse s r 1)

/-! ## Thaid (R454, R455) -/

/-- GLB_FWVER of the running image (R484). -/
def fwVersion (image : Bool) : Reg32 :=
  BitVec.ofNat 32 (2 ^ 24 + Config.firmwareBuild.toNat * 2 + b2n image)

/-- PWR_HB_BEAT: Thaid writes the heartbeat bit; its first shows that the image runs, which ends the boot (R454). -/
def execPwrHbBeat (s : State) : Host.Outcome State Fault Refusal :=
  if fwRuns s then
    .next { s with
      pwr := { s.pwr with badImages := 0, fwUp := true, fwFirst := true, beat := true, beatTick := s.evr.tick },
      glb := { s.glb with fwver := fwVersion s.pwr.image } }
  else .next s

/-- HEARTBEAT_LOST: after three missed seconds the management core restarts from the active image. -/
def execHeartbeatLost (s : State) : Host.Outcome State Fault Refusal :=
  if s.pwr.powered && s.pwr.fwUp then
    let s1 := raiseIrq (offer s 0x010D sevFault islMG.val 3 0 0) .pwr 4#32
    .next { s1 with pwr := { s1.pwr with fwUp := false, fwFirst := false, beat := false, image := s1.pwr.active },
                    glb := { s1.glb with fwver := 0 } }
  else .next s

/-- FW_IMAGE_FALLBACK: the image that boots fails its check or its first heartbeat; the other image boots. If both fail, the
core rails stay off. -/
def execFwImageFallback (s : State) : Host.Outcome State Fault Refusal :=
  if !s.pwr.powered || s.pwr.fwFirst || decide (s.pwr.badImages = 3) then .next s
  else
    let bad : BitVec 2 := if s.pwr.image then 2 else 1
    .next (offer { s with pwr := { s.pwr with badImages := s.pwr.badImages ||| bad, image := !s.pwr.image } }
      0x010C sevWarning islMG.val (b2n s.pwr.image) 0 0)

/-! ## Bring-up and power loss (R438, R442, R453, R488) -/

/-- The persistent counts that power-up restores: the newer valid copy (R438). -/
def restored (e : Evr) : Option Persist :=
  let a := if e.newer then e.copy1 else e.copy0
  let b := if e.newer then e.copy0 else e.copy1
  if a.valid then some a else if b.valid then some b else none

/-- The EVR after MG power-up: the log is in flash, the counts are restored, the rest starts again. -/
def evrPowerUp (e : Evr) : Evr :=
  let p := (restored e).getD { valid := true, pcc := 0, opt := 0, dropped := 0 }
  { Evr.reset with
    log := e.log, dropped := p.dropped, dropSeen := decide (p.dropped ≠ 0), opt := p.opt,
    pcc := if p.pcc = BitVec.allOnes 24 then p.pcc else p.pcc + 1,
    copy0 := e.copy0, copy1 := e.copy1, newer := e.newer }

/-- MG power-up at an input voltage: a cold reset after loss of MG power. LOCKED and PWR_TAMPER clear, and the vault is empty. -/
def powerUp (s : State) (mv : BitVec 16) : State :=
  let s0 : State := { s with
    pwr := { s.pwr with locked := false, tamper := 0, tamperDue := 0, powered := true }, evr := evrPowerUp s.evr }
  let s1 := coldClear s0
  let s2 : State := { s1 with objs := { s1.objs with vault := [], wipes := [], vaultFail := false } }
  let s3 := if (restored s.evr).isNone then offer s2 0x0802 sevWarning islMG.val 0 0 0 else s2
  let s4 := offer s3 0x0101 sevInfo islMG.val mv.toNat (b2n s3.pwr.image) 0
  offer s4 0x0105 sevNotice islMG.val 0 0 0

/-- COLD_RESET (R456 kind 0): MG power-up at an input voltage in mV, or the sideband's cold reset. -/
def execColdReset (mgLost : Option (BitVec 16)) (s : State) : Host.Outcome State Fault Refusal :=
  match mgLost with
  | some mv => if !s.pwr.powered && s.pwr.inrush then .next (powerUp s mv) else .next s
  | none => if s.pwr.powered then .next (moduleReset s true true) else .next s

/-- WARM_RESET (R456 kind 1), by Thaid. -/
def execWarmReset (s : State) : Host.Outcome State Fault Refusal :=
  if fwRuns s then .next (moduleReset s false true) else .next s

/-- SIDEBAND_MODULE_RESET (R457): the MG island performs it without Thaid. -/
def execSidebandModuleReset (cold : Bool) (s : State) : Host.Outcome State Fault Refusal :=
  if s.pwr.powered then .next (moduleReset s cold true) else .next s

/-- The rails may come up: an image boots, no grace or trip holds them off, and no wipe of the vault runs (R412, R451, R454,
R460). -/
def railsMay (s : State) : Bool :=
  s.pwr.powered && !s.pwr.core && decide (s.pwr.badImages ≠ 3) && !s.pwr.stopped && !s.pwr.pfw
    && !s.objs.wipes.contains .vault && (!s.pwr.tripHold || (decide (s.pwr.jmax.toInt ≤ 950) && decide (s.pwr.smax.toInt ≤ 850)))

/-- The island states when the core rails are good: RUN; only HL leaves reset after tamper; an XP island whose port has no
expander is OFF (R459, R465). -/
def railsIsland (s : State) (i : Fin 34) : Island :=
  if i = islMG then s.pwr.islands[33]
  else
    let held := s.pwr.locked && decide (i ≠ islHL)
    let off := decide (1 ≤ i.val) && decide (i.val < 7) && !s.pwr.prsntXp.getLsbD (i.val - 1)
    { st := if off then .off else .run, req := if off then .off else .run, inrst := held, waking := false }

/-- CORE_RAILS_GOOD (R361, R453, R491). -/
def execCoreRailsGood (s : State) : Host.Outcome State Fault Refusal :=
  if railsMay s then
    .next { s with
      pwr := { s.pwr with core := true, clkreq := true, tripHold := false, islands := Vector.ofFn (railsIsland s) },
      hl := { s.hl with training := !s.pwr.perst },
      seqs := if s.pwr.locked then s.seqs else s.seqs.map (fun x => { x with st := 0 }) }
  else .next s

/-- MG_POWER_LOSS (R442): the buffered records, the vault and all volatile state are lost. -/
def execMgPowerLoss (s : State) : Host.Outcome State Fault Refusal :=
  if !s.pwr.powered then .next s
  else
    let s1 := coreLost s
    .next { s1 with
      pwr := { s1.pwr with powered := false, clkreq := false, mv := 0, iin := 0, w := 0, pfw := false, holdup := false, grace := false, floor := false,
                           withhold := false, tripHold := false, fwUp := false, fwFirst := false, beat := false, resetPend := none, lcPend := none, lcWipe := none,
                           tamperPend := false, inrush := s1.pwr.senseP && s1.pwr.senseN,
                           islands := vmod s1.pwr.islands islMG (fun x => { x with inrst := true }) },
      evr := { s1.evr with buf := [], flushing := false, tick := 0, supp := 0, codes := [], crashCode := 0, crashSev := 0 },
      objs := { s1.objs with vault := [], wipes := [] }, poison := s1.poison.filter (fun a => decide (a < vaultKey 0)) }

/-- SENSE_CONTACT_CHANGE (R488): the inrush limiter may start once both contacts have made; contacts that open before it has started, that is
while the module is unpowered, hold it back. -/
def execSenseContactChange (p n : Bool) (s : State) : Host.Outcome State Fault Refusal :=
  .next { s with pwr := { s.pwr with senseP := p, senseN := n, inrush := (s.pwr.powered && s.pwr.inrush) || (p && n) } }

/-! ## Block resets (R456) -/

/-- ISLAND_RESET (R456 kind 4). After tamper every core island except HL stays in reset (R465). -/
def execIslandReset (isl : Fin 34) (s : State) : Host.Outcome State Fault Refusal :=
  if isl = islMG ∨ s.pwr.core = false ∨ s.pwr.powered = false then .next s
  else
    let s1 := resetIsland s isl
    .next (resumeParked (settle (if s.pwr.locked && decide (isl ≠ islHL) then modIsl s1 isl (fun x => { x with inrst := true }) else s1)))

/-- What a sequencer reset keeps: its page (R456 kind 5). -/
def keepSeq (old new : Seq) : Seq :=
  { new with wdog := old.wdog, wdogEn := old.wdogEn, masklim := old.masklim, bundles := old.bundles, stalls := old.stalls,
             mispred := old.mispred, ibMiss := old.ibMiss, sbStall := old.sbStall, collided := old.collided }

/-- SEQUENCER_RESET (R393, R456 kind 5): only of a LOCKED sequencer. -/
def execSequencerReset (q : Fin 16) (s : State) : Host.Outcome State Fault Refusal :=
  if islandUp s (islSQ q) && decide ((s.seqs[q.val]).st = 2) then
    let s1 := resetRecord s 5 (islSQ q).val
    .next (settle (modSeq (clearSeq s1 q 0x0401) q (fun y => keepSeq (s.seqs[q.val]) y)))
  else .next s

/-- PIPE_RESET (R92, R456 kind 6). -/
def execPipeReset (p : Fin 8) (s : State) : Host.Outcome State Fault Refusal :=
  if islandUp s (islPP p) then .next (resetPipe (resetRecord s 6 (islPP p).val) p) else .next s

/-! ## Island sleep states (R417, R418, R458, R459) -/

/-- The sequencers whose contexts need an island. -/
def islSeqs (i : Fin 34) : List (Fin 16) :=
  (List.finRange 16).filter (fun q => decide (islSQ q = i) || decide (islPP (pipeOf q) = i))

/-- An accepted job names a sequencer by affinity. -/
def affNamed (s : State) (q : Fin 16) : Bool :=
  s.ctxs.any (fun e => decide (e.2.st ≠ .free) && decide (e.2.aff ≠ 0) && affAdmits e.2 q)

/-- A sequencer holds a resident context. -/
def hasResident (s : State) (q : Fin 16) : Bool := (s.seqs[q.val]).banks.any (fun b => b.occ.isSome)

/-- A GA lies in a scratchpad of an SQ island. -/
def inScratches (i : Fin 34) (ga : Nat) : Bool :=
  decide (onDieBase ≤ ga) && decide (ga < onDieBase + 0x1000000) && decide ((ga - onDieBase) / 0x400000 + 27 = i.val)

/-- An access to a scratchpad of an SQ island through port B is outstanding (R418): a COLLIDED write that is sent again, a request that the
island holds, or a store or a load of another sequencer. -/
def portBOut (s : State) (i : Fin 34) : Bool :=
  s.lms.resend.any (fun r => (islSeqs i).contains r.1)
    || s.fab.ports.any (fun e => decide (e.1 / 64 = i.val) && !e.2.isEmpty)
    || !(tget [] s.fab.held i.val).isEmpty || !(tget [] s.fab.unacked i.val).isEmpty
    || (List.finRange 16).any (fun q => !(islSeqs i).contains q
      && ((s.seqs[q.val]).sb.any (fun e => e.sent && inScratches i e.ga) || (s.seqs[q.val]).loads.any (fun l => inScratches i l.ga)))

/-- The condition of R459 for an island to enter a sleep state. -/
def mayLeave (s : State) (i : Fin 34) (st : IslState) : Bool :=
  let quiet := (islSeqs i).all (fun q => !hasResident s q && !affNamed s q)
  if h : 1 ≤ i.val ∧ i.val < 7 then
    !s.ctxs.any (fun e => e.2.held && decide (e.2.rem[i.val]'(by omega) ≠ 0))
  else if h : 19 ≤ i.val ∧ i.val < 27 then
    quiet && (s.pipes[i.val - 19]).table.all Option.isNone && (s.pipes[i.val - 19]).waiting.isEmpty
  else if 27 ≤ i.val ∧ i.val < 31 then
    quiet && !portBOut s i
  else if i = islAS then
    decide (st = .retain) && !s.dau.gopen && !s.dau.bopen && s.ctxs.isEmpty && s.rqe.running.isEmpty && s.rqe.inbox.isEmpty
  else false

/-- The epoch stored when a retention domain enters RETAIN (R420). -/
def storeEpoch (s : State) (i : Fin 34) : State :=
  if i = islAS then modHdr s .evc (fun x => { x with epoch := s.pwr.epoch })
  else if 27 ≤ i.val ∧ i.val < 31 then
    (islSeqs i).foldl (fun a q => modMem (modHdr a (.seq q) (fun x => { x with epoch := s.pwr.epoch })) q.val
      (fun m => { m with epoch := s.pwr.epoch })) s
  else s

/-- An island enters a sleep state; the requests it holds are answered with an error (R13). A port that is lost with it is trained again after
the wake, so PERST_XP# stays released till then (R491). -/
def enterSleep (s : State) (i : Fin 34) (st : IslState) : State :=
  let s0 := answerAll s i
  let s1 := if st = .retain then storeEpoch s0 i else s0
  let s2 := if h : 1 ≤ i.val ∧ i.val < 7 then
      (if st = .clkstop then s1 else releasePerstXp (withdrawPort s1 ⟨i.val - 1, by omega⟩ 1 false) ⟨i.val - 1, by omega⟩) else s1
  modIsl s2 i (fun x => { x with st := st, req := st, waking := false })

/-- A request that is not applied sets WRSV of the PWR page. -/
def wrsvPwr (s : State) : State := modHdr s .pwr (fun h => { h with wrsv := true })

/-- ISLAND_STATE_REQUEST (R459): PWR_ISL_CTRL.REQ of the selected island. An island that goes from RETAIN or OFF to another sleep state
comes out of its state first, with what that loses. DESIGN CHOICE, log entry 30. -/
def execIslandStateRequest (isl : Fin 34) (st : IslState) (s : State) : Host.Outcome State Fault Refusal :=
  let x := s.pwr.islands[isl.val]
  if !s.pwr.powered then .next s
  else if isl = islMG ∨ s.pwr.core = false ∨ x.inrst = true then .next (wrsvPwr s)
  else if st = .run then
    (if stuckOff s isl then .next (wrsvPwr s)
    else .next (modIsl s isl (fun y => { y with req := .run, waking := decide (y.st ≠ .run) })))
  else if x.st = st then .next (modIsl s isl (fun y => { y with req := st, waking := false }))
  else if mayLeave s isl st && !stuckOff s isl then .next (resumeParked (enterSleep (wakeIsland s isl) isl st))
  else .next (wrsvPwr s)

/-- The event of R418 or R459 for which the PWR block wakes an island without a request. -/
def autoWake (s : State) (i : Fin 34) : Bool :=
  if i = islAS then
    !s.rqe.inbox.isEmpty || !s.evc.held.isEmpty
      || (List.range 64).any (fun n => match srcPage n with
        | some pg => decide ((hdr s pg).pend &&& ~~~(hdr s pg).msk ≠ 0)
        | none => false)
  else
    s.ctxs.any (fun e => decide (e.2.st = .ready) && !e.2.res
      && (((islSeqs i).any (affTo s e.2) && (placement s e.1).isNone)
        || (decide (e.2.aff ≠ 0) && (islSeqs i).any (affAdmits e.2))))

/-- ISLAND_WAKE_COMPLETE (R401, R420, R458). -/
def execIslandWakeComplete (isl : Fin 34) (s : State) : Host.Outcome State Fault Refusal :=
  let x := s.pwr.islands[isl.val]
  if s.pwr.powered && s.pwr.core && !x.inrst && decide (x.st ≠ .run) && (x.waking || autoWake s isl) then .next (resumeParked (wakeIsland s isl))
  else .next s

/-! ## Presentation by the EVC (R319, R391, R397) -/

/-- The waiting context that a presented sequencer's interrupt wakes. -/
def wakeFor (s : State) (q : Fin 16) : State :=
  if (s.seqs[q.val]).run.isSome then s
  else match wakeCandidate s q with
    | none => s
    | some c =>
      let s1 := makeReady s c
      { s1 with csc := { s1.csc with irqWake := satInc s1.csc.irqWake } }

/-- EVC_PRESENTATION. -/
def execEvcPresentation (t : Fin 18) (s : State) : Host.Outcome State Fault Refusal :=
  if !(hdr s .evc).en || (hdr s .evc).held || !evcUp s then .next s
  else
    let on := (candidate s t).isSome
    let m : BitVec 18 := BitVec.ofNat 18 (2 ^ t.val)
    let s1 : State := { s with evc := { s.evc with presented := if on then s.evc.presented ||| m else s.evc.presented &&& ~~~m } }
    if h : t.val < 16 then .next (if on then wakeFor s1 ⟨t.val, h⟩ else s1)
    else if t.val = 17 then .next (sendHostSources s1)
    else .next s1

/-! ## The debug path (R489) -/

/-- J9_DEBUG_ACCESS: ignored where the lifecycle state disables J9; a block that QUIESCE holds keeps it waiting (R482). -/
def execJ9DebugAccess (a : BarAccess) (s : State) : Host.Outcome State Fault Refusal :=
  if j9Enabled s then .next (makeAccess s (.j9 a)) else .next s

end Sys2Proof.Machine
end

