-- ==== Sys2Proof/Machine/Pages.lean ====
section
/-! DEFINITION. Writing the register pages: the consistency checks, enable, commit, soft reset, quiesce, the page interrupt
registers, and every other field (R57, R58, R105, R165, R190, R191, R294, R321, R381 to R383, R400, R403, R404, R434, R435,
R447, R461, R469, R472 to R484). -/

namespace Sys2Proof.Machine

/-! ## Refusals (R478, R484) -/

/-- A check refuses: the page and GLB record the reason. -/
def setRefusal (s : State) (pg : PageId) (reason off detail : Nat) : State :=
  let s1 := modHdr s pg (fun h => { h with
    refused := true, reason := BitVec.ofNat 8 reason, refReason := BitVec.ofNat 8 reason, refOffset := BitVec.ofNat 12 off,
    refDetail := BitVec.ofNat 8 detail })
  raiseIrq { s1 with glb := { s1.glb with
    refType := BitVec.ofNat 16 (pageType pg), refInst := BitVec.ofNat 8 (pageInst pg), refReason := BitVec.ofNat 8 reason,
    refcnt := satInc s1.glb.refcnt } } .glb 2#32

/-- A check passes. -/
def setPass (s : State) (pg : PageId) : State := modHdr s pg (fun h => { h with refused := false, reason := 0 })

/-! ## The tests of each block. A failing test is a reason, an offset and a detail. -/

/-- A failing test. -/
structure Refused where
  reason : Nat
  off : Nat
  detail : Nat
  deriving DecidableEq, Repr

/-- One test on one register. -/
def failWhen (c : Bool) (reason off : Nat) : Option Refused := if c then some ⟨reason, off, 0⟩ else none

/-- The first failing test. -/
def firstRefused : List (Option Refused) → Option Refused
  | [] => none
  | some r :: _ => some r
  | none :: t => firstRefused t

/-- EVC (R404). -/
def evcCheck (s : State) : Option Refused :=
  let l := s.evc.cfg.stage
  let off := fun (n : Nat) => 4 * n % 0x1000
  let known := fun (n : Nat) => srcLevel n || srcPulse n
  let clash := fun (n : Nat) (x : SrcCfg) => decide (x.tgt.toNat < 16)
    && l.any (fun e => decide (e.1 ≠ n) && e.2.en && decide (e.2.tgt = x.tgt) && decide (e.2.cls = x.cls))
  let first := fun (p : Nat → SrcCfg → Bool) (reason : Nat) =>
    (l.find? (fun e => p e.1 e.2)).map (fun e => (⟨reason, off e.1, 0⟩ : Refused))
  firstRefused [first (fun _ x => decide (18 ≤ x.tgt.toNat)) 0x02,
    first (fun n x => x.en && !known n) 0x05,
    first (fun n x => x.en && ((decide (x.tgt.toNat < 16) && srcLevel n) || clash n x)) 0x03]

/-- The regions of a VF fail a test: the LM registers are named before the FM registers. -/
def vfFail (lm fm : Nat → Bool) (reason : Nat) : Option Refused :=
  match (List.range 64).find? (fun f => lm f || fm f) with
  | none => none
  | some f => some ⟨reason, if lm f then 0x054 else 0x05C, 0⟩

/-- A segment that a VF owns in a memory lies outside a range of GiB. -/
def segOutside (s : State) (f lo hi base size : Nat) : Bool :=
  s.objs.segs.any (fun e => match e.2 with
    | some o =>
      decide (o.func.val = f) && decide (lo ≤ dBase o.desc) && decide (dBase o.desc < hi)
        && !(decide (lo + GiB * base ≤ dBase o.desc) && decide (dBase o.desc + dLimit o.desc < lo + GiB * (base + size)))
    | none => false)

/-- HLK (R382). -/
def hlkCheck (s : State) : Option Refused :=
  let c := s.hl.cfg.stage
  let r := fun (f : Nat) => tget FnRange.reset c.ranges f
  let old := fun (f : Nat) => tget FnRange.reset s.hl.cfg.active.ranges f
  let meet := fun (a m b n : Nat) => decide (m ≠ 0) && decide (n ≠ 0) && decide (a < b + n) && decide (b < a + m)
  let others := fun (f : Nat) (p : Nat → Bool) => (List.range 64).any (fun g => decide (g ≠ f) && p g)
  let lm := fun (f : Nat) => ((r f).lmBase.toNat, (r f).lmSize.toNat)
  let fm := fun (f : Nat) => ((r f).fmBase.toNat, (r f).fmSize.toNat)
  firstRefused [
    failWhen (decide (c.aper.toNat % bar4Size s ≠ 0)) 0x08 0x048,
    failWhen (decide (2 ^ 56 < c.aper.toNat + bar4Size s)) 0x01 0x048,
    vfFail (fun f => decide ((lm f).2 ≠ 0) && (decide ((lm f).1 < 8) || decide (lmTopG s < (lm f).1 + (lm f).2)))
      (fun f => decide ((fm f).2 ≠ 0) && decide (196608 < (fm f).1 + (fm f).2)) 0x01,
    vfFail (fun f => others f (fun g => meet (lm f).1 (lm f).2 (lm g).1 (lm g).2))
      (fun f => others f (fun g => meet (fm f).1 (fm f).2 (fm g).1 (fm g).2)) 0x09,
    vfFail (fun f => decide (((old f).lmBase, (old f).lmSize) ≠ ((r f).lmBase, (r f).lmSize))
        && segOutside s f 0 (GiB * lmTopG s) (lm f).1 (lm f).2)
      (fun f => decide (((old f).fmBase, (old f).fmSize) ≠ ((r f).fmBase, (r f).fmSize))
        && segOutside s f ilvBase (ilvBase + 196608 * GiB) (fm f).1 (fm f).2) 0x0B]

/-- The ceiling of a class in band 0 (R44, R169). -/
def capCeiling (s : State) (c : Fin 11) : Nat :=
  if h : 1 ≤ c.val ∧ c.val < 7 then min 1312 (175 * (s.xpts[c.val - 1]).step.toNat / 2)
  else match c.val with
    | 0 => 153600 | 7 => 12800 | 8 => 51200 | 9 => 25600 | _ => 1323

/-- The classes whose ceiling the band scales (R169), and the scale in percent (R186). -/
def capScaled (c : Fin 11) : Bool := decide (c.val = 0) || decide (c.val = 7) || decide (c.val = 8) || decide (c.val = 9)
def bandScale (band : Nat) : Nat :=
  match band with
  | 0 => 100 | 1 => 75 | 2 => 50 | 3 => 30 | _ => 20

/-- DAU (R191); the detail is the class index (R169). -/
def dauCheck (s : State) : Option Refused :=
  let c := s.dau.cfg.stage
  let cap := fun (k : Fin 11) => c.caps[k.val].toNat
  let act := fun (k : Fin 11) => (s.dau.cfg.active.caps[k.val]).toNat
  let first := fun (p : Fin 11 → Bool) (reason : Nat) =>
    ((List.finRange 11).find? p).map (fun k => (⟨reason, 0x080 + 4 * k.val, k.val⟩ : Refused))
  let unq := fun (k : Fin 11) => if h : 1 ≤ k.val ∧ k.val < 7 then !(s.xpts[k.val - 1]).qualified else false
  firstRefused [failWhen (decide (5 ≤ c.band.toNat)) 0x02 0x050, failWhen (decide (c.setup.toNat < 2)) 0x01 0x040,
    first (fun k => decide (capCeiling s k < cap k)) 0x01,
    first (fun k => capScaled k && decide (capCeiling s k * bandScale c.band.toNat < 100 * cap k)) 0x07,
    first (fun k => decide (cap k ≠ 0) && unq k) 0x0A,
    first (fun k => decide (cap k < act k) && classFails s (cap k) 0 1 k) 0x0B]

/-- The member ports of a set. -/
def ilvPorts (v : Ilv) : List Nat := (List.range (ilvWays v)).map (ilvMember v)

/-- An accepted job holds an FMB reservation on a port (R178). -/
def fmbHeld (s : State) (p : Nat) : Bool :=
  if h : p < 6 then s.ctxs.any (fun e => e.2.held && decide (e.2.rem[1 + p] ≠ 0)) else false

/-- Two sets overlap in the window or on a shared port. -/
def ilvMeet (a b : Ilv) : Bool :=
  let near := fun (x m y n : Nat) => decide (x < y + n) && decide (y < x + m)
  near a.baseG.toNat a.sizeG.toNat b.baseG.toNat b.sizeG.toNat
    || ((ilvPorts a).any (fun p => (ilvPorts b).contains p)
      && near a.pbaseG.toNat (a.sizeG.toNat / ilvWays a) b.pbaseG.toNat (b.sizeG.toNat / ilvWays b))

/-- MAP (R58). -/
def mapCheck (s : State) : Option Refused :=
  let v := fun (n : Fin 4) => s.map.sets.stage[n.val]
  let old := fun (n : Fin 4) => s.map.sets.active[n.val]
  let first := fun (p : Fin 4 → Bool) (reason off : Nat) =>
    ((List.finRange 4).find? p).map (fun n => (⟨reason, 0x080 + 16 * n.val + off, 0⟩ : Refused))
  let on := fun (p : Ilv → Bool) (n : Fin 4) => (v n).en && p (v n)
  let reserved := fun (x : Ilv) => decide (3 < x.ways.toNat) || decide (6 < x.gran.toNat)
    || (List.range 6).any (fun j => decide (5 < ilvMember x j))
  let range := fun (x : Ilv) => decide (196608 < x.baseG.toNat + x.sizeG.toNat)
    || decide (32768 * ilvWays x < x.pbaseG.toNat * ilvWays x + x.sizeG.toNat)
  let disagree := fun (x : Ilv) => decide (x.sizeG = 0) || decide (x.sizeG.toNat % ilvWays x ≠ 0)
    || (List.range (ilvWays x)).any (fun j => (List.range j).any (fun k => decide (ilvMember x k = ilvMember x j)))
    || (List.range 6).any (fun j => decide (ilvWays x ≤ j) && decide (ilvMember x j ≠ 0))
  let absent := fun (x : Ilv) => (ilvPorts x).any (fun p => !s.map.portEn.getLsbD p
    || decide (fmCap s p / GiB * ilvWays x < x.pbaseG.toNat * ilvWays x + x.sizeG.toNat))
  let overlap := fun (n : Fin 4) => (v n).en && (List.finRange 4).any (fun m => decide (m ≠ n) && (v m).en && ilvMeet (v n) (v m))
  let busy := fun (n : Fin 4) => decide (v n ≠ old n)
    && ((if (old n).en then ilvPorts (old n) else []) ++ (if (v n).en then ilvPorts (v n) else [])).any (fmbHeld s)
  firstRefused [first (on reserved) 0x02 0x08, first (on range) 0x01 0x00, first (on disagree) 0x03 0x04,
    first (on absent) 0x05 0x04, first overlap 0x09 0x00, first busy 0x0B 0x00]

/-- The consistency check of a page (R478), over its staged values and its RW-F fields. -/
def pageCheck (s : State) (pg : PageId) : Option Refused :=
  match pg with
  | .evr => failWhen (decide (s.evr.rate.stage = 0)) 0x01 0x044
  | .evc => evcCheck s
  | .hlk => hlkCheck s
  | .dau => dauCheck s
  | .csc => failWhen (decide (s.csc.beSlice.stage = 0)) 0x01 0x044
  | .lmc n => failWhen (decide ((s.lmcs[n.val]).scrub.stage.period = 0)) 0x01 0x048
  | .map => mapCheck s
  | .pipe p => failWhen (decide ((s.pipes[p.val]).ra = 0)) 0x01 0x044
  | .seq q =>
    let x := s.seqs[q.val]
    firstRefused [failWhen (decide (x.wdog.stage.toNat = 0) || decide (16000 < x.wdog.stage.toNat)) 0x01 0x048,
      failWhen (decide (x.masklim.stage.toNat = 0) || decide (64 < x.masklim.stage.toNat)) 0x01 0x04C]
  | .lms => failWhen (decide (s.lms.scrub.stage.period = 0)) 0x01 0x044
  | .fab => failWhen (decide (s.fab.cfg.stage.age.toNat < 16) || decide (s.fab.cfg.stage.floor.toNat < 8)) 0x01 0x044
  | _ => none

/-! ## Staging and active copies (R475, R477) -/

/-- Samples the staging copy. -/
def Staged.sample {α : Type} (x : Staged α) : Staged α := { x with sampled := some x.stage }
/-- Applies the sample. -/
def Staged.apply {α : Type} (x : Staged α) : Staged α := { x with active := x.sampled.getD x.active, sampled := none }
/-- Discards uncommitted writes. -/
def Staged.discard {α : Type} (x : Staged α) : Staged α := { x with stage := x.active }

/-- Changes every staged value of a page. -/
def mapCfg (s : State) (pg : PageId) (f : (α : Type) → Staged α → Staged α) : State :=
  match pg with
  | .pwr => { s with pwr := { s.pwr with cfg := f _ s.pwr.cfg } }
  | .evr => { s with evr := { s.evr with rate := f _ s.evr.rate } }
  | .evc => { s with evc := { s.evc with cfg := f _ s.evc.cfg } }
  | .hlk => { s with hl := { s.hl with cfg := f _ s.hl.cfg } }
  | .dau => { s with dau := { s.dau with cfg := f _ s.dau.cfg } }
  | .csc => { s with csc := { s.csc with beSlice := f _ s.csc.beSlice } }
  | .lmc n => modLmc s n (fun x => { x with scrub := f _ x.scrub })
  | .map => { s with map := { s.map with sets := f _ s.map.sets } }
  | .seq q => modSeq s q (fun x => { x with wdog := f _ x.wdog, masklim := f _ x.masklim })
  | .lms => { s with lms := { s.lms with scrub := f _ s.lms.scrub } }
  | .fab => { s with fab := { s.fab with cfg := f _ s.fab.cfg } }
  | _ => s

/-- Sources whose EN a commit clears lose PEND (R404). -/
def evcApplied (s : State) : State :=
  evcSettle (s.evc.src.foldl (fun a e => if e.2.pend && !(srcCfg a e.1).en then setSrc a e.1 { e.2 with pend := false } else a) s)

/-- The sampled values become active together; a change of band is recorded (R446), and the input is compared with the floor of the
new band (R187). -/
def applyCfg (s : State) (pg : PageId) : State :=
  let s1 := mapCfg s pg (fun _ x => x.apply)
  match pg with
  | .evc => evcApplied s1
  | .dau =>
    let a := s.dau.cfg.active.band
    let b := s1.dau.cfg.active.band
    if a = b then s1
    else
      let s2 : State := { s1 with pwr := { s1.pwr with floor := s1.pwr.floor && floorCrossed s1 } }
      offer s2 0x0103 sevNotice islMG.val a.toNat b.toNat s2.pwr.mv.toNat
  | _ => s1

/-! ## Who may write -/

/-- Header registers that the PF host may write on GLB and EVR, and firmware on GLB (R447, R484). -/
def irqTrio (o : Nat) : Bool := decide (o = 0x020) || decide (o = 0x028) || decide (o = 0x02C)

/-- An agent may write a register of a page's header (R57, R105, R165, R190, R294, R321, R381, R400, R434, R435, R447, R469,
R484). Log entry 33. -/
def mayHdr (ag : Agent) (pg : PageId) (o : Nat) : Bool :=
  match ag, pg with
  | .j9, _ => false
  | .host f, .hlk => decide (f.val = 0)
  | .host f, .evc => decide (f.val = 0)
  | .host f, .glb => decide (f.val = 0) && irqTrio o
  | .host f, .evr => decide (f.val = 0) && irqTrio o
  | .host _, _ => false
  | .fw, .glb => irqTrio o
  | .fw, .hlk => false
  | .fw, .dir => false
  | .fw, _ => true

/-- A header write by an agent reaches its page. -/
def hdrWrites (s : State) (ag : Agent) (pg : PageId) (o : Nat) : Bool :=
  bar0Reaches s ag && mayHdr ag pg o && decide (serveIsl s (pageIsland pg) = .up)

/-! ## Enable, commit, soft reset, quiesce (R476, R477, R480 to R482) -/

/-- EN 0 to 1 (R476). -/
def enablePage (s : State) (pg : PageId) : State :=
  if pageFixed pg || (hdr s pg).en then s
  else match pageCheck s pg with
    | some r => setRefusal s pg r.reason r.off r.detail
    | none =>
      modHdr (applyCfg (mapCfg (setPass s pg) pg (fun _ x => x.sample)) pg) pg (fun h => { h with en := true })

/-- EN 1 to 0: the block stops at its next safe point (R476). -/
def disablePage (s : State) (pg : PageId) : State :=
  if pageFixed pg || !(hdr s pg).en then s else modHdr s pg (fun h => { h with stopping := true })

/-- A page with RW-S fields (R483). -/
def hasStaged : PageId → Bool
  | .glb | .rqe | .xpt _ | .pipe _ | .dir => false
  | _ => true

/-- A write of 1 to COMMIT (R477). -/
def commitPage (s : State) (pg : PageId) : State :=
  if (hdr s pg).commit then modHdr s pg (fun h => { h with wwb := true })
  else match pageCheck s pg with
    | some r => setRefusal s pg r.reason r.off r.detail
    | none =>
      let s1 := setPass s pg
      if (hdr s pg).en && hasStaged pg then modHdr (mapCfg s1 pg (fun _ x => x.sample)) pg (fun h => { h with commit := true }) else s1

/-- Interrupt conditions of a page that still hold (R447, R469). -/
def irqHolds (s : State) (pg : PageId) : Reg32 :=
  match pg with
  | .pwr => BitVec.ofNat 32 (b2n s.pwr.pfw + 2 * b2n s.pwr.floor + 4 * b2n (!s.pwr.fwUp) + 8 * b2n (decide (s.pwr.level ≠ 0)))
  | .evr => BitVec.ofNat 32 (b2n (decide (32768 ≤ s.evr.log.length)) + 2 * b2n (decide (65536 ≤ s.evr.log.length)) + 4 * b2n s.evr.dropSeen)
  | _ => 0

/-- Clears pending bits, but for those whose condition still holds: they are set again (R472). -/
def clearIrq (s : State) (pg : PageId) (b : Reg32) : State :=
  modHdr s pg (fun h => { h with pend := h.pend &&& ~~~(b &&& ~~~(irqHolds s pg)) })

/-- A page soft reset (R481, R456 kind 7). -/
def softReset (s : State) (pg : PageId) : State :=
  let i := (pageIsland pg).val
  let s1 := clearIrq (mapCfg (resetRecord s 7 i) pg (fun _ x => x.discard)) pg 0xFFFFFFFF#32
  modHdr s1 pg (fun h => { h with refused := false, reason := 0, wwb := false, wrsv := false, refDetail := 0, refOffset := 0,
                                  refReason := 0, errcnt := 0 })

/-- QUIESCE (R482): the block starts nothing new from here on, and requests addressed to it wait at the crossing. What it has started
goes on, and PG_STAT.ACTIVE reads 0 once that has completed. Clearing it lets what waits go on. -/
def quiescePage (s : State) (pg : PageId) (on : Bool) : State :=
  let s1 := modHdr s pg (fun h => { h with quiesce := on, held := on })
  if on then s1 else resumeParked s1

/-- PAGE_ENABLE. -/
def execPageEnable (ag : Agent) (pg : PageId) (s : State) : Host.Outcome State Fault Refusal :=
  if hdrWrites s ag pg 0x008 then .next (enablePage s pg) else .next s

/-- PAGE_DISABLE. -/
def execPageDisable (ag : Agent) (pg : PageId) (s : State) : Host.Outcome State Fault Refusal :=
  if hdrWrites s ag pg 0x008 then .next (disablePage s pg) else .next s

/-- BLOCK_STOP (R476, R480): a commit in progress is applied or refused first. -/
def execBlockStop (pg : PageId) (s : State) : Host.Outcome State Fault Refusal :=
  if (hdr s pg).stopping && !(hdr s pg).commit && decide (serveIsl s (pageIsland pg) = .up) then
    .next (modHdr s pg (fun h => { h with en := false, stopping := false }))
  else .next s

/-- PAGE_COMMIT. -/
def execPageCommit (ag : Agent) (pg : PageId) (s : State) : Host.Outcome State Fault Refusal :=
  if hdrWrites s ag pg 0x008 then .next (commitPage s pg) else .next s

/-- COMMIT_APPLY (R477 step 4). -/
def execCommitApply (pg : PageId) (s : State) : Host.Outcome State Fault Refusal :=
  if (hdr s pg).commit && decide (serveIsl s (pageIsland pg) = .up) then
    .next (modHdr (applyCfg s pg) pg (fun h => { h with commit := false }))
  else .next s

/-- PAGE_SOFT_RESET. -/
def execPageSoftReset (ag : Agent) (pg : PageId) (s : State) : Host.Outcome State Fault Refusal :=
  if hdrWrites s ag pg 0x008 then .next (softReset s pg) else .next s

/-- QUIESCE_SET. -/
def execQuiesceSet (ag : Agent) (pg : PageId) (s : State) : Host.Outcome State Fault Refusal :=
  if hdrWrites s ag pg 0x008 then .next (quiescePage s pg true) else .next s

/-- QUIESCE_CLEAR. -/
def execQuiesceClear (ag : Agent) (pg : PageId) (s : State) : Host.Outcome State Fault Refusal :=
  if hdrWrites s ag pg 0x008 then .next (quiescePage s pg false) else .next s

/-! ## The page interrupt registers (R472, R480) -/

/-- Masks conditions that the block defines. -/
def maskIrq (s : State) (pg : PageId) (b : Reg32) : State := modHdr s pg (fun h => { h with msk := h.msk ||| (b &&& pageIrqBits pg) })

/-- Unmasks conditions. -/
def unmaskIrq (s : State) (pg : PageId) (b : Reg32) : State := modHdr s pg (fun h => { h with msk := h.msk &&& ~~~b })

/-- PG_IRQ_SET. -/
def execPgIrqSet (ag : Agent) (pg : PageId) (bits : Reg32) (s : State) : Host.Outcome State Fault Refusal :=
  if hdrWrites s ag pg 0x01C then .next (raiseIrq s pg bits) else .next s

/-- PG_IRQ_CLR. -/
def execPgIrqClr (ag : Agent) (pg : PageId) (bits : Reg32) (s : State) : Host.Outcome State Fault Refusal :=
  if hdrWrites s ag pg 0x020 then .next (clearIrq s pg bits) else .next s

/-- PG_IRQ_MSK_SET. -/
def execPgIrqMskSet (ag : Agent) (pg : PageId) (bits : Reg32) (s : State) : Host.Outcome State Fault Refusal :=
  if hdrWrites s ag pg 0x028 then .next (maskIrq s pg bits) else .next s

/-- PG_IRQ_MSK_CLR. -/
def execPgIrqMskClr (ag : Agent) (pg : PageId) (bits : Reg32) (s : State) : Host.Outcome State Fault Refusal :=
  if hdrWrites s ag pg 0x02C then .next (unmaskIrq s pg bits) else .next s

/-! ## Opening admission (R190, R461) -/

/-- The lifecycle state permits guaranteed, or best-effort, admission. -/
def mayOpenG (s : State) : Bool := decide (s.pwr.lc ≠ 3) && decide (s.pwr.lc ≠ 4)
def mayOpenB (s : State) : Bool := decide (s.pwr.lc ≠ 4)

/-- A write of GOPEN and BOPEN. A bit that a firmware write clears takes cause 1. -/
def openWrite (s : State) (g b : Bool) : State :=
  let g1 := g && mayOpenG s
  let b1 := b && mayOpenB s
  let d := s.dau
  let s1 : State := { s with dau := { d with
    gopen := g1, bopen := b1, cause := if d.gopen && !g then 1 else d.cause, bcause := if d.bopen && !b then 1 else d.bcause } }
  let s2 := if (d.gopen && !g) || (d.bopen && !b) then closeRecord s1 else s1
  if (g && !mayOpenG s) || (b && !mayOpenB s) then setRefusal s2 .dau 0x06 0x040 0 else s2

/-- DAU_OPEN_WRITE. -/
def execDauOpenWrite (ag : Agent) (g b : Bool) (s : State) : Host.Outcome State Fault Refusal :=
  if ag = .fw ∧ reaches s ag = true ∧ serveIsl s islAS = .up then .next (openWrite s g b) else .next s

/-! ## Every other register (R473, R474) -/

/-- The state an effect leaves. -/
def after (o : Host.Outcome State Fault Refusal) (s : State) : State :=
  match o with
  | .next t => t
  | _ => s

/-- A write to PG_CTRL: soft reset first, then QUIESCE and EN; COMMIT is ignored beside SRST or an enable (R480). -/
def writeCtrl (s : State) (pg : PageId) (v : Reg32) : State :=
  let s1 := if v.getLsbD 2 then softReset s pg else s
  let s2 := quiescePage s1 pg (v.getLsbD 3)
  let enabling := v.getLsbD 0 && !(hdr s2 pg).en && !pageFixed pg
  let s3 := if v.getLsbD 1 && !v.getLsbD 2 && !enabling then commitPage s2 pg else s2
  if v.getLsbD 0 then enablePage s3 pg else disablePage s3 pg

/-- A write to a header register. -/
def writeHdr (s : State) (ag : Agent) (pg : PageId) (o : Nat) (v : Reg32) : State :=
  if !mayHdr ag pg o then s
  else match o with
    | 0x008 => writeCtrl s pg v
    | 0x01C => raiseIrq s pg v
    | 0x020 => clearIrq s pg v
    | 0x028 => maskIrq s pg v
    | 0x02C => unmaskIrq s pg v
    | _ => s

/-- A reserved encoding of a live field is not applied (R474). -/
def setWrsv (s : State) (pg : PageId) : State := modHdr s pg (fun h => { h with wrsv := true })
/-- A write of a frozen field is blocked (R473). -/
def setWwb (s : State) (pg : PageId) : State := modHdr s pg (fun h => { h with wwb := true })

/-- Bits of a written value. -/
def fld (v : Reg32) (lo w : Nat) : BitVec w := BitVec.ofNat w (bits v.toNat lo w)

/-- PWR_ISL_SEL (R469). -/
def writeIslSel (s : State) (v : Reg32) : State :=
  if 33 ≤ (fld v 0 6).toNat then setWrsv s .pwr else { s with pwr := { s.pwr with islSel := fld v 0 6 } }

/-- The sleep state of a code. -/
def codeIsl (n : Nat) : IslState :=
  match n with
  | 0 => .run | 1 => .clkstop | 2 => .retain | _ => .off

/-- PWR_ISL_CTRL: the requested state, then a reset (R469). -/
def writeIslCtrl (s : State) (v : Reg32) : State :=
  let s1 := after (execIslandStateRequest (selIsland s) (codeIsl (bits v.toNat 0 2)) s) s
  if v.getLsbD 3 then after (execIslandReset (selIsland s) s1) s1 else s1

/-- Firmware writes a register of the PWR page. -/
def writePwr (s : State) (o : Nat) (v : Reg32) : State :=
  match o with
  | 0x04C => { s with pwr := { s.pwr with cfg := { s.pwr.cfg with stage := { grace := fld v 16 8, slope := fld v 8 8 } } } }
  | 0x060 => if v.getLsbD 0 then after (execPwrHbBeat s) s else s
  | 0x064 => writeIslSel s v
  | 0x068 => writeIslCtrl s v
  | _ => s

/-- Firmware or the PF host writes the EVR page. -/
def writeEvr (s : State) (ag : Agent) (o : Nat) (v : Reg32) : State :=
  match o with
  | 0x044 => if ag = .fw then { s with evr := { s.evr with rate := { s.evr.rate with stage := fld v 0 8 } } } else s
  | 0x048 => if v.getLsbD 0 then startFlush s else s
  | _ => s

/-- A write of a bitmap word of the EVC (R403). -/
def writeEvc (s : State) (o : Nat) (v : Reg32) : State :=
  let w : Fin 64 := ⟨o % 0x100 / 4, by omega⟩
  match o / 0x100 with
  | 2 => after (execEvcPendSet w v s) s
  | 3 => after (execEvcPendClr w v s) s
  | 5 => after (execEvcMaskSet w v s) s
  | 6 => after (execEvcMaskClr w v s) s
  | _ => s

/-- A write of EVC_SRCn: each field by its owner (R400). -/
def writeSrc (s : State) (ag : Agent) (n : Nat) (v : Reg32) : State :=
  let x := tget SrcCfg.reset s.evc.cfg.stage n
  let host := match ag with | .host f => decide (f.val = 0) | _ => false
  let fw := decide (ag = .fw)
  let low := decide (n < 0x80)
  let all := (host && !low) || (fw && low)
  let y : SrcCfg :=
    { vec := if host then fld v 16 11 else x.vec, prio := if host then fld v 0 4 else x.prio,
      en := if all then v.getLsbD 15 else x.en, cls := if all then fld v 9 5 else x.cls, tgt := if all then fld v 4 5 else x.tgt }
  { s with evc := { s.evc with cfg := { s.evc.cfg with stage := tset SrcCfg.reset s.evc.cfg.stage n y } } }

/-- A write of EVC_GRPg: HOLDOFF by its owner (R400). -/
def writeGrp (s : State) (ag : Agent) (g : Nat) (v : Reg32) : State :=
  let mine := match ag with | .host f => decide (f.val = 0) && decide (8 ≤ g) | .fw => decide (g < 8) | .j9 => false
  if mine && decide (g < 128) then setGrp s g { getGrp s g with holdoff := fld v 0 16 } else s

/-- The staged ranges of the VF that HLK_FN_SEL names (R381). -/
def writeRange (s : State) (f : FnRange → FnRange) : State :=
  if s.hl.fnSel = 0 then s
  else
    let c := s.hl.cfg.stage
    let k := s.hl.fnSel.toNat
    { s with hl := { s.hl with cfg := { s.hl.cfg with
      stage := { c with ranges := tset FnRange.reset c.ranges k (f (tget FnRange.reset c.ranges k)) } } } }

/-- Stages the window base. -/
def writeAper (s : State) (a : BitVec 57) : State :=
  { s with hl := { s.hl with cfg := { s.hl.cfg with stage := { s.hl.cfg.stage with aper := a } } } }

/-- The PF host writes the HLK page (R381). -/
def writeHlk (s : State) (o : Nat) (v : Reg32) : State :=
  let a := s.hl.cfg.stage.aper.toNat
  match o with
  | 0x048 => writeAper s (BitVec.ofNat 57 (2 ^ 32 * (a / 2 ^ 32) + 2 ^ 30 * (fld v 30 2).toNat))
  | 0x04C => writeAper s (BitVec.ofNat 57 (2 ^ 32 * (fld v 0 25).toNat + a % 2 ^ 32))
  | 0x050 => { s with hl := { s.hl with fnSel := fld v 0 6 } }
  | 0x054 => writeRange s (fun r => { r with lmBase := fld v 0 10 })
  | 0x058 => writeRange s (fun r => { r with lmSize := fld v 0 10 })
  | 0x05C => writeRange s (fun r => { r with fmBase := fld v 0 18 })
  | 0x060 => writeRange s (fun r => { r with fmSize := fld v 0 18 })
  | _ => s

/-- A base address whose low 32 bits are written. -/
def baseLo (a : BitVec 56) (v : Reg32) : BitVec 56 := BitVec.ofNat 56 (2 ^ 32 * (a.toNat / 2 ^ 32) + 4096 * (v.toNat / 4096))
/-- A base address whose bits 55 to 32 are written. -/
def baseHi (a : BitVec 56) (v : Reg32) : BitVec 56 := BitVec.ofNat 56 (2 ^ 32 * (fld v 0 24).toNat + a.toNat % 2 ^ 32)

/-- The frozen fields of a queue-pair block. -/
def qpField (o : Nat) (v : Reg32) (x : Qp) : Qp :=
  match o with
  | 0x04 => { x with sqm1 := fld v 0 16, cqm1 := fld v 16 16 }
  | 0x08 => { x with iv := fld v 0 11, sqloc := v.getLsbD 12, cqloc := v.getLsbD 13, ien := v.getLsbD 14 }
  | 0x10 => { x with sqBase := baseLo x.sqBase v }
  | 0x14 => { x with sqBase := baseHi x.sqBase v }
  | 0x18 => { x with cqBase := baseLo x.cqBase v }
  | 0x1C => { x with cqBase := baseHi x.cqBase v }
  | _ => x

/-- The registers of a queue-pair block whose fields EN freezes. -/
def qpFrozen (o : Nat) : Bool := [0x04, 0x08, 0x10, 0x14, 0x18, 0x1C].contains o

/-- A write to a queue-pair block: only an admin queue's, by its own function (R383). -/
def writeQp (s : State) (ag : Agent) (g : Fin 4096) (o : Nat) (v : Reg32) : State :=
  let f := fnOf g
  let x := getQp s g.val
  if ag ≠ .host f ∨ g.val % 64 ≠ 0 then s
  else if o = 0 then (if v.getLsbD 0 then after (execAdminQueueEnable f s) s else after (execAdminQueueDrain f s) s)
  else if !qpFrozen o then s
  else if x.en then setWwb s .rqe
  else setQp s g.val (qpField o v x)

/-- Firmware writes the DAU page. -/
def writeDau (s : State) (o : Nat) (v : Reg32) : State :=
  let c := s.dau.cfg.stage
  let put := fun (x : DauCfg) => { s with dau := { s.dau with cfg := { s.dau.cfg with stage := x } } }
  if h : 0x080 ≤ o ∧ o < 0x0AC then put { c with caps := c.caps.set ((o - 0x080) / 4) (fld v 0 18) (by omega) }
  else match o with
    | 0x040 => openWrite (put { c with setup := fld v 8 8 }) (v.getLsbD 0) (v.getLsbD 1)
    | 0x050 => put { c with band := fld v 0 3 }
    | _ => s

/-- Firmware writes the CSC page; the PF host may write CSC_SEL (R321). -/
def writeCsc (s : State) (ag : Agent) (o : Nat) (v : Reg32) : State :=
  match o with
  | 0x044 => if ag = .fw then { s with csc := { s.csc with beSlice := { s.csc.beSlice with stage := fld v 16 16 } } } else s
  | 0x05C => { s with csc := { s.csc with sel := fld v 0 4 } }
  | _ => s

/-- Firmware writes LMC_SCRUB (R57). -/
def writeLmc (s : State) (n : Fin 12) (o : Nat) (v : Reg32) : State :=
  match o with
  | 0x048 => modLmc s n (fun x => { x with scrub := { x.scrub with stage := { period := bits v.toNat 1 8, en := v.getLsbD 0 } } })
  | _ => s

/-- A staged interleave set with one register written (R57). -/
def ilvField (o : Nat) (v : Reg32) (x : Ilv) : Ilv :=
  match o with
  | 0 => { x with baseG := fld v 0 18 }
  | 4 => { x with sizeG := fld v 0 18 }
  | 8 => { x with en := v.getLsbD 0, ways := fld v 1 3, gran := fld v 4 4, members := fld v 8 18 }
  | 12 => { x with pbaseG := fld v 0 15 }
  | _ => x

/-- Firmware writes the MAP page. -/
def writeMap (s : State) (o : Nat) (v : Reg32) : State :=
  if h : 0x080 ≤ o ∧ o < 0x0C0 then
    { s with map := { s.map with sets := { s.map.sets with
      stage := vmod s.map.sets.stage ⟨(o - 0x080) / 16, by omega⟩ (ilvField (o % 16) v) } } }
  else s

/-- Firmware writes PIPE_CFG, which EN freezes (R105). -/
def writePipe (s : State) (p : Fin 8) (o : Nat) (v : Reg32) : State :=
  match o with
  | 0x044 => if (hdr s (.pipe p)).en then setWwb s (.pipe p) else modPipe s p (fun x => { x with ra := fld v 4 4 })
  | _ => s

/-- Firmware writes the SEQ page (R294). -/
def writeSeq (s : State) (q : Fin 16) (o : Nat) (v : Reg32) : State :=
  match o with
  | 0x048 => modSeq s q (fun x => { x with wdog := { x.wdog with stage := fld v 2 14 }, wdogEn := v.getLsbD 0 })
  | 0x04C => modSeq s q (fun x => { x with masklim := { x.masklim with stage := fld v 0 7 } })
  | _ => s

/-- Firmware writes the LMS page; the PF host may write LMS_SEL (R434). -/
def writeLms (s : State) (ag : Agent) (o : Nat) (v : Reg32) : State :=
  match o with
  | 0x044 =>
    if ag = .fw then
      { s with lms := { s.lms with scrub := { s.lms.scrub with stage := { period := bits v.toNat 1 15, en := v.getLsbD 0 } } } }
    else s
  | 0x048 => if 27 ≤ (fld v 0 5).toNat then setWrsv s .lms else { s with lms := { s.lms with sel := fld v 0 5 } }
  | _ => s

/-- Firmware writes the FAB page (R435). -/
def writeFab (s : State) (o : Nat) (v : Reg32) : State :=
  match o with
  | 0x044 => { s with fab := { s.fab with cfg := { s.fab.cfg with stage := { age := fld v 8 8, floor := fld v 0 8 } } } }
  | 0x048 => if 34 ≤ (fld v 0 6).toNat then setWrsv s .fab else { s with fab := { s.fab with sel := fld v 0 6 } }
  | _ => s

/-- The PF host or firmware writes a GLB scratch register (R484). -/
def writeGlb (s : State) (o : Nat) (v : Reg32) : State :=
  match o with
  | 0x060 => { s with glb := { s.glb with scratch0 := v } }
  | 0x064 => { s with glb := { s.glb with scratch1 := v } }
  | _ => s

/-- A write to a block register of page 0. -/
def writePage (s : State) (ag : Agent) (pg : PageId) (o : Nat) (v : Reg32) : State :=
  let fw := decide (ag = .fw)
  let pf := match ag with | .host f => decide (f.val = 0) | _ => false
  if !fw && !pf then s
  else if o < 0x040 then writeHdr s ag pg o v
  else match pg with
    | .glb => writeGlb s o v
    | .pwr => if fw then writePwr s o v else s
    | .evr => writeEvr s ag o v
    | .evc => writeEvc s o v
    | .hlk => if pf then writeHlk s o v else s
    | .dau => if fw then writeDau s o v else s
    | .csc => writeCsc s ag o v
    | .lmc n => if fw then writeLmc s n o v else s
    | .xpt p => if fw && decide (o = 0x04C) && v.getLsbD 0 then after (execXptQualStart p s) s else s
    | .map => if fw then writeMap s o v else s
    | .pipe p => if fw then writePipe s p o v else s
    | .seq q => if fw then writeSeq s q o v else s
    | .dir => if o = 0x050 then { s with dir := { s.dir with sel := fld v 0 10 } } else s
    | .lms => writeLms s ag o v
    | .fab => if fw then writeFab s o v else s
    | .rqe => s

/-- A write to a register that its island serves. -/
def writeAt (s : State) (ag : Agent) (r : RegAt) (v : Reg32) : State :=
  match r with
  | .page pg o => writePage s ag pg o v
  | .src n => writeSrc s ag n v
  | .grp g => writeGrp s ag g v
  | .tgt t o => if o = 0x004 then after (execTgtComplete ag t ⟨bits v.toNat 0 11, by unfold bits; omega⟩ s) s else s
  | .qp g o => writeQp s ag g o v
  | .zero | .undefined => s

/-- A write by BAR0 offset. -/
def writeBar0 (s : State) (ag : Agent) (off : Nat) (v : Reg32) : State :=
  let r := regFor ag off
  match r.pageId with
  | none => if r = .zero then s else (match ag with | .host _ => urDrop s | _ => send s .fwError)
  | some pg =>
    match serveIsl s (pageIsland pg) with
    | .up => writeAt s ag r v
    | .gone => s
    | .asleep => (match ag with | .host _ => s | _ => send s .fwError)

/-- A write of a 32-bit word of a vector's entry (R355, R368): an unmasked vector sends its pending message. -/
def writeVecWord (s : State) (f : Fin 64) (v w : Nat) (value : Reg32) : State :=
  let k := vecKey f.val v
  let x := tget VecState.reset s.hl.msix k
  let put := fun (y : VecState) => { s with hl := { s.hl with msix := tset VecState.reset s.hl.msix k y } }
  match w with
  | 0 => put { x with addr := (x.addr &&& 0xFFFFFFFF00000000#64) ||| value.setWidth 64 }
  | 1 => put { x with addr := (x.addr &&& 0x00000000FFFFFFFF#64) ||| (value.setWidth 64 <<< 32) }
  | 2 => put { x with data := value }
  | _ =>
    if value.getLsbD 0 then put { x with mask := true }
    else if h : v < 2048 then after (execMsixVectorUnmask f ⟨v, h⟩ s) s
    else s

/-- The host writes queue memory (R353, R355, R378). -/
def writeQueueMem (s : State) (o : Nat) (bs : List Byte) (ide : Option (Fin 9)) : State :=
  let sec := match ide with | some i => s.hl.ide.getLsbD i.val | none => false
  let s1 := qmWrite s o bs
  { s1 with rqe := { s1.rqe with prot := (List.range bs.length).foldl (fun l i => tset false l (o + i) sec) s1.rqe.prot } }

/-- A write through the BAR2 of a function (R353, R355); the pending bit array is read only, as PCIe has it. -/
def writeBar2 (s : State) (f : Fin 64) (off : Nat) (bs : List Byte) (ide : Option (Fin 9)) : State :=
  let n := bs.length
  match bar2At f off with
  | .tail _ | .head _ => if wordAccess off n then bellWrite s f off (natOf bs) else urDrop s
  | .msix v b =>
    if wordAccess off n then
      let s1 := writeVecWord s f v (b / 4) (BitVec.ofNat 32 (natOf (bs.take 4)))
      if n = 8 then writeVecWord s1 f v (b / 4 + 1) (BitVec.ofNat 32 (natOf (bs.drop 4))) else s1
    else urDrop s
  | .pending _ => if wordAccess off n then s else urDrop s
  | .queueMem o => if spanOk off n then writeQueueMem s o bs ide else urDrop s
  | .undefined => urDrop s

/-- A write of the PF's SR-IOV capability (R358). NumVFs changes only while VF Enable is 0. -/
def writeSriov (s : State) (v : Reg32) : State :=
  if v.getLsbD 31 then
    (if s.hl.vfe then s else { s with hl := { s.hl with vfe := true, numvf := fld v 0 6 } })
  else if s.hl.vfe then disableVfs s
  else { s with hl := { s.hl with numvf := fld v 0 6 } }

/-- Sets or clears bit f of 64. -/
def putBit (m : BitVec 64) (f : Fin 64) (on : Bool) : BitVec 64 :=
  let b : BitVec 64 := BitVec.ofNat 64 (2 ^ f.val)
  if on then m ||| b else m &&& ~~~b

/-- The vectors of a function that is back in D0: an unmasked one sends the message that waited (R350, R368). -/
def sendPends (s : State) (f : Fin 64) : State :=
  (s.hl.msix.filter (fun e => decide (e.1 / 2048 = f.val) && e.2.pend && !e.2.mask)).foldl (fun a e =>
    sendMsix { a with hl := { a.hl with msix := tset VecState.reset a.hl.msix e.1 { e.2 with pend := false } } } f (e.1 % 2048)) s

/-- Writes to the configuration space of a function (R350 to R352, R360). A reserved power state changes nothing; the link enters
L1 once ASPM enables it, since it is idle between two commands. Log entry 132. -/
def writeConfig (s : State) (t : RegTarget) (v : Reg32) : State :=
  let dev := fun (f : Fin 64) (g : DevCtl → DevCtl) =>
    { s with hl := { s.hl with devs := tset DevCtl.reset s.hl.devs f.val (g (tget DevCtl.reset s.hl.devs f.val)) } }
  match t with
  | .memSpace f => { s with hl := { s.hl with mse := putBit s.hl.mse f (v.getLsbD 1) } }
  | .power f =>
    if v.extractLsb' 0 2 = 0#2 then sendPends { s with hl := { s.hl with d3 := putBit s.hl.d3 f false } } f
    else if v.extractLsb' 0 2 = 3#2 then { s with hl := { s.hl with d3 := putBit s.hl.d3 f true } }
    else s
  | .device f => if (v.extractLsb' 5 3).toNat ≤ 2 ∧ (v.extractLsb' 12 3).toNat ≤ 5 then
      dev f (fun x => { x with mps := fld v 5 3, mrrs := fld v 12 3 }) else s
  | .device2 f => dev f (fun x => { x with cto := fld v 0 4 })
  | .link => { s with hl := { s.hl with aspm := v.getLsbD 1, l0 := s.hl.l0 && !v.getLsbD 1 } }
  | .ideStream i x => { s with hl := { s.hl with ideSel := vset s.hl.ideSel i x } }
  | .aer => { s with hl := { s.hl with aer := s.hl.aer &&& ~~~v } }
  | .sriov => writeSriov s v
  | _ => s

/-- The function whose configuration space a write names. -/
def cfgFn : RegTarget → Option (Fin 64)
  | .memSpace f | .power f | .device f | .device2 f => some f
  | .link | .ideStream _ _ | .aer | .sriov => some 0
  | _ => none

/-- A write through BAR0 or BAR2 (R353, R355). -/
def writeBars (s : State) (ag : Agent) (t : RegTarget) (v : Reg32) : State :=
  match t with
  | .bar0 off => writeBar0 s ag off.toNat v
  | .bar0Pair off hi =>
    if regFor ag off.toNat = .undefined then writeBar0 s ag off.toNat v else writeBar0 (writeBar0 s ag off.toNat v) ag (off.toNat + 4) hi
  | .bar2 off bs ide => (match hostFn ag with | some f => writeBar2 s f off.toNat bs ide | none => s)
  | _ => s

/-- An agent can reach what a write through BAR0 or BAR2 names. -/
def barReaches (s : State) (ag : Agent) (t : RegTarget) : Bool :=
  match t with
  | .bar2 _ _ _ => memReaches s ag
  | _ => bar0Reaches s ag

/-- REGISTER_WRITE (R473). Writes by J9 have no effect, a function in D3hot takes no memory writes (R350), and after a tamper event the
register pages take none of the host's (R465). -/
def execRegisterWrite (ag : Agent) (t : RegTarget) (value : Reg32) (s : State) : Host.Outcome State Fault Refusal :=
  match cfgFn t with
  | some f => .next (cfgRequest s ag f (writeConfig s t value))
  | none =>
    .next (if !reaches s ag || decide (ag = .j9) then s
      else if barReaches s ag t then writeBars s ag t value
      else match ag with | .host _ => urDrop s | _ => s)

end Sys2Proof.Machine
end

