-- ==== Sys2Proof/Machine/ScalarAlu.lean ====
section
/-! DEFINITION. The I slots: integer operations, bit fields, multiply and divide, MFC and MTC (R239 to R245). -/

namespace Sys2Proof.Machine

/-! ## The operations on 64-bit values -/

/-- SHL, SHR, SRA with a count of 64 or more (R239). -/
def aluShl (a n : Word) : Word := if 64 ≤ n.toNat then 0 else a <<< n.toNat
def aluShr (a n : Word) : Word := if 64 ≤ n.toNat then 0 else a >>> n.toNat
def aluSra (a n : Word) : Word := a.sshiftRight (Nat.min n.toNat 64)

/-- Signed and unsigned minimum and maximum. -/
def aluMin (a b : Word) : Word := if a.toInt ≤ b.toInt then a else b
def aluMax (a b : Word) : Word := if a.toInt ≤ b.toInt then b else a
def aluMinu (a b : Word) : Word := if a.toNat ≤ b.toNat then a else b
def aluMaxu (a b : Word) : Word := if a.toNat ≤ b.toNat then b else a

/-- A condition as 1 or 0. -/
def aluBool (p : Bool) : Word := if p then 1 else 0

/-- Bit fields of RA (R241): lsb, and the width less 1. -/
def aluBfx (a : Word) (lsb wm1 : Nat) : Word := BitVec.ofNat 64 (bits a.toNat lsb (wm1 + 1))
def aluBfxs (a : Word) (lsb wm1 : Nat) : Word :=
  let f := bits a.toNat lsb (wm1 + 1)
  if f.testBit wm1 then BitVec.ofNat 64 (f + (2 ^ 64 - 2 ^ (wm1 + 1))) else BitVec.ofNat 64 f
def aluBfi (d a : Word) (lsb wm1 : Nat) : Word :=
  let m : Word := BitVec.ofNat 64 ((2 ^ (wm1 + 1) - 1) * 2 ^ lsb)
  (d &&& ~~~m) ||| ((a <<< lsb) &&& m)

/-- Division and remainder with the results of R197. -/
def aluDivu (a b : Word) : Word := if b = 0 then BitVec.allOnes 64 else BitVec.ofNat 64 (a.toNat / b.toNat)
def aluRemu (a b : Word) : Word := if b = 0 then a else BitVec.ofNat 64 (a.toNat % b.toNat)
def aluDiv (a b : Word) : Word := if b = 0 then BitVec.allOnes 64 else BitVec.ofInt 64 (a.toInt.tdiv b.toInt)
def aluRem (a b : Word) : Word := if b = 0 then a else BitVec.ofInt 64 (a.toInt.tmod b.toInt)

/-! ## The shape of an I syllable -/

/-- The place of an I syllable. -/
def ISyl.syl (u : ISyl) : Syl := ⟨u.seq, u.stop⟩

/-- An I syllable that writes RD. -/
def iOut (u : ISyl) (e : Env) (words : Nat) (rs : List (Fin 32)) (rd : Fin 32) (v : Word) (fs : List SFault) : SyllOut :=
  { SyllOut.of .i (if u.i1 then 1 else 0) words with
    dests := [rd.val], hold := e.busy (rd :: rs), faults := fs, writes := [.int rd v] }

/-- A register operation (format IR). -/
def ir (u : ISyl) (rd ra rb : Fin 32) (f : Word → Word → Word) (s : State) : Host.Outcome State Fault Refusal :=
  .next (issue s (ISyl.syl u) (fun e => iOut u e 1 [ra, rb] rd (f (e.r ra) (e.r rb)) []))

/-- A counting operation: RB is zero. -/
def ir1 (u : ISyl) (rd ra : Fin 32) (f : Word → Word) (s : State) : Host.Outcome State Fault Refusal :=
  .next (issue s (ISyl.syl u) (fun e => iOut u e 1 [ra] rd (f (e.r ra)) []))

/-- An immediate operation (format II). -/
def ii (u : ISyl) (rd ra : Fin 32) (imm : Imm) (f : Word → Word → Word) (s : State) : Host.Outcome State Fault Refusal :=
  .next (issue s (ISyl.syl u) (fun e => iOut u e (immWords imm) [ra] rd (f (e.r ra) (immVal imm)) []))

/-- A shift by an immediate count: 64 and above are reserved (R229). -/
def ishift (u : ISyl) (rd ra : Fin 32) (n : BitVec 12) (f : Word → Word → Word) (s : State) :
    Host.Outcome State Fault Refusal :=
  .next (issue s (ISyl.syl u) (fun e => iOut u e 1 [ra] rd (f (e.r ra) (n.zeroExtend 64)) (faultIf (decide (64 ≤ n.toNat)) rsvdField)))

/-- A bit-field operation (format IB). -/
def ib (u : ISyl) (rd ra : Fin 32) (lsb wm1 : BitVec 6) (rs : List (Fin 32)) (f : Env → Word) (s : State) :
    Host.Outcome State Fault Refusal :=
  .next (issue s (ISyl.syl u) (fun e => iOut u e 1 (ra :: rs) rd (f e) (faultIf (decide (63 < lsb.toNat + wm1.toNat)) rsvdField)))

/-- A multiply or divide (R244): I0 only; its result is written by MULDIV_COMPLETE. -/
def imul (u : ISyl) (rd ra rb : Fin 32) (f : Word → Word → Word) (idz : Word → Bool) (cyc : Word → Word → Nat) (full : Nat)
    (s : State) : Host.Outcome State Fault Refusal :=
  .next (issue s (ISyl.syl u) (fun e =>
    { SyllOut.of .i (if u.i1 then 1 else 0) 1 with
      dests := [rd.val], hold := e.busy [rd, ra, rb] || e.x.md.isSome, faults := faultIf u.i1 rsvdOpcode,
      acts := [.muldiv rd (f (e.r ra) (e.r rb)) (idz (e.r rb))
        (if e.k.lo.stat.ct then full else cyc (e.r ra) (e.r rb)) false] }))

/-! ## The commands -/

/-- ADD (R239). -/
def execAdd (u : ISyl) (rd ra rb : Fin 32) (s : State) := ir u rd ra rb (· + ·) s
/-- SUB (R239). -/
def execSub (u : ISyl) (rd ra rb : Fin 32) (s : State) := ir u rd ra rb (· - ·) s
/-- AND (R239). -/
def execAnd (u : ISyl) (rd ra rb : Fin 32) (s : State) := ir u rd ra rb (· &&& ·) s
/-- OR (R239). -/
def execOr (u : ISyl) (rd ra rb : Fin 32) (s : State) := ir u rd ra rb (· ||| ·) s
/-- XOR (R239). -/
def execXor (u : ISyl) (rd ra rb : Fin 32) (s : State) := ir u rd ra rb (· ^^^ ·) s
/-- ANDN (R239). -/
def execAndn (u : ISyl) (rd ra rb : Fin 32) (s : State) := ir u rd ra rb (fun a b => a &&& ~~~b) s
/-- SHL (R239). -/
def execShl (u : ISyl) (rd ra rb : Fin 32) (s : State) := ir u rd ra rb aluShl s
/-- SHR (R239). -/
def execShr (u : ISyl) (rd ra rb : Fin 32) (s : State) := ir u rd ra rb aluShr s
/-- SRA (R239). -/
def execSra (u : ISyl) (rd ra rb : Fin 32) (s : State) := ir u rd ra rb aluSra s
/-- MIN (R239). -/
def execMin (u : ISyl) (rd ra rb : Fin 32) (s : State) := ir u rd ra rb aluMin s
/-- MAX (R239). -/
def execMax (u : ISyl) (rd ra rb : Fin 32) (s : State) := ir u rd ra rb aluMax s
/-- MINU (R239). -/
def execMinu (u : ISyl) (rd ra rb : Fin 32) (s : State) := ir u rd ra rb aluMinu s
/-- MAXU (R239). -/
def execMaxu (u : ISyl) (rd ra rb : Fin 32) (s : State) := ir u rd ra rb aluMaxu s
/-- CMPEQ (R239). -/
def execCmpeq (u : ISyl) (rd ra rb : Fin 32) (s : State) := ir u rd ra rb (fun a b => aluBool (decide (a = b))) s
/-- CMPLT (R239). -/
def execCmplt (u : ISyl) (rd ra rb : Fin 32) (s : State) := ir u rd ra rb (fun a b => aluBool (a.slt b)) s
/-- CMPLTU (R239). -/
def execCmpltu (u : ISyl) (rd ra rb : Fin 32) (s : State) := ir u rd ra rb (fun a b => aluBool (a.ult b)) s
/-- CLZ (R242). -/
def execClz (u : ISyl) (rd ra : Fin 32) (s : State) := ir1 u rd ra (fun a => BitVec.ofNat 64 (clzNat 64 a.toNat)) s
/-- CTZ (R242). -/
def execCtz (u : ISyl) (rd ra : Fin 32) (s : State) := ir1 u rd ra (fun a => BitVec.ofNat 64 (ctzNat 64 a.toNat)) s
/-- POPC (R242). -/
def execPopc (u : ISyl) (rd ra : Fin 32) (s : State) := ir1 u rd ra (fun a => BitVec.ofNat 64 (popcNat 64 a.toNat)) s
/-- PERMB (R243). -/
def execPermb (u : ISyl) (rd ra rb : Fin 32) (s : State) :=
  ir u rd ra rb (fun a c => BitVec.ofNat 64 (permb a.toNat c.toNat)) s

/-- MUL (R244): the signed early-out rule. -/
def execMul (u : ISyl) (rd ra rb : Fin 32) (s : State) :=
  imul u rd ra rb (· * ·) (fun _ => false) (fun _ b => mulPasses 64 true b.toNat) 4 s
/-- MULU (R244): the unsigned early-out rule. -/
def execMulu (u : ISyl) (rd ra rb : Fin 32) (s : State) :=
  imul u rd ra rb (· * ·) (fun _ => false) (fun _ b => mulPasses 64 false b.toNat) 4 s
/-- MULH (R244). -/
def execMulh (u : ISyl) (rd ra rb : Fin 32) (s : State) :=
  imul u rd ra rb (fun a b => BitVec.ofInt 64 ((a.toInt * b.toInt) / 2 ^ 64)) (fun _ => false)
    (fun _ b => mulPasses 64 true b.toNat) 4 s
/-- MULHU (R244). -/
def execMulhu (u : ISyl) (rd ra rb : Fin 32) (s : State) :=
  imul u rd ra rb (fun a b => BitVec.ofNat 64 (a.toNat * b.toNat / 2 ^ 64)) (fun _ => false)
    (fun _ b => mulPasses 64 false b.toNat) 4 s
/-- DIV (R244). -/
def execDiv (u : ISyl) (rd ra rb : Fin 32) (s : State) :=
  imul u rd ra rb aluDiv (fun b => decide (b = 0)) (fun a b => divCycles 64 true a.toNat b.toNat) 35 s
/-- DIVU (R244). -/
def execDivu (u : ISyl) (rd ra rb : Fin 32) (s : State) :=
  imul u rd ra rb aluDivu (fun b => decide (b = 0)) (fun a b => divCycles 64 false a.toNat b.toNat) 35 s
/-- REM (R244). -/
def execRem (u : ISyl) (rd ra rb : Fin 32) (s : State) :=
  imul u rd ra rb aluRem (fun b => decide (b = 0)) (fun a b => divCycles 64 true a.toNat b.toNat) 35 s
/-- REMU (R244). -/
def execRemu (u : ISyl) (rd ra rb : Fin 32) (s : State) :=
  imul u rd ra rb aluRemu (fun b => decide (b = 0)) (fun a b => divCycles 64 false a.toNat b.toNat) 35 s

/-- MULDIV_COMPLETE: the unit's result reaches its register, and a division by zero sets FCSR.IDZ (R197, R282). -/
def execMuldivComplete (q : Fin 16) (s : State) : Host.Outcome State Fault Refusal :=
  match (s.seqs[q.val]).md with
  | none => .next s
  | some m =>
    .next (settleLoads (lateBank (modSeq s q (fun x => { x with md := none })) q m.bank m.stamp (fun k =>
      let k1 := if m.drop then k else { k with lo := wrIntIn k.lo m.win m.rd m.value }
      if m.idz then applyWrite 0 k1 .idz else k1)) q)

/-- ADDI (R239). -/
def execAddi (u : ISyl) (rd ra : Fin 32) (imm : Imm) (s : State) := ii u rd ra imm (· + ·) s
/-- ANDI (R239). -/
def execAndi (u : ISyl) (rd ra : Fin 32) (imm : Imm) (s : State) := ii u rd ra imm (· &&& ·) s
/-- ORI (R239). -/
def execOri (u : ISyl) (rd ra : Fin 32) (imm : Imm) (s : State) := ii u rd ra imm (· ||| ·) s
/-- XORI (R239). -/
def execXori (u : ISyl) (rd ra : Fin 32) (imm : Imm) (s : State) := ii u rd ra imm (· ^^^ ·) s
/-- SHLI (R239). -/
def execShli (u : ISyl) (rd ra : Fin 32) (n : BitVec 12) (s : State) := ishift u rd ra n aluShl s
/-- SHRI (R239). -/
def execShri (u : ISyl) (rd ra : Fin 32) (n : BitVec 12) (s : State) := ishift u rd ra n aluShr s
/-- SRAI (R239). -/
def execSrai (u : ISyl) (rd ra : Fin 32) (n : BitVec 12) (s : State) := ishift u rd ra n aluSra s
/-- CMPEQI (R239). -/
def execCmpeqi (u : ISyl) (rd ra : Fin 32) (imm : Imm) (s : State) := ii u rd ra imm (fun a b => aluBool (decide (a = b))) s
/-- CMPLTI (R239). -/
def execCmplti (u : ISyl) (rd ra : Fin 32) (imm : Imm) (s : State) := ii u rd ra imm (fun a b => aluBool (a.slt b)) s
/-- CMPLTUI (R239): the sign-extended immediate is compared unsigned. -/
def execCmpltui (u : ISyl) (rd ra : Fin 32) (imm : Imm) (s : State) := ii u rd ra imm (fun a b => aluBool (a.ult b)) s
/-- LI (R239). -/
def execLi (u : ISyl) (rd : Fin 32) (imm : Imm) (s : State) : Host.Outcome State Fault Refusal :=
  .next (issue s (ISyl.syl u) (fun e => iOut u e (immWords imm) [] rd (immVal imm) []))
/-- LIH (R240): RD is also a source. -/
def execLih (u : ISyl) (rd : Fin 32) (imm : Imm) (s : State) : Host.Outcome State Fault Refusal :=
  .next (issue s (ISyl.syl u) (fun e => iOut u e (immWords imm) [] rd
    (((immVal imm) <<< 32) ||| (e.r rd &&& 0xFFFFFFFF#64)) []))
/-- BFX (R241). -/
def execBfx (u : ISyl) (rd ra : Fin 32) (lsb wm1 : BitVec 6) (s : State) :=
  ib u rd ra lsb wm1 [] (fun e => aluBfx (e.r ra) lsb.toNat wm1.toNat) s
/-- BFXS (R241). -/
def execBfxs (u : ISyl) (rd ra : Fin 32) (lsb wm1 : BitVec 6) (s : State) :=
  ib u rd ra lsb wm1 [] (fun e => aluBfxs (e.r ra) lsb.toNat wm1.toNat) s
/-- BFI (R241): RD is also a source. -/
def execBfi (u : ISyl) (rd ra : Fin 32) (lsb wm1 : BitVec 6) (s : State) :=
  ib u rd ra lsb wm1 [rd] (fun e => aluBfi (e.r rd) (e.r ra) lsb.toNat wm1.toNat) s

/-- Control registers whose access waits for the context's F-slot operations (R204, R236): VL, VSTART, FCSR. -/
def ctlWaits (cr : Fin 32) : Bool := cr = 4 || cr = 5 || cr = 6

/-- MFC (R236, R245). An unfinished divide holds a read of FCSR, since it may set IDZ. -/
def execMfc (u : ISyl) (rd cr : Fin 32) (s : State) : Host.Outcome State Fault Refusal :=
  .next (issue s (ISyl.syl u) (fun e =>
    { SyllOut.of .i (if u.i1 then 1 else 0) 1 with
      dests := [rd.val],
      hold := e.busy [rd] || (ctlWaits cr && e.fops) || (cr = 6 && e.x.md.isSome),
      faults := oneFault (faultIf u.i1 rsvdOpcode ++ faultIf (decide (19 < cr.val)) rsvdField
        ++ faultIf (!mfcAllowed cr.val e.pl) privCtl),
      writes := [.int rd (rdCtl e.k cr.val)] }))

/-- MTC (R236, R245). -/
def execMtc (u : ISyl) (cr ra : Fin 32) (s : State) : Host.Outcome State Fault Refusal :=
  .next (issue s (ISyl.syl u) (fun e =>
    { SyllOut.of .i (if u.i1 then 1 else 0) 1 with
      dests := [100 + cr.val],
      hold := e.busy [ra] || e.loadsOut || (ctlWaits cr && e.fops) || (cr = 6 && e.x.md.isSome),
      faults := oneFault (faultIf u.i1 rsvdOpcode ++ faultIf (decide (19 < cr.val) || cr = 0) rsvdField
        ++ (match mtcBad cr.val (e.r ra).toNat with | some sub => [fault 3 0x01 sub 0] | none => [])
        ++ faultIf (!mtcAllowed cr.val e.pl) privCtl),
      writes := [.ctl cr (e.r ra)] }))

end Sys2Proof.Machine
end

