-- ==== Sys2Proof/Machine/Vector.lean ====
section
/-! DEFINITION. The register form of the catalogue: encodings, elements, masks, the F-slot queue, gathers and scatters
(R93 to R102, R112 to R135, R204, R212, R232 to R234). Every command of it is one call of one shared operation with
its unit and OP. -/

namespace Sys2Proof.Machine

/-- The operand extension of an F syllable, with its defaults (R233). -/
def extOf (a : FArgs) : FExt := a.ext.getD { km := 0, mz := false, bs := false, sc := false, mbz := 0, aux := 0 }

/-- Syllables an F instruction takes. -/
def fWords (a : FArgs) : Nat := if a.ext.isSome then 2 else 1

/-- The kinds of operations that read their types in their own way. -/
def isCmp (unit op : Nat) : Bool :=
  (decide (unit ≤ 1) && decide (0x20 ≤ op) && decide (op ≤ 0x25)) || (decide (unit = 3) && decide (0x10 ≤ op) && decide (op ≤ 0x15))
def isCvt (unit op : Nat) : Bool :=
  (decide (unit ≤ 1) && (decide (op = 0x28) || decide (op = 0x29))) || (decide (unit = 3) && (decide (op = 0x18) || decide (op = 0x19)))
def isSeg (unit op : Nat) : Bool := decide (unit ≤ 1) && decide (0x38 ≤ op) && decide (op ≤ 0x3E)
def isFma3 (unit op : Nat) : Bool := decide (unit = 3) && decide (3 ≤ op) && decide (op ≤ 5)
def isRed (unit op : Nat) : Bool :=
  (decide (unit ≤ 1) && decide (0x30 ≤ op) && decide (op ≤ 0x36)) || (decide (unit = 3) && decide (0x20 ≤ op) && decide (op ≤ 0x22))
def isHash (unit op : Nat) : Bool := decide (unit = 5) && decide (op = 0)
def isKpopc (unit op : Nat) : Bool := decide (unit = 4) && decide (op = 0x12)
def isPerm (unit op : Nat) : Bool := decide (unit = 4) && decide (op = 0x11)
def isCount (unit op : Nat) : Bool := decide (unit ≤ 1) && (decide (op = 0x33) || decide (op = 0x3B))

/-- Operations that accept SC = 1 (R233). -/
def scOk (unit op : Nat) : Bool :=
  (decide (unit = 3) && (decide (op ≤ 5) || (decide (8 ≤ op) && decide (op ≤ 0xB)) || decide (op = 0x18) || decide (op = 0x19)))
    || (decide (unit = 2) && (decide (op = 8) || decide (op = 9)))

/-- The result type of an instruction. -/
def resTy (unit op : Nat) (a : FArgs) : Nat := if isCmp unit op then 11 else if isHash unit op then 7 else a.ty.toNat

/-- The type of its first source. -/
def srcTy (unit op : Nat) (a : FArgs) : Nat :=
  if isCvt unit op then (extOf a).aux.toNat % 16
  else if isCount unit op || isKpopc unit op then 11
  else a.ty.toNat

/-- Operand b comes from VB. -/
def hasB (unit op : Nat) : Bool :=
  isPerm unit op || (!isSeg unit op && decide (op ≠ 1 ∨ unit ≠ 4) && (match catRow unit op with | some r => decide (2 ≤ r.srcs.length) | none => false))

/-- Whether the types of an instruction are ones it accepts (R112 to R130, R232). -/
def typesOk (unit op : Nat) (a : FArgs) : Bool :=
  let t := a.ty.toNat
  if isKpopc unit op then true
  else if isCmp unit op then (if unit = 3 then tyFp t else tyInt t)
  else if isCvt unit op then cvtOk unit op t ((extOf a).aux.toNat % 16)
  else if isHash unit op then tyInt t || tyFp t
  else match catRow unit op with
    | some r => r.ts.contains t
    | none => false

/-- Reserved register numbers, types and combinations (R227, R232, R233). -/
def fReserved (unit op : Nat) (a : FArgs) : Bool :=
  let x := extOf a
  let t := a.ty.toNat
  decide (12 ≤ t) || !typesOk unit op a
    || (decide (resTy unit op a = 11) && decide (8 ≤ a.vd.val))
    || (decide (srcTy unit op a = 11) && decide (8 ≤ a.va.val))
    || (hasB unit op && decide (srcTy unit op a = 11) && decide (8 ≤ a.vb.val) && !x.bs)
    || (x.bs && (!hasB unit op || decide (srcTy unit op a = 11)))
    || (x.sc && (!scOk unit op || decide (x.km ≠ 0)))
    || (isBf unit op && !bfImmOk t x.aux.toNat)

/-- Nonzero bits in fields that must be zero (R232, R233). -/
def fNonzero (unit op : Nat) (a : FArgs) : Bool :=
  let x := extOf a
  let n := x.aux.toNat
  decide (x.mbz ≠ 0) || (!hasB unit op && decide (a.vb ≠ 0))
    || (isKpopc unit op && (decide (a.ty ≠ 0) || decide (x.km ≠ 0) || x.mz))
    || (if isFma3 unit op then decide (32 ≤ n)
        else if isSeg unit op then decide (8 ≤ n)
        else if isCvt unit op then decide (16 ≤ n)
        else if isShiftImm unit op || isBf unit op then false
        else decide (n ≠ 0))

/-! ## Elements -/

/-- Element i of width w of a register. -/
def el (v w i : Nat) : Nat := bits v (w * i) w

/-- Replaces element i of width w. -/
def putEl (v w i x : Nat) : Nat := v - 2 ^ (w * i) * el v w i + 2 ^ (w * i) * x

/-- What an F instruction reads (R204): the vector state after every earlier F-slot operation, VL, VSTART, FCSR. -/
structure VEnv where
  up : Upper
  lo : Nat
  hi : Nat
  rm : Nat
  /-- Subnormals make fix-up entries: TRAP mode, without constant time (R198, R209). -/
  trap : Bool
  km : BitVec 1024
  mz : Bool
  deriving DecidableEq, Repr

/-- The elements an instruction processes for a count C (R95): VSTART to min(VL, C) − 1. -/
def vEnv (e : Env) (a : FArgs) (c : Nat) : VEnv :=
  let up := upperAfter e.s e.q e.b
  let x := extOf a
  let vs := if e.x.fq.any (fun o => o.bank = e.b && o.clears) then 0 else e.k.lo.vstart.toNat
  { up := up, lo := if x.sc then 0 else vs, hi := if x.sc then 1 else min e.k.lo.vl.toNat c,
    rm := fcsrRM e.k.lo.fcsr, trap := !e.k.lo.fcsr.getLsbD 9 && !e.k.lo.stat.ct, km := rdK up x.km, mz := x.mz }

/-- The indices processed, in ascending order. -/
def vIdx (v : VEnv) : List Nat := (List.range (v.hi - v.lo)).map (· + v.lo)

/-- The register that a source field names, as a number: a vector or a mask. -/
def vReg (up : Upper) (t : Nat) (r : Fin 32) : Nat :=
  if t = 11 then (rdK up ⟨r.val % 8, Nat.mod_lt _ (by decide)⟩).toNat else (up.v[r.val]).toNat

/-- The running values of an instruction over its elements. -/
structure VAcc where
  out : Nat
  fl : Nat
  /-- Affected elements: index, OUT, IN. -/
  fix : List (Nat × Bool × Bool)
  acc : Nat
  cnt : Nat
  deriving DecidableEq, Repr

/-- Takes the flags and the fix-up of one element's result. -/
def VAcc.note (x : VAcc) (i : Nat) (r : FpRes) : VAcc :=
  { x with fl := x.fl ||| r.fl, fix := if r.tiny || r.sub then x.fix ++ [(i, r.tiny, r.sub)] else x.fix }

/-- The element-wise operations: active elements take their result, masked-off ones stay or become zero (R96). -/
def vecElem (v : VEnv) (unit op t st imm wa wt : Nat) (ra rb rc : Nat) (bcast : Option Nat) (x : VAcc) (i : Nat) : VAcc :=
  if v.km.getLsbD i then
    let b := bcast.getD (el rb wa i)
    let r := catOp unit op t st imm v.rm (el ra wa i) b (el rc wa i)
    { VAcc.note x i r with out := putEl x.out wt i (r.val % 2 ^ wt) }
  else if v.mz then { x with out := putEl x.out wt i 0 } else x

/-- Segmented reductions and prefix sums (R118, R119). -/
def vecScan (v : VEnv) (op t wa wt : Nat) (ra ke ident : Nat) (x : VAcc) (i : Nat) : VAcc :=
  let act := v.km.getLsbD i
  let a := el ra wa i
  let pre := x.acc
  let acc := if act then redOp (if op = 0x40 ∨ op = 0x41 then 0 else op % 8) t pre a else pre
  let r := if op = 0x41 then pre else acc
  let acc' := if 0x38 ≤ op ∧ op ≤ 0x3E ∧ ke.testBit i then ident else acc
  let out := if act then putEl x.out wt i (r % 2 ^ wt) else if v.mz then putEl x.out wt i 0 else x.out
  { x with out := out, acc := acc' }

/-- EXPAND, COMPRESS and PERMUTE in the register form (R126, R127); with BS = 1 every index of VPERM is the integer register
VB (R233). VCMPR writes from element 0 on, whatever VSTART is, as R127 says. Log entry 57. -/
def vecMove (v : VEnv) (op w c : Nat) (ra rb : Nat) (bc : Option Nat) (x : VAcc) (i : Nat) : VAcc :=
  let act := v.km.getLsbD i
  if op = 0x10 then
    (if act then { x with out := putEl x.out w x.cnt (el ra w i), cnt := x.cnt + 1 } else x)
  else if act then
    let src := if op = 0x01 then x.cnt else (bc.getD (el rb w i)) % c
    { x with out := putEl x.out w i (el ra w src), cnt := x.cnt + 1 }
  else if v.mz then { x with out := putEl x.out w i 0 } else x

/-- A whole-register reduction (R115 to R117, R135). -/
def vecRed (v : VEnv) (unit op t wa : Nat) (ra : Nat) : VAcc :=
  let is := (vIdx v).filter (fun i => v.km.getLsbD i)
  let x0 : VAcc := { out := 0, fl := 0, fix := [], acc := catIdent unit op t, cnt := 0 }
  if unit = 3 then
    let f := tyFmt t
    if op = 0x20 then
      if is.isEmpty then x0
      else
        let tr := treeSum f v.rm 9 ((List.range 512).map (fun p => if is.contains p then some (el ra wa p, p) else none)) 0 []
        let node := tr.1.getD (0, 0)
        let r := fpAdd f v.rm x0.acc node.1
        { VAcc.note { x0 with fl := tr.2.1, fix := tr.2.2 } node.2 r with acc := r.val }
    else is.foldl (fun x i =>
      let r := fpMinMax f (decide (op = 0x22)) x.acc (el ra wa i)
      { VAcc.note x i r with acc := r.val }) x0
  else { x0 with acc := is.foldl (fun y i => redOp (op % 8) t y (el ra wa i)) x0.acc }

/-- Puts fix-up elements in ascending order, one entry an element (R212). -/
def mergeFix (xs : List (Nat × Bool × Bool)) : List (Nat × Bool × Bool) :=
  xs.foldl (fun acc f =>
    if acc.any (fun g => g.1 = f.1) then acc.map (fun g => if g.1 = f.1 then (g.1, g.2.1 || f.2.1, g.2.2 || f.2.2) else g)
    else (acc.takeWhile (fun g => decide (g.1 < f.1))) ++ f :: acc.dropWhile (fun g => decide (g.1 < f.1))) []

/-- A vector fix-up entry (R212). -/
def fixEntry (vd : Fin 32) (pc : Word) (f : Nat × Bool × Bool) : BitVec 128 :=
  BitVec.ofNat 128 (f.1 % 1024 + 2 ^ 10 * b2n f.2.2 + 2 ^ 11 * b2n f.2.1 + 2 ^ 16 * vd.val + 2 ^ 64 * pc.toNat)

/-- The result of a register-form operation (R93 to R102, R135). A whole-register reduction that processes nothing, VSTART reaching
min(VL, C), writes its identity to element 0, as over an empty set (R95, R135). DESIGN CHOICE, log entry 136. -/
def vecResult (e : Env) (unit op : Nat) (a : FArgs) : Act :=
  let x := extOf a
  let t := resTy unit op a
  let st := srcTy unit op a
  let wt := tyW t
  let wa := tyW st
  let c := if isCount unit op then 128 else min (8192 / max wt wa) 1024
  let v := vEnv e a c
  let ra := vReg v.up st a.va
  let rb := vReg v.up st a.vb
  let rc := vReg v.up st ⟨x.aux.toNat % 32, Nat.mod_lt _ (by decide)⟩
  let ke := (rdK v.up ⟨x.aux.toNat % 8, Nat.mod_lt _ (by decide)⟩).toNat
  let old := vReg v.up t a.vd
  let x0 : VAcc := { out := old, fl := 0, fix := [], acc := catIdent unit op t, cnt := 0 }
  let bc := if x.bs then some ((e.r a.vb).toNat % 2 ^ (if isHash unit op then 64 else wa)) else none
  let n := 2 * catInterval unit op t
  let k7 : Fin 8 := ⟨a.vd.val % 8, Nat.mod_lt _ (by decide)⟩
  let done := fun (r : VAcc) (vd : Option (Fin 32 × BitVec 8192)) (kd : Option (Fin 8 × BitVec 1024)) (rd : Option (Fin 32 × Word)) =>
    Act.fop vd kd rd (BitVec.ofNat 6 r.fl) (if v.trap then (mergeFix r.fix).map (fixEntry a.vd e.k.pc) else []) true n
  if isKpopc unit op then
    done x0 none none (some (a.vd, BitVec.ofNat 64 (popcNat (min e.k.lo.vl.toNat 1024) ra)))
  else if isRed unit op then
    let r := vecRed v unit op t wa ra
    done r (some (a.vd, placeScalar (v.up.v[a.vd.val]) (BitVec.ofNat 64 (accOut t r.acc)) 8)) none none
  else
    let r := (vIdx v).foldl (
      if isSeg unit op ∨ (unit ≤ 1 ∧ (op = 0x40 ∨ op = 0x41)) then vecScan v op t wa wt ra ke (catIdent unit op t)
      else if unit = 4 ∧ op ≠ 0 then vecMove v op wt c ra rb bc
      else if isHash unit op then fun y i => vecElem v unit op t st x.aux.toNat wa wt ra 0 rc (some (bc.getD (el (vReg v.up 7 a.vb) 64 i))) y i
      else vecElem v unit op t st x.aux.toNat wa wt ra rb rc bc) x0
    if x.sc then
      done r (some (a.vd, placeScalar (v.up.v[a.vd.val]) (BitVec.ofNat 64 (el r.out wt 0)) (if wt = 64 then 8 else 4))) none none
    else if t = 11 then done r none (some (k7, BitVec.ofNat 1024 r.out)) none
    else done r (some (a.vd, BitVec.ofNat 8192 r.out)) none none

/-- An F syllable of the bound pipe, which must run (R12, R97, R459, R476, R482): a queue with room, no long load outstanding (R252,
R288), vector state declared (R301). -/
def fOut (e : Env) (words : Nat) (hold : Bool) (fs : List SFault) (dests : List Nat) (acts : List Act) : SyllOut :=
  { SyllOut.of .f 4 words with
    dests := dests, hold := hold || e.loadsOut || decide (16 ≤ e.x.fq.length) || !pipeRuns e.s (pipeOf e.q),
    faults := oneFault (fs ++ faultIf e.y.novec privVec), acts := acts }

/-- The v registers, as f registers, that a command of the catalogue reads or writes: it waits for a load of one (R281). -/
def vecRegs (unit op : Nat) (a : FArgs) : List (Fin 32) :=
  (if srcTy unit op a = 11 then [] else [a.va] ++ (if hasB unit op && !(extOf a).bs then [a.vb] else []))
    ++ (if isFma3 unit op then [⟨(extOf a).aux.toNat % 32, Nat.mod_lt _ (by decide)⟩] else [])
    ++ (if resTy unit op a = 11 || isKpopc unit op then [] else [a.vd])

/-- A load of one of some f registers has not reached it (R281). -/
def Env.fsBusy (e : Env) (rs : List (Fin 32)) : Bool := rs.any (fBusy e.x e.b)

/-- The register that a command of the catalogue writes, for R225. -/
def vecDest (unit op : Nat) (a : FArgs) : Nat :=
  if isKpopc unit op then a.vd.val else if resTy unit op a = 11 then 64 + a.vd.val % 8 else 32 + a.vd.val

/-- A register-form command of the catalogue. -/
def vec (unit op : Nat) (u : Syl) (a : FArgs) (s : State) : Host.Outcome State Fault Refusal :=
  .next (issue s u (fun e =>
    let x := extOf a
    let res := fReserved unit op a
    fOut e (fWords a) ((x.bs && e.busy [a.vb]) || (isKpopc unit op && e.busy [a.vd]) || e.fsBusy (vecRegs unit op a))
      (faultIf res rsvdField ++ faultIf (fNonzero unit op a) nonzeroMbz) [vecDest unit op a] (if res then [] else [vecResult e unit op a])))

/-! ## MTF, MFF, FSYNC (R234) -/

/-- The checks of MTF and MFF: TYPE is f64 or f32. -/
def moveTy (ty : BitVec 4) : List SFault := faultIf (decide (ty ≠ 0xA) && decide (ty ≠ 0x9)) rsvdField

/-- MTF (R234). -/
def execMtf (u : Syl) (vd va : Fin 32) (ty : BitVec 4) (s : State) : Host.Outcome State Fault Refusal :=
  .next (issue s u (fun e =>
    fOut e 1 (e.busy [va] || e.fsBusy [vd]) (moveTy ty) [32 + vd.val]
      [.fop (some (vd, placeScalar ((upperAfter e.s e.q e.b).v[vd.val]) (e.r va) (if ty = 0xA then 8 else 4))) none none 0 [] false 0]))

/-- MFF (R234). -/
def execMff (u : Syl) (vd va : Fin 32) (ty : BitVec 4) (s : State) : Host.Outcome State Fault Refusal :=
  .next (issue s u (fun e =>
    let v := (upperAfter e.s e.q e.b).v[va.val]
    fOut e 1 (e.busy [vd] || e.fsBusy [va]) (moveTy ty) [vd.val]
      [.fop none none (some (vd, BitVec.ofNat 64 (v.toNat % 2 ^ (if ty = 0xA then 64 else 32)))) 0 [] false 0]))

/-- FSYNC (R274): solo; it waits for every F-slot operation of the context. -/
def execFsync (u : Syl) (s : State) : Host.Outcome State Fault Refusal :=
  .next (issue s u (fun e =>
    { SyllOut.of .f 4 1 with
      solo := true, hold := e.fops || e.loadsOut, faults := faultIf e.y.novec privVec, acts := [.fsync] }))

/-! ## Gather and scatter (R98, R99, R234) -/

/-- The address of element i: offset and GA. -/
def gsOff (e : Env) (v : VEnv) (a : FArgs) (i : Nat) : Nat :=
  let t := a.ty.toNat
  let idx := if (extOf a).aux.getLsbD 4 then i else el (v.up.v[a.vb.val]).toNat (tyW t) i
  (e.r a.va).toNat + idx * tySize t

/-- The check of one element (R98, R327): level, R or W and G, limit, mapping. -/
def gsCheck (e : Env) (d : Desc256) (wr : Bool) (o z : Nat) : Option SegFail :=
  if !dV d then some (failRights 0x02 0)
  else if e.pl > dPlmax d || !(if wr then dW d else dR d) || !dG d then some (failRights 0x04 (dBase d + o))
  else segCheck e.s e.m d e.pl (if wr then .write else .read) o z 0

/-- A gather or scatter over its elements: the result so far, the writes, and the first fault with its element. -/
structure GsAcc where
  st : State
  out : Nat
  ws : List (Nat × List Byte)
  bad : Option (SFault × Nat)
  deriving DecidableEq, Repr

/-- One element of a gather. -/
def gatherEl (e : Env) (v : VEnv) (a : FArgs) (d : Desc256) (x : GsAcc) (i : Nat) : GsAcc :=
  let t := a.ty.toNat
  if x.bad.isSome then x
  else if v.km.getLsbD i then
    let o := gsOff e v a i
    match gsCheck e d false o (tySize t) with
    | some f => { x with bad := some (⟨6, 0, f.code, f.sub, f.faddr⟩, i) }
    | none =>
      let r := reqRead e.s e.m (dBase d + o) (tySize t)
      match r.error.orElse (fun _ => r.poison) with
      | some _ => { x with bad := some (fault 6 0x0D 0 (dBase d + o), i) }
      | none => { x with out := putEl x.out (tyW t) i (natOf r.bytes) }
  else if v.mz then { x with out := putEl x.out (tyW t) i 0 } else x

/-- One element of a scatter. Masked off, it writes nothing, MZ = 1 or not: R96 has ZERO write a zero, and R90 gives it no address.
DESIGN CHOICE, log entry 136. -/
def scatterEl (e : Env) (v : VEnv) (a : FArgs) (d : Desc256) (x : GsAcc) (i : Nat) : GsAcc :=
  let t := a.ty.toNat
  if x.bad.isSome then x
  else if v.km.getLsbD i then
    let o := gsOff e v a i
    match gsCheck e d true o (tySize t) with
    | some f => { x with bad := some (⟨6, 0, f.code, f.sub, f.faddr⟩, i) }
    | none =>
      let bs := bytesOf (el x.out (tyW t) i) (tySize t)
      let w := reqWrite x.st e.m (dBase d + o) bs
      match w.2 with
      | some _ => { x with bad := some (fault 6 0x0D 0 (dBase d + o), i) }
      | none => { x with st := w.1, ws := x.ws ++ [(dBase d + o, bs)] }
  else x

/-- The encoding checks of VGATHER and VSCATTER (R234). -/
def gsEnc (a : FArgs) : List SFault :=
  let x := extOf a
  let t := a.ty.toNat
  let n := x.aux.toNat
  faultIf (decide (11 ≤ t) || decide (t = 8) || x.bs || x.sc) rsvdField
    ++ faultIf (decide (x.mbz ≠ 0) || decide (32 ≤ n) || (n.testBit 4 && decide (a.vb ≠ 0))) nonzeroMbz

/-- The GAs whose classes a gather or scatter charges (R135, R182): of each element below VL the one its index names, the segment's base
for one that lies beyond the limit, which the access check would refuse. Log entry 136. -/
def gsCharged (e : Env) (v : VEnv) (a : FArgs) (d : Desc256) : List Nat :=
  (List.range e.k.lo.vl.toNat).map (fun i =>
    let o := gsOff e v a i
    if o + tySize a.ty.toNat ≤ dLimit d + 1 then dBase d + o else dBase d)

/-- The f registers that a gather or scatter reads or writes: its indices and its data. -/
def gsRegs (a : FArgs) : List (Fin 32) := (if (extOf a).aux.getLsbD 4 then [] else [a.vb]) ++ [a.vd]

/-- VGATHER and VSCATTER: they complete before the next bundle issues, and wait in DE for earlier F-slot operations. One that faults is
charged nothing; its completion after RETX is. The refusal of an SE segment, which forms no element address, gives the base plus VA as
FADDR (R98). DESIGN CHOICE, log entry 136. -/
def gs (wr : Bool) (u : Syl) (a : FArgs) (s : State) : Host.Outcome State Fault Refusal :=
  .next (issue s u (fun e =>
    let x := extOf a
    let t := a.ty.toNat
    let n := x.aux.toNat
    let segn : Fin 16 := ⟨n % 16, Nat.mod_lt _ (by decide)⟩
    let d := segReg e.k.lo segn
    let enc := gsEnc a
    let se := faultIf (dV d && dSE d) (fault 6 0x04 0x04 (dBase d + (e.r a.va).toNat))
    let v := vEnv e a (8192 / tyW t)
    let x0 : GsAcc := { st := e.s, out := (v.up.v[a.vd.val]).toNat, ws := [], bad := none }
    let r := if enc.isEmpty && se.isEmpty && !e.y.novec then
        (vIdx v).foldl (if wr then scatterEl e v a d else gatherEl e v a d) x0 else x0
    let part := (if wr then [Act.scatter r.ws] else [Act.gather a.vd (BitVec.ofNat 8192 r.out)])
      ++ [Act.vstart (match r.bad with | some f => f.2 | none => 0)]
    let cost := [Act.pcy (cdiv e.k.lo.vl.toNat 8), Act.bytes (gsCharged e v a d)]
      ++ (if wr then [] else [Act.reads ((vIdx v).map (fun i => (dBase d + gsOff e v a i, tySize t)))])
    { fOut e (fWords a) (e.busy [a.va] || e.fops || e.storesOut || segBusy e.x e.b segn || e.fsBusy (gsRegs a))
        (enc ++ faultIf e.y.novec privVec ++ se ++ (match r.bad with | some f => [f.1] | none => []))
        (if wr then [] else [32 + a.vd.val])
        (if enc.isEmpty && se.isEmpty && !e.y.novec then part ++ cost else []) with
      drain := e.storesOut }))

/-- VGATHER (R98). -/
def execVgather (u : Syl) (a : FArgs) (s : State) := gs false u a s
/-- VSCATTER (R98). -/
def execVscatter (u : Syl) (a : FArgs) (s : State) := gs true u a s

/-- The vector fix-up entries of a completed operation join the list (R212). -/
def addFix (k : Bank) (es : List (BitVec 128)) : Bank :=
  es.foldl (fun y f =>
    let n := bits y.lo.fcsr.toNat 16 7
    if h : n < 64 then
      { y with up := { y.up with fix := y.up.fix.set n f }, lo := { y.lo with fcsr := y.lo.fcsr + 0x10000#32 } }
    else { y with lo := { y.lo with fcsr := y.lo.fcsr ||| 0x800000#32 } }) k

/-- A bank after an F-slot operation completes. -/
def fopDone (o : FOp) (k : Bank) : Bank :=
  let k1 := { k with up := fopUpper k.up o }
  let k2 := match o.rd with | some (r, v) => { k1 with lo := wrIntIn k1.lo o.win r v } | none => k1
  let k3 := { k2 with lo := { k2.lo with fcsr := k2.lo.fcsr ||| o.flags.zeroExtend 32,
                                         vstart := if o.clears then 0 else k2.lo.vstart } }
  addFix k3 o.fix

/-- F_SLOT_OP_COMPLETE: while the bound pipe runs, the oldest F-slot operation writes its results, ORs its flags into FCSR, and clears VSTART
(R95, R97, R204, R212). -/
def execFSlotOpComplete (q : Fin 16) (s : State) : Host.Outcome State Fault Refusal :=
  match (s.seqs[q.val]).fq with
  | [] => .next s
  | o :: rest =>
    if !pipeWorks s (pipeOf q) then .next s
    else .next (settleLoads (lateBank (modSeq s q (fun x => { x with fq := rest })) q o.bank o.stamp (fopDone o)) q)

/-! ## The register-form directory operations (R149, R150, R164, R233) -/

/-- The f registers that a directory instruction reads or writes: keys, operands and results of vector type. -/
def dirRegs (op : Nat) (a : FArgs) : List (Fin 32) :=
  let x := extOf a
  [a.va] ++ (if x.bs || !dirHasB op (immVar x.aux.toNat) then [] else [a.vb]) ++ (if dirResB1 op x.aux then [] else [a.vd])

/-- A directory instruction: it waits for earlier F-slot operations; its elements run when the bundle issues. -/
def vdir (op : Nat) (u : Syl) (a : FArgs) (s : State) : Host.Outcome State Fault Refusal :=
  .next (issue s u (fun e =>
    let x := extOf a
    fOut e (fWords a) (e.fops || (x.bs && e.busy [a.vb]) || e.fsBusy (dirRegs op a)) (dirEnc e.s e.c op a)
      [if dirResB1 op x.aux then 64 + a.vd.val % 8 else 32 + a.vd.val] [.dir op x.aux a 0]))

/-! ## The commands: unit and OP of the catalogue -/

/-- VMOV (R112). -/
def execVmov (u : Syl) (a : FArgs) (s : State) := vec 0 0x00 u a s
/-- VADD (R112). -/
def execVadd (u : Syl) (a : FArgs) (s : State) := vec 0 0x01 u a s
/-- VSUB (R112). -/
def execVsub (u : Syl) (a : FArgs) (s : State) := vec 0 0x02 u a s
/-- VADDSAT (R112). -/
def execVaddsat (u : Syl) (a : FArgs) (s : State) := vec 0 0x03 u a s
/-- VSUBSAT (R112). -/
def execVsubsat (u : Syl) (a : FArgs) (s : State) := vec 0 0x04 u a s
/-- VMIN (R112). -/
def execVmin (u : Syl) (a : FArgs) (s : State) := vec 0 0x05 u a s
/-- VMAX (R112). -/
def execVmax (u : Syl) (a : FArgs) (s : State) := vec 0 0x06 u a s
/-- VABS (R112). -/
def execVabs (u : Syl) (a : FArgs) (s : State) := vec 0 0x07 u a s
/-- VNEG (R112). -/
def execVneg (u : Syl) (a : FArgs) (s : State) := vec 0 0x08 u a s
/-- VAND (R112). -/
def execVand (u : Syl) (a : FArgs) (s : State) := vec 0 0x09 u a s
/-- VOR (R112). -/
def execVor (u : Syl) (a : FArgs) (s : State) := vec 0 0x0A u a s
/-- VXOR (R112). -/
def execVxor (u : Syl) (a : FArgs) (s : State) := vec 0 0x0B u a s
/-- VANDN (R112). -/
def execVandn (u : Syl) (a : FArgs) (s : State) := vec 0 0x0C u a s
/-- VNOT (R112). -/
def execVnot (u : Syl) (a : FArgs) (s : State) := vec 0 0x0D u a s
/-- VSHL (R112). -/
def execVshl (u : Syl) (a : FArgs) (s : State) := vec 0 0x10 u a s
/-- VSHR (R112). -/
def execVshr (u : Syl) (a : FArgs) (s : State) := vec 0 0x11 u a s
/-- VSRA (R112). -/
def execVsra (u : Syl) (a : FArgs) (s : State) := vec 0 0x12 u a s
/-- VSHLI (R112). -/
def execVshli (u : Syl) (a : FArgs) (s : State) := vec 0 0x13 u a s
/-- VSHRI (R112). -/
def execVshri (u : Syl) (a : FArgs) (s : State) := vec 0 0x14 u a s
/-- VSRAI (R112). -/
def execVsrai (u : Syl) (a : FArgs) (s : State) := vec 0 0x15 u a s
/-- VBFX (R112). -/
def execVbfx (u : Syl) (a : FArgs) (s : State) := vec 0 0x18 u a s
/-- VBFXS (R112). -/
def execVbfxs (u : Syl) (a : FArgs) (s : State) := vec 0 0x19 u a s
/-- VBFI (R112). -/
def execVbfi (u : Syl) (a : FArgs) (s : State) := vec 0 0x1A u a s
/-- VCLZ (R112). -/
def execVclz (u : Syl) (a : FArgs) (s : State) := vec 0 0x1C u a s
/-- VCTZ (R112). -/
def execVctz (u : Syl) (a : FArgs) (s : State) := vec 0 0x1D u a s
/-- VPOPC (R112). -/
def execVpopc (u : Syl) (a : FArgs) (s : State) := vec 0 0x1E u a s
/-- VCMPEQ (R112). -/
def execVcmpeq (u : Syl) (a : FArgs) (s : State) := vec 0 0x20 u a s
/-- VCMPNE (R112). -/
def execVcmpne (u : Syl) (a : FArgs) (s : State) := vec 0 0x21 u a s
/-- VCMPLT (R112). -/
def execVcmplt (u : Syl) (a : FArgs) (s : State) := vec 0 0x22 u a s
/-- VCMPLE (R112). -/
def execVcmple (u : Syl) (a : FArgs) (s : State) := vec 0 0x23 u a s
/-- VCMPGT (R112). -/
def execVcmpgt (u : Syl) (a : FArgs) (s : State) := vec 0 0x24 u a s
/-- VCMPGE (R112). -/
def execVcmpge (u : Syl) (a : FArgs) (s : State) := vec 0 0x25 u a s
/-- VCVT (R112). -/
def execVcvt (u : Syl) (a : FArgs) (s : State) := vec 0 0x28 u a s
/-- VCVTSAT (R112). -/
def execVcvtsat (u : Syl) (a : FArgs) (s : State) := vec 0 0x29 u a s
/-- VRSUM (R116). -/
def execVrsum (u : Syl) (a : FArgs) (s : State) := vec 0 0x30 u a s
/-- VRMIN (R116). -/
def execVrmin (u : Syl) (a : FArgs) (s : State) := vec 0 0x31 u a s
/-- VRMAX (R116). -/
def execVrmax (u : Syl) (a : FArgs) (s : State) := vec 0 0x32 u a s
/-- VRCNT (R116). -/
def execVrcnt (u : Syl) (a : FArgs) (s : State) := vec 0 0x33 u a s
/-- VRAND (R116). -/
def execVrand (u : Syl) (a : FArgs) (s : State) := vec 0 0x34 u a s
/-- VROR (R116). -/
def execVror (u : Syl) (a : FArgs) (s : State) := vec 0 0x35 u a s
/-- VRXOR (R116). -/
def execVrxor (u : Syl) (a : FArgs) (s : State) := vec 0 0x36 u a s
/-- VSSUM (R118). -/
def execVssum (u : Syl) (a : FArgs) (s : State) := vec 0 0x38 u a s
/-- VSMIN (R118). -/
def execVsmin (u : Syl) (a : FArgs) (s : State) := vec 0 0x39 u a s
/-- VSMAX (R118). -/
def execVsmax (u : Syl) (a : FArgs) (s : State) := vec 0 0x3A u a s
/-- VSCNT (R118). -/
def execVscnt (u : Syl) (a : FArgs) (s : State) := vec 0 0x3B u a s
/-- VSAND (R118). -/
def execVsand (u : Syl) (a : FArgs) (s : State) := vec 0 0x3C u a s
/-- VSOR (R118). -/
def execVsor (u : Syl) (a : FArgs) (s : State) := vec 0 0x3D u a s
/-- VSXOR (R118). -/
def execVsxor (u : Syl) (a : FArgs) (s : State) := vec 0 0x3E u a s
/-- VPSUM (R119). -/
def execVpsum (u : Syl) (a : FArgs) (s : State) := vec 0 0x40 u a s
/-- VPSUMX (R119). -/
def execVpsumx (u : Syl) (a : FArgs) (s : State) := vec 0 0x41 u a s
/-- VMUL (R120). -/
def execVmul (u : Syl) (a : FArgs) (s : State) := vec 2 0x00 u a s
/-- VMULH (R120). -/
def execVmulh (u : Syl) (a : FArgs) (s : State) := vec 2 0x01 u a s
/-- VMULSAT (R120). -/
def execVmulsat (u : Syl) (a : FArgs) (s : State) := vec 2 0x02 u a s
/-- VDIV (R120). -/
def execVdiv (u : Syl) (a : FArgs) (s : State) := vec 2 0x03 u a s
/-- VREM (R120). -/
def execVrem (u : Syl) (a : FArgs) (s : State) := vec 2 0x04 u a s
/-- VFDIV (R120). -/
def execVfdiv (u : Syl) (a : FArgs) (s : State) := vec 2 0x08 u a s
/-- VFSQRT (R120). -/
def execVfsqrt (u : Syl) (a : FArgs) (s : State) := vec 2 0x09 u a s
/-- VFADD (R122). -/
def execVfadd (u : Syl) (a : FArgs) (s : State) := vec 3 0x00 u a s
/-- VFSUB (R122). -/
def execVfsub (u : Syl) (a : FArgs) (s : State) := vec 3 0x01 u a s
/-- VFMUL (R122). -/
def execVfmul (u : Syl) (a : FArgs) (s : State) := vec 3 0x02 u a s
/-- VFMA (R122). -/
def execVfma (u : Syl) (a : FArgs) (s : State) := vec 3 0x03 u a s
/-- VFMS (R122). -/
def execVfms (u : Syl) (a : FArgs) (s : State) := vec 3 0x04 u a s
/-- VFNMA (R122). -/
def execVfnma (u : Syl) (a : FArgs) (s : State) := vec 3 0x05 u a s
/-- VFMIN (R122). -/
def execVfmin (u : Syl) (a : FArgs) (s : State) := vec 3 0x08 u a s
/-- VFMAX (R122). -/
def execVfmax (u : Syl) (a : FArgs) (s : State) := vec 3 0x09 u a s
/-- VFABS (R122). -/
def execVfabs (u : Syl) (a : FArgs) (s : State) := vec 3 0x0A u a s
/-- VFNEG (R122). -/
def execVfneg (u : Syl) (a : FArgs) (s : State) := vec 3 0x0B u a s
/-- VFCMPEQ (R122). -/
def execVfcmpeq (u : Syl) (a : FArgs) (s : State) := vec 3 0x10 u a s
/-- VFCMPNE (R122). -/
def execVfcmpne (u : Syl) (a : FArgs) (s : State) := vec 3 0x11 u a s
/-- VFCMPLT (R122). -/
def execVfcmplt (u : Syl) (a : FArgs) (s : State) := vec 3 0x12 u a s
/-- VFCMPLE (R122). -/
def execVfcmple (u : Syl) (a : FArgs) (s : State) := vec 3 0x13 u a s
/-- VFCMPGT (R122). -/
def execVfcmpgt (u : Syl) (a : FArgs) (s : State) := vec 3 0x14 u a s
/-- VFCMPGE (R122). -/
def execVfcmpge (u : Syl) (a : FArgs) (s : State) := vec 3 0x15 u a s
/-- VFCVT (R122). -/
def execVfcvt (u : Syl) (a : FArgs) (s : State) := vec 3 0x18 u a s
/-- VFCVTZ (R122). -/
def execVfcvtz (u : Syl) (a : FArgs) (s : State) := vec 3 0x19 u a s
/-- VFRSUM (R122). -/
def execVfrsum (u : Syl) (a : FArgs) (s : State) := vec 3 0x20 u a s
/-- VFRMIN (R122). -/
def execVfrmin (u : Syl) (a : FArgs) (s : State) := vec 3 0x21 u a s
/-- VFRMAX (R122). -/
def execVfrmax (u : Syl) (a : FArgs) (s : State) := vec 3 0x22 u a s
/-- VPERMB (R124). -/
def execVpermb (u : Syl) (a : FArgs) (s : State) := vec 4 0x00 u a s
/-- VEXPD (R124). -/
def execVexpd (u : Syl) (a : FArgs) (s : State) := vec 4 0x01 u a s
/-- VCMPR (R124). -/
def execVcmpr (u : Syl) (a : FArgs) (s : State) := vec 4 0x10 u a s
/-- VPERM (R124). -/
def execVperm (u : Syl) (a : FArgs) (s : State) := vec 4 0x11 u a s
/-- VKPOPC (R124). -/
def execVkpopc (u : Syl) (a : FArgs) (s : State) := vec 4 0x12 u a s
/-- VHASH (R130). -/
def execVhash (u : Syl) (a : FArgs) (s : State) := vec 5 0x00 u a s
/-- DPROBE in the register form (R150). -/
def execDprobe (u : Syl) (a : FArgs) (s : State) := vdir 0x10 u a s
/-- DINS in the register form (R150). -/
def execDins (u : Syl) (a : FArgs) (s : State) := vdir 0x11 u a s
/-- DAGG in the register form (R150). -/
def execDagg (u : Syl) (a : FArgs) (s : State) := vdir 0x12 u a s
/-- DDEL in the register form (R150). -/
def execDdel (u : Syl) (a : FArgs) (s : State) := vdir 0x13 u a s

end Sys2Proof.Machine
end

