-- ==== Sys2Proof/Machine/Encoding.lean ====
section
/-! DEFINITION. The encoding of a bundle: the checks of R222, R225 to R238 over its 32-bit syllables, and
ILLEGAL_INSTRUCTION, which raises the first that fails. -/

namespace Sys2Proof.Machine

/-! ## Fields (R221, R226 to R235) -/

/-- SLOT and STOP of a syllable. -/
def wSlot (w : Reg32) : Nat := bits w.toNat 28 3
def wStop (w : Reg32) : Bool := w.getLsbD 31
/-- A field of a syllable. -/
def wf (w : Reg32) (lo n : Nat) : Nat := bits w.toNat lo n
/-- OP of the I, M, B and S slots. -/
def wOp (w : Reg32) : Nat := wf w 22 6
/-- A field that names an integer register. -/
def wReg (w : Reg32) (lo : Nat) : Fin 32 := ⟨wf w lo 5 % 32, Nat.mod_lt _ (by decide)⟩

/-- The formats of the I slot (R228, R229). -/
inductive IFmt where
  | ir | ir1 | ir0 | ii | sh | li | ib | mfc | mtc
  deriving DecidableEq, Repr

/-- The format of an I-slot OP; none where it is reserved. -/
def iFmt (op : Nat) : Option IFmt :=
  if op ≤ 0x0F ∨ op = 0x13 then some .ir
  else if op ≤ 0x12 then some .ir1
  else if op ≤ 0x1B then some .ir0
  else if 0x20 ≤ op ∧ op ≤ 0x23 then some .ii
  else if 0x24 ≤ op ∧ op ≤ 0x26 then some .sh
  else if 0x27 ≤ op ∧ op ≤ 0x29 then some .ii
  else if op = 0x2A ∨ op = 0x2B then some .li
  else if 0x2C ≤ op ∧ op ≤ 0x2E then some .ib
  else if op = 0x30 then some .mfc
  else if op = 0x31 then some .mtc
  else none

/-- An M-slot OP that is defined (R230). -/
def mKnown (op : Nat) : Bool :=
  decide (op ≤ 0x11 ∧ op ≠ 7) || (decide (0x18 ≤ op) && decide (op ≤ 0x1B)) || (decide (0x20 ≤ op) && decide (op ≤ 0x23))

/-- A B-slot OP that is defined, and one of format BC that accepts an X (R231). -/
def bKnown (op : Nat) : Bool := decide (op ≤ 6) || [0x08, 0x10, 0x11, 0x12, 0x18, 0x19, 0x1A, 0x1B, 0x1C].contains op
def bDisp (op : Nat) : Bool := decide (op ≤ 6) || decide (op = 8)

/-- The catalogue operations that have a register form: the OPs of each unit (R112 to R132, R232). -/
def catForms (unit : Nat) : List Nat :=
  match unit with
  | 0 => List.range 0x0E ++ [0x10, 0x11, 0x12, 0x13, 0x14, 0x15, 0x18, 0x19, 0x1A, 0x1C, 0x1D, 0x1E, 0x20, 0x21, 0x22, 0x23, 0x24,
      0x25, 0x28, 0x29, 0x30, 0x31, 0x32, 0x33, 0x34, 0x35, 0x36, 0x38, 0x39, 0x3A, 0x3B, 0x3C, 0x3D, 0x3E, 0x40, 0x41]
  | 2 => [0, 1, 2, 3, 4, 8, 9]
  | 3 => [0, 1, 2, 3, 4, 5, 8, 9, 0x0A, 0x0B, 0x10, 0x11, 0x12, 0x13, 0x14, 0x15, 0x18, 0x19, 0x20, 0x21, 0x22]
  | 4 => [0, 1, 0x10, 0x11, 0x12]
  | _ => [0]

/-- What an F syllable is (R232, R234). -/
inductive FForm where
  | cat (unit op : Nat)
  | dir (op : Nat)
  | fsync | gather | scatter | mtf | mff
  deriving DecidableEq, Repr

/-- The form of an F syllable; none where GRP and OP6 are reserved. -/
def fForm (w : Reg32) : Option FForm :=
  let g := wf w 25 3
  let o := wf w 19 6
  if g ≤ 1 then (if (catForms 0).contains (64 * g + o) then some (.cat 0 (64 * g + o)) else none)
  else if g ≤ 4 then (if (catForms g).contains o then some (.cat g o) else none)
  else if g = 5 then (if o = 0 then some (.cat 5 0) else if 0x10 ≤ o ∧ o ≤ 0x13 then some (.dir o) else none)
  else if g = 6 then
    match o with
    | 0 => some .fsync | 1 => some .gather | 2 => some .scatter | 4 => some .mtf | 5 => some .mff | _ => none
  else none

/-- The operand fields of an F syllable and its X (R232, R233). -/
def fArgsOf (w : Reg32) (x : Option Reg32) : FArgs :=
  { vd := wReg w 14, va := wReg w 9, vb := wReg w 4, ty := BitVec.ofNat 4 (wf w 0 4),
    ext := x.map (fun y => { km := ⟨wf y 25 3 % 8, Nat.mod_lt _ (by decide)⟩, mz := y.getLsbD 24, bs := y.getLsbD 23,
                             sc := y.getLsbD 22, mbz := BitVec.ofNat 6 (wf y 16 6), aux := BitVec.ofNat 16 (wf y 0 16) }) }

/-! ## The structure of a bundle (R222, R225, R226, R238 step 2) -/

/-- The OP, or GRP and OP6, of a slot syllable is reserved. -/
def wReserved (w : Reg32) : Bool :=
  match wSlot w with
  | 0 | 1 => (iFmt (wOp w)).isNone
  | 2 => !mKnown (wOp w)
  | 3 => !bKnown (wOp w)
  | 4 => (fForm w).isNone
  | _ => decide (2 < wOp w)

/-- A slot syllable's instruction accepts an X (R226); one with a reserved opcode takes the X that follows it. -/
def wTakesX (w : Reg32) : Bool :=
  wReserved w ||
  match wSlot w with
  | 0 | 1 => (match iFmt (wOp w) with | some .ii | some .li => true | _ => false)
  | 2 => decide (wOp w ≤ 0x1B)
  | 3 => bDisp (wOp w) || decide (wOp w = 0x11)
  | 4 => (match fForm w with | some (.cat _ _) | some (.dir _) | some .gather | some .scatter => true | _ => false)
  | _ => false

/-- A solo instruction (R225). -/
def wSolo (w : Reg32) : Bool :=
  match wSlot w with
  | 2 => (decide (0x18 ≤ wOp w) && decide (wOp w ≤ 0x1B)) || decide (wOp w = 0x21) || decide (wOp w = 0x22) || decide (wOp w = 0x23)
  | 3 => decide (0x19 ≤ wOp w) && decide (wOp w ≤ 0x1C)
  | 4 => decide (fForm w = some .fsync)
  | _ => false

/-- CALL, which requires an X. -/
def wNeedsX (w : Reg32) : Bool := decide (wSlot w = 3) && decide (wOp w = 0x11)

/-- A slot syllable of a bundle: its index, its word, its X. -/
structure Piece where
  idx : Nat
  w : Reg32
  x : Option Reg32
  deriving DecidableEq, Repr

/-- What the scan of a bundle finds: its slot syllables and its length in syllables, the index of the first break of the
structure, or that the words end before a STOP. -/
inductive Scan where
  | whole (ps : List Piece) (n : Nat)
  | broken (idx : Nat)
  | open_
  deriving DecidableEq, Repr

/-- A slot syllable breaks the order, or meets a solo instruction. -/
def pieceBreaks (ps : List Piece) (w : Reg32) : Bool :=
  match ps.getLast? with
  | none => false
  | some p => decide (wSlot w ≤ wSlot p.w) || wSolo w || ps.any (fun y => wSolo y.w)

/-- Gives the last slot syllable its X. -/
def giveX (ps : List Piece) (x : Reg32) : List Piece :=
  match ps.reverse with
  | p :: r => ({ p with x := some x } :: r).reverse
  | [] => []

/-- An X syllable stands after a slot syllable that takes it. -/
def xFits (ps : List Piece) (idx : Nat) : Bool :=
  match ps.getLast? with
  | some p => decide (p.idx + 1 = idx) && wTakesX p.w
  | none => false

/-- Examines the syllables in address order (R238 step 2). -/
def scan : List Piece → Nat → List Reg32 → Scan
  | _, _, [] => .open_
  | ps, i, w :: ws =>
    if 11 ≤ i ∨ wSlot w = 7 then .broken i
    else if wSlot w = 6 then
      (if !xFits ps i then .broken i
      else if wStop w then .whole (giveX ps w) (i + 1) else scan (giveX ps w) (i + 1) ws)
    else if pieceBreaks ps w then .broken i
    else if wNeedsX w && (wStop w || (match ws with | y :: _ => decide (wSlot y ≠ 6) | [] => false)) then .broken i
    else if wStop w then .whole (ps ++ [⟨i, w, none⟩]) (i + 1)
    else scan (ps ++ [⟨i, w, none⟩]) (i + 1) ws

/-! ## The fields of each syllable (R227 to R236, R238 step 3) -/

/-- Sub-codes under conditions, in the order of R238. -/
def subIf (c : Bool) (n : Nat) : List Nat := if c then [n] else []

/-- The first sub-code of a list of faults. -/
def subOf (l : List SFault) : List Nat := l.map (fun f => f.sub.toNat)

/-- An I syllable. -/
def iBad (e : Env) (p : Piece) : List Nat :=
  let w := p.w
  let i1 := decide (wSlot w = 1)
  match iFmt (wOp w) with
  | none => [1]
  | some .ir => subIf (wf w 0 7 ≠ 0) 4
  | some .ir1 => subIf (wf w 0 12 ≠ 0) 4
  | some .ir0 => subIf i1 1 ++ subIf (wf w 0 7 ≠ 0) 4
  | some .ii => subIf (p.x.isSome && decide (wf w 4 8 ≠ 0)) 4
  | some .sh => subIf (64 ≤ wf w 0 12) 3
  | some .li => subIf (decide (wf w 12 5 ≠ 0) || (p.x.isSome && decide (wf w 4 8 ≠ 0))) 4
  | some .ib => subIf (64 < wf w 6 6 + wf w 0 6 + 1) 3
  | some .mfc => subIf i1 1 ++ subIf (20 ≤ wf w 12 5) 3 ++ subIf (wf w 0 12 ≠ 0) 4
  | some .mtc =>
    let bad := mtcBad (wf w 17 5) (e.r (wReg w 12)).toNat
    subIf i1 1 ++ subIf (decide (20 ≤ wf w 17 5) || decide (wf w 17 5 = 0) || decide (bad = some 3)) 3
      ++ subIf (decide (wf w 0 12 ≠ 0) || decide (bad = some 4)) 4

/-- An M syllable. -/
def mBad (e : Env) (p : Piece) : List Nat :=
  let w := p.w
  let op := wOp w
  let long := p.x.isSome && decide (wf w 4 4 ≠ 0)
  if !mKnown op then [1]
  else if op = 0x10 then subIf (wf w 17 4 = 0) 3 ++ subIf (w.getLsbD 21 || long) 4
  else if op = 0x11 then subIf (w.getLsbD 21 || long) 4
  else if op ≤ 0x0F then subIf long 4
  else if op ≤ 0x1B then subIf (e.pl == 2) 5 ++ subIf (decide (wf w 17 5 ≠ 0) || long) 4
  else if op = 0x20 then subIf (wf w 0 22 ≠ 0) 4
  else if op = 0x21 then subIf (wf w 0 8 ≠ 0) 4
  else subIf (e.pl == 2) 5 ++ subIf (wf w 0 22 ≠ 0) 4

/-- The displacement of a format BC syllable, in bytes. -/
def bcDisp (p : Piece) : Word :=
  match p.x with
  | some x => (BitVec.ofNat 32 (wf x 0 28 * 16 + wf p.w 0 4)).signExtend 64 * 4
  | none => (BitVec.ofNat 17 (wf p.w 0 17)).signExtend 64 * 4

/-- A B syllable of a bundle of n syllables. -/
def bBad (e : Env) (n : Nat) (p : Piece) : List Nat :=
  let w := p.w
  let op := wOp w
  let long := p.x.isSome && decide (wf w 4 13 ≠ 0)
  let crooked := fun (r : Fin 32) => decide ((e.r r).toNat % 4 ≠ 0)
  if !bKnown op then [1]
  else if op = 0 then subIf (decide (wf w 17 5 ≠ 0) || long) 4
  else if op ≤ 6 then subIf long 4
  else if op = 8 then subIf ((bcDisp p).toInt < 4 * (n : Int)) 3 ++ subIf long 4
  else if op = 0x10 then subIf (crooked (wReg w 17)) 3 ++ subIf (wf w 0 17 ≠ 0) 4
  else if op = 0x11 then subIf (w.getLsbD 21) 3 ++ subIf (wf w 0 6 ≠ 0) 4
  else if op = 0x12 then subIf (crooked (wReg w 1) || w.getLsbD 21) 3 ++ subIf (w.getLsbD 0) 4
  else if op = 0x19 then subIf (e.pl == 2) 5 ++ subIf (wf w 0 22 ≠ 0) 4
  else if op = 0x1B then subIf (wf w 16 6 ≠ 0) 4
  else subIf (wf w 0 22 ≠ 0) 4

/-- An F syllable. -/
def fBad (e : Env) (p : Piece) : List Nat :=
  let a := fArgsOf p.w p.x
  match fForm p.w with
  | none => [1]
  | some (.cat u o) => subIf (fReserved u o a) 3 ++ subIf (fNonzero u o a) 4
  | some (.dir o) => subOf (dirEnc e.s e.c o a)
  | some .fsync => subIf (wf p.w 0 19 ≠ 0) 4
  | some .gather | some .scatter => subOf (gsEnc a)
  | some .mtf | some .mff => subOf (moveTy a.ty) ++ subIf (a.vb ≠ 0) 4

/-- An S syllable. -/
def sBad (p : Piece) : List Nat :=
  if 2 < wOp p.w then [1] else subIf (decide (wf p.w 0 8 ≠ 0) || (decide (wOp p.w ≠ 0) && decide (wf p.w 8 4 ≠ 0))) 4

/-- The first sub-code of a slot syllable. -/
def pieceBad (e : Env) (n : Nat) (p : Piece) : Option Nat :=
  (match wSlot p.w with
    | 0 | 1 => iBad e p
    | 2 => mBad e p
    | 3 => bBad e n p
    | 4 => fBad e p
    | _ => sBad p).head?

/-! ## Two writers (R225, R238 step 4) -/

/-- The registers that a slot syllable writes, numbered as in SyllOut.dests. -/
def pieceDests (e : Env) (p : Piece) : List Nat :=
  let w := p.w
  let op := wOp w
  match wSlot w with
  | 0 | 1 => if iFmt op = some .mtc then [100 + wf w 17 5] else [wf w 17 5]
  | 2 =>
    if op ≤ 6 then [wf w 17 5]
    else if op = 0x0C ∨ op = 0x0D then [32 + wf w 17 5]
    else if op = 0x10 then [80 + wf w 17 4]
    else []
  | 3 =>
    if op = 8 then (let n := e.k.lo.stat.ld.toNat; if n < 4 then [108 + n, 112 + n, 116 + n] else [])
    else if op = 0x11 ∨ op = 0x12 ∨ op = 0x18 then [15]
    else []
  | 4 =>
    let a := fArgsOf w p.x
    match fForm w with
    | some (.cat u o) => [vecDest u o a]
    | some (.dir o) => [if dirResB1 o (extOf a).aux then 64 + a.vd.val % 8 else 32 + a.vd.val]
    | some .gather | some .mtf => [32 + a.vd.val]
    | some .mff => [a.vd.val]
    | _ => []
  | _ => [wf w 17 5]

/-- The index of the second writer of a register. -/
def secondWriter (e : Env) : List Nat → List Piece → Option Nat
  | _, [] => none
  | seen, p :: ps =>
    if (pieceDests e p).any (fun r => seen.contains r) then some p.idx else secondWriter e (seen ++ pieceDests e p) ps

/-! ## ILLEGAL_INSTRUCTION -/

/-- Words of a bundle up to its STOP, twelve at most (R222): a fetch fault at any of them comes first (R224, R238). -/
def wordsToStop (ws : List Reg32) : Nat := min 12 (((ws.takeWhile (fun w => !w.getLsbD 31)).length + 1).min ws.length)

/-- The encoding fault of a bundle: its phase, index and sub-code, and the syllables examined (R237, R238 steps 2 to 4). -/
def bundleFault (e : Env) (ws : List Reg32) : Option (SFault × Nat) :=
  match scan [] 0 ws with
  | .open_ => none
  | .broken i => some (⟨2, i, 0x01, 0x02, 0⟩, max (i + 1) (wordsToStop ws))
  | .whole ps n =>
    match ps.findSome? (fun p => (pieceBad e n p).map (fun c => (p.idx, c))) with
    | some (i, c) => some (⟨3, i, 0x01, BitVec.ofNat 8 c, 0⟩, n)
    | none => (secondWriter e [] ps).map (fun i => (⟨4, i, 0x01, 0x03, 0⟩, n))

/-- A register whose value the checks read is not ready (R281). -/
def checkBusy (e : Env) (ws : List Reg32) : Bool :=
  ws.any (fun w => (decide (wSlot w ≤ 1) && decide (wOp w = 0x31) && e.busy [wReg w 12])
    || (decide (wSlot w = 3) && decide (wOp w = 0x10) && e.busy [wReg w 17])
    || (decide (wSlot w = 3) && decide (wOp w = 0x12) && e.busy [wReg w 1]))

/-- An illegal bundle reaches issue: pending items and fetch faults come first (R238). -/
def commitIllegal (s0 : State) (q : Fin 16) (b : Fin 8) (c : Nat) (e : Env) (ws : List Reg32) (f : SFault × Nat) : State :=
  let s := modSeq s0 q (fun x => { x with open_ := [] })
  let stop := fun (t : State) => holdBundle t q b c .operand
  match pendingItem s q b c with
  | some s1 => if entryStops s q b c [] then stop s else s1
  | none =>
    if checkBusy e ws || segBusy e.x b 1 || loadsHold e.x || bundleWaits s q b c [{ SyllOut.of .b 0 f.2 with dests := [] }] then stop s
    else
      let g := fetchBundle s q b (4 * f.2)
      if entryStops g.1 q b c [0x01, 0x04] then stop g.1 else raiseFault g.1 q b c [] (g.2.getD f.1)

/-- ILLEGAL_INSTRUCTION (R237, R238): the words of a bundle of the running context, from its first syllable. A bundle that
breaks no rule of its encoding is no case of this command. -/
def execIllegalInstruction (q : Fin 16) (words : List Reg32) (s : State) : Host.Outcome State Fault Refusal :=
  match running s q with
  | none => .next s
  | some (b, c) =>
    if !seqRuns s q || (getCtx s c).dying then .next s
    else
      let x := s.seqs[q.val]
      let e : Env := { s := s, q := q, b := b, c := c, x := x, k := x.banks[b.val], y := getCtx s c }
      match bundleFault e words with
      | none => .next s
      | some f => .next (commitIllegal s q b c e words f)

end Sys2Proof.Machine
end

