-- ==== Sys2Proof/Machine/Syllables.lean ====
section
/-! DEFINITION. The syllables of a bundle as commands: which command an OP value, or GRP and OP6, picks, and its fields (R226 to
R235). The table of commands gives no bits, so these commands come to the block decoded; this file says from which words. -/

namespace Sys2Proof.Machine

/-- A field that names a segment register. -/
def segField (w : Reg32) (lo : Nat) : Fin 16 := ⟨wf w lo 4 % 16, Nat.mod_lt _ (by decide)⟩

/-- The immediate of format II, with its X (R226). -/
def immOf (p : Piece) : Imm :=
  match p.x with
  | some y => .long (BitVec.ofNat 32 (wf y 0 28 * 16 + wf p.w 0 4))
  | none => .short (BitVec.ofNat 12 (wf p.w 0 12))

/-- The memory operand of format MA, with its X (R226, R230). -/
def memOf (p : Piece) : MemOp :=
  { seg := segField p.w 13, rb := wReg p.w 8,
    disp := match p.x with
      | some y => .long (BitVec.ofNat 32 (wf y 0 28 * 16 + wf p.w 0 4))
      | none => .short (BitVec.ofNat 8 (wf p.w 0 8)) }

/-- The displacement of format BC, with its X (R226, R231). -/
def dispOf (p : Piece) : BDisp :=
  match p.x with
  | some y => .long (BitVec.ofNat 32 (wf y 0 28 * 16 + wf p.w 0 4))
  | none => .short (BitVec.ofNat 17 (wf p.w 0 17))

/-- The place of a slot syllable: it ends its bundle where it, or its X, has STOP = 1. -/
def sylOf (q : Fin 16) (p : Piece) : Syl := ⟨q, wStop (p.x.getD p.w)⟩

/-- The command of an I syllable (R228, R229). -/
def iInstr (q : Fin 16) (p : Piece) : Option Instr :=
  let v : ISyl := ⟨q, wStop (p.x.getD p.w), decide (wSlot p.w = 1)⟩
  let r := wReg p.w
  match wOp p.w with
  | 0x00 => some (.add v (r 17) (r 12) (r 7))
  | 0x01 => some (.sub v (r 17) (r 12) (r 7))
  | 0x02 => some (.and v (r 17) (r 12) (r 7))
  | 0x03 => some (.or v (r 17) (r 12) (r 7))
  | 0x04 => some (.xor v (r 17) (r 12) (r 7))
  | 0x05 => some (.andn v (r 17) (r 12) (r 7))
  | 0x06 => some (.shl v (r 17) (r 12) (r 7))
  | 0x07 => some (.shr v (r 17) (r 12) (r 7))
  | 0x08 => some (.sra v (r 17) (r 12) (r 7))
  | 0x09 => some (.min v (r 17) (r 12) (r 7))
  | 0x0A => some (.max v (r 17) (r 12) (r 7))
  | 0x0B => some (.minu v (r 17) (r 12) (r 7))
  | 0x0C => some (.maxu v (r 17) (r 12) (r 7))
  | 0x0D => some (.cmpeq v (r 17) (r 12) (r 7))
  | 0x0E => some (.cmplt v (r 17) (r 12) (r 7))
  | 0x0F => some (.cmpltu v (r 17) (r 12) (r 7))
  | 0x10 => some (.clz v (r 17) (r 12))
  | 0x11 => some (.ctz v (r 17) (r 12))
  | 0x12 => some (.popc v (r 17) (r 12))
  | 0x13 => some (.permb v (r 17) (r 12) (r 7))
  | 0x14 => some (.mul v (r 17) (r 12) (r 7))
  | 0x15 => some (.mulh v (r 17) (r 12) (r 7))
  | 0x16 => some (.mulhu v (r 17) (r 12) (r 7))
  | 0x17 => some (.div v (r 17) (r 12) (r 7))
  | 0x18 => some (.divu v (r 17) (r 12) (r 7))
  | 0x19 => some (.rem v (r 17) (r 12) (r 7))
  | 0x1A => some (.remu v (r 17) (r 12) (r 7))
  | 0x1B => some (.mulu v (r 17) (r 12) (r 7))
  | 0x20 => some (.addi v (r 17) (r 12) (immOf p))
  | 0x21 => some (.andi v (r 17) (r 12) (immOf p))
  | 0x22 => some (.ori v (r 17) (r 12) (immOf p))
  | 0x23 => some (.xori v (r 17) (r 12) (immOf p))
  | 0x24 => some (.shli v (r 17) (r 12) (BitVec.ofNat 12 (wf p.w 0 12)))
  | 0x25 => some (.shri v (r 17) (r 12) (BitVec.ofNat 12 (wf p.w 0 12)))
  | 0x26 => some (.srai v (r 17) (r 12) (BitVec.ofNat 12 (wf p.w 0 12)))
  | 0x27 => some (.cmpeqi v (r 17) (r 12) (immOf p))
  | 0x28 => some (.cmplti v (r 17) (r 12) (immOf p))
  | 0x29 => some (.cmpltui v (r 17) (r 12) (immOf p))
  | 0x2A => some (.li v (r 17) (immOf p))
  | 0x2B => some (.lih v (r 17) (immOf p))
  | 0x2C => some (.bfx v (r 17) (r 12) (BitVec.ofNat 6 (wf p.w 6 6)) (BitVec.ofNat 6 (wf p.w 0 6)))
  | 0x2D => some (.bfxs v (r 17) (r 12) (BitVec.ofNat 6 (wf p.w 6 6)) (BitVec.ofNat 6 (wf p.w 0 6)))
  | 0x2E => some (.bfi v (r 17) (r 12) (BitVec.ofNat 6 (wf p.w 6 6)) (BitVec.ofNat 6 (wf p.w 0 6)))
  | 0x30 => some (.mfc v (r 17) (r 12))
  | 0x31 => some (.mtc v (r 17) (r 12))
  | _ => none

/-- The command of an M syllable (R230). -/
def mInstr (q : Fin 16) (p : Piece) : Option Instr :=
  let u := sylOf q p
  let r := wReg p.w
  match wOp p.w with
  | 0x00 => some (.ldb u (r 17) (memOf p))
  | 0x01 => some (.ldh u (r 17) (memOf p))
  | 0x02 => some (.ldw u (r 17) (memOf p))
  | 0x03 => some (.ldd u (r 17) (memOf p))
  | 0x04 => some (.ldbs u (r 17) (memOf p))
  | 0x05 => some (.ldhs u (r 17) (memOf p))
  | 0x06 => some (.ldws u (r 17) (memOf p))
  | 0x08 => some (.stb u (r 17) (memOf p))
  | 0x09 => some (.sth u (r 17) (memOf p))
  | 0x0A => some (.stw u (r 17) (memOf p))
  | 0x0B => some (.std u (r 17) (memOf p))
  | 0x0C => some (.ldf u (r 17) (memOf p))
  | 0x0D => some (.ldfs u (r 17) (memOf p))
  | 0x0E => some (.stf u (r 17) (memOf p))
  | 0x0F => some (.stfs u (r 17) (memOf p))
  | 0x10 => some (.sld u (segField p.w 17) (memOf p))
  | 0x11 => some (.sst u (segField p.w 17) (memOf p))
  | 0x18 => some (.savel u (memOf p))
  | 0x19 => some (.saveh u (memOf p))
  | 0x1A => some (.restl u (memOf p))
  | 0x1B => some (.resth u (memOf p))
  | 0x20 => some (.mfence u)
  | 0x21 => some (.isync u (r 17) (r 8) (segField p.w 13))
  | 0x22 => some (.spillw u)
  | 0x23 => some (.fillw u)
  | _ => none

/-- The command of a B syllable (R231). -/
def bInstr (q : Fin 16) (p : Piece) : Option Instr :=
  let u := sylOf q p
  let r := wReg p.w
  match wOp p.w with
  | 0x00 => some (.br u (dispOf p))
  | 0x01 => some (.beqz u (r 17) (dispOf p))
  | 0x02 => some (.bnez u (r 17) (dispOf p))
  | 0x03 => some (.bltz u (r 17) (dispOf p))
  | 0x04 => some (.bgez u (r 17) (dispOf p))
  | 0x05 => some (.bgtz u (r 17) (dispOf p))
  | 0x06 => some (.blez u (r 17) (dispOf p))
  | 0x08 => some (.loop u (r 17) (dispOf p))
  | 0x10 => some (.jr u (r 17))
  | 0x11 => p.x.map (fun y => .call u (BitVec.ofNat 16 (wf p.w 6 16)) (BitVec.ofNat 28 (wf y 0 28)))
  | 0x12 => some (.callr u (BitVec.ofNat 16 (wf p.w 6 16)) (r 1))
  | 0x18 => some (.ret u)
  | 0x19 => some (.retx u)
  | 0x1A => some (.jend u)
  | 0x1B => some (.trap u (BitVec.ofNat 16 (wf p.w 0 16)))
  | 0x1C => some (.brk u)
  | _ => none

/-- The command of a form of the F slot (R112 to R132, R232, R234). -/
def fInstr (u : Syl) (a : FArgs) : FForm → Option Instr
  | .cat 0 0x00 => some (.vmov u a)
  | .cat 0 0x01 => some (.vadd u a)
  | .cat 0 0x02 => some (.vsub u a)
  | .cat 0 0x03 => some (.vaddsat u a)
  | .cat 0 0x04 => some (.vsubsat u a)
  | .cat 0 0x05 => some (.vmin u a)
  | .cat 0 0x06 => some (.vmax u a)
  | .cat 0 0x07 => some (.vabs u a)
  | .cat 0 0x08 => some (.vneg u a)
  | .cat 0 0x09 => some (.vand u a)
  | .cat 0 0x0A => some (.vor u a)
  | .cat 0 0x0B => some (.vxor u a)
  | .cat 0 0x0C => some (.vandn u a)
  | .cat 0 0x0D => some (.vnot u a)
  | .cat 0 0x10 => some (.vshl u a)
  | .cat 0 0x11 => some (.vshr u a)
  | .cat 0 0x12 => some (.vsra u a)
  | .cat 0 0x13 => some (.vshli u a)
  | .cat 0 0x14 => some (.vshri u a)
  | .cat 0 0x15 => some (.vsrai u a)
  | .cat 0 0x18 => some (.vbfx u a)
  | .cat 0 0x19 => some (.vbfxs u a)
  | .cat 0 0x1A => some (.vbfi u a)
  | .cat 0 0x1C => some (.vclz u a)
  | .cat 0 0x1D => some (.vctz u a)
  | .cat 0 0x1E => some (.vpopc u a)
  | .cat 0 0x20 => some (.vcmpeq u a)
  | .cat 0 0x21 => some (.vcmpne u a)
  | .cat 0 0x22 => some (.vcmplt u a)
  | .cat 0 0x23 => some (.vcmple u a)
  | .cat 0 0x24 => some (.vcmpgt u a)
  | .cat 0 0x25 => some (.vcmpge u a)
  | .cat 0 0x28 => some (.vcvt u a)
  | .cat 0 0x29 => some (.vcvtsat u a)
  | .cat 0 0x30 => some (.vrsum u a)
  | .cat 0 0x31 => some (.vrmin u a)
  | .cat 0 0x32 => some (.vrmax u a)
  | .cat 0 0x33 => some (.vrcnt u a)
  | .cat 0 0x34 => some (.vrand u a)
  | .cat 0 0x35 => some (.vror u a)
  | .cat 0 0x36 => some (.vrxor u a)
  | .cat 0 0x38 => some (.vssum u a)
  | .cat 0 0x39 => some (.vsmin u a)
  | .cat 0 0x3A => some (.vsmax u a)
  | .cat 0 0x3B => some (.vscnt u a)
  | .cat 0 0x3C => some (.vsand u a)
  | .cat 0 0x3D => some (.vsor u a)
  | .cat 0 0x3E => some (.vsxor u a)
  | .cat 0 0x40 => some (.vpsum u a)
  | .cat 0 0x41 => some (.vpsumx u a)
  | .cat 2 0x00 => some (.vmul u a)
  | .cat 2 0x01 => some (.vmulh u a)
  | .cat 2 0x02 => some (.vmulsat u a)
  | .cat 2 0x03 => some (.vdiv u a)
  | .cat 2 0x04 => some (.vrem u a)
  | .cat 2 0x08 => some (.vfdiv u a)
  | .cat 2 0x09 => some (.vfsqrt u a)
  | .cat 3 0x00 => some (.vfadd u a)
  | .cat 3 0x01 => some (.vfsub u a)
  | .cat 3 0x02 => some (.vfmul u a)
  | .cat 3 0x03 => some (.vfma u a)
  | .cat 3 0x04 => some (.vfms u a)
  | .cat 3 0x05 => some (.vfnma u a)
  | .cat 3 0x08 => some (.vfmin u a)
  | .cat 3 0x09 => some (.vfmax u a)
  | .cat 3 0x0A => some (.vfabs u a)
  | .cat 3 0x0B => some (.vfneg u a)
  | .cat 3 0x10 => some (.vfcmpeq u a)
  | .cat 3 0x11 => some (.vfcmpne u a)
  | .cat 3 0x12 => some (.vfcmplt u a)
  | .cat 3 0x13 => some (.vfcmple u a)
  | .cat 3 0x14 => some (.vfcmpgt u a)
  | .cat 3 0x15 => some (.vfcmpge u a)
  | .cat 3 0x18 => some (.vfcvt u a)
  | .cat 3 0x19 => some (.vfcvtz u a)
  | .cat 3 0x20 => some (.vfrsum u a)
  | .cat 3 0x21 => some (.vfrmin u a)
  | .cat 3 0x22 => some (.vfrmax u a)
  | .cat 4 0x00 => some (.vpermb u a)
  | .cat 4 0x01 => some (.vexpd u a)
  | .cat 4 0x10 => some (.vcmpr u a)
  | .cat 4 0x11 => some (.vperm u a)
  | .cat 4 0x12 => some (.vkpopc u a)
  | .cat 5 0x00 => some (.vhash u a)
  | .dir 0x10 => some (.dprobe u a)
  | .dir 0x11 => some (.dins u a)
  | .dir 0x12 => some (.dagg u a)
  | .dir 0x13 => some (.ddel u a)
  | .fsync => some (.fsync u)
  | .gather => some (.vgather u a)
  | .scatter => some (.vscatter u a)
  | .mtf => some (.mtf u a.vd a.va a.ty)
  | .mff => some (.mff u a.vd a.va a.ty)
  | _ => none

/-- The command of an S syllable (R235). -/
def sInstr (q : Fin 16) (p : Piece) : Option Instr :=
  let u := sylOf q p
  match wOp p.w with
  | 0x00 => some (.strm u (wReg p.w 17) (wReg p.w 12) (segField p.w 8))
  | 0x01 => some (.stwait u (wReg p.w 17) (wReg p.w 12))
  | 0x02 => some (.sttest u (wReg p.w 17) (wReg p.w 12))
  | _ => none

/-- The command that a slot syllable spells; none where its opcode is reserved. -/
def instrOf (q : Fin 16) (p : Piece) : Option Instr :=
  match wSlot p.w with
  | 0 | 1 => iInstr q p
  | 2 => mInstr q p
  | 3 => bInstr q p
  | 4 => (fForm p.w).bind (fInstr (sylOf q p) (fArgsOf p.w p.x))
  | 5 => sInstr q p
  | _ => none

/-- The commands that the words of a bundle spell, in order; none where its structure breaks R222 or an opcode is reserved. -/
def bundleOf (q : Fin 16) (words : List Reg32) : Option (List Instr) :=
  match scan [] 0 words with
  | .whole ps _ => ps.mapM (instrOf q)
  | _ => none

end Sys2Proof.Machine
end

