-- ==== Sys2Proof/Machine/Dispatch.lean ====
section
/-! DEFINITION. The dispatch: one arm per command. -/

namespace Sys2Proof.Machine

/-- The effect of a command on everything but the queue. -/
def exec (i : Instr) (s : State) : Host.Outcome State Fault Refusal :=
  match i with
  | .jobSubmit => Sys2Proof.Machine.execJobSubmit s
  | .jobCancel => Sys2Proof.Machine.execJobCancel s
  | .memCopy => Sys2Proof.Machine.execMemCopy s
  | .memFill => Sys2Proof.Machine.execMemFill s
  | .programLoad => Sys2Proof.Machine.execProgramLoad s
  | .segCreate => Sys2Proof.Machine.execSegCreate s
  | .segDestroy => Sys2Proof.Machine.execSegDestroy s
  | .dirCreate => Sys2Proof.Machine.execDirCreate s
  | .dirCreateFillDone h => Sys2Proof.Machine.execDirCreateFillDone h s
  | .dirDestroy => Sys2Proof.Machine.execDirDestroy s
  | .keyInstall => Sys2Proof.Machine.execKeyInstall s
  | .doeKeyInstall session fn entry => Sys2Proof.Machine.execDoeKeyInstall session fn entry s
  | .queueCreate => Sys2Proof.Machine.execQueueCreate s
  | .queueDelete => Sys2Proof.Machine.execQueueDelete s
  | .statusRead => Sys2Proof.Machine.execStatusRead s
  | .logRead => Sys2Proof.Machine.execLogRead s
  | .sqTailDoorbell g value posted => Sys2Proof.Machine.execSqTailDoorbell g value posted s
  | .cqHeadDoorbell g value => Sys2Proof.Machine.execCqHeadDoorbell g value s
  | .rqeEntryFetch => Sys2Proof.Machine.execRqeEntryFetch s
  | .adminQueueEnable f => Sys2Proof.Machine.execAdminQueueEnable f s
  | .adminQueueDrain f => Sys2Proof.Machine.execAdminQueueDrain f s
  | .queueDrainComplete f => Sys2Proof.Machine.execQueueDrainComplete f s
  | .completionEntryWrite => Sys2Proof.Machine.execCompletionEntryWrite s
  | .msixVectorUnmask f v => Sys2Proof.Machine.execMsixVectorUnmask f v s
  | .bar4Access a => Sys2Proof.Machine.execBar4Access a s
  | .bar4Resize log2GiB => Sys2Proof.Machine.execBar4Resize log2GiB s
  | .undefinedBarRequest r => Sys2Proof.Machine.execUndefinedBarRequest r s
  | .hostWindowCompletionTimeout m ga => Sys2Proof.Machine.execHostWindowCompletionTimeout m ga s
  | .hostLinkLoss cause => Sys2Proof.Machine.execHostLinkLoss cause s
  | .perstAssert => Sys2Proof.Machine.execPerstAssert s
  | .perstDeassert => Sys2Proof.Machine.execPerstDeassert s
  | .hostLinkReady speed width flit => Sys2Proof.Machine.execHostLinkReady speed width flit s
  | .flr f => Sys2Proof.Machine.execFlr f s
  | .vfDisable => Sys2Proof.Machine.execVfDisable s
  | .ideIntegrityFail stream => Sys2Proof.Machine.execIdeIntegrityFail stream s
  | .getVersion => Sys2Proof.Machine.execGetVersion s
  | .getCapabilities => Sys2Proof.Machine.execGetCapabilities s
  | .negotiateAlgorithms supported => Sys2Proof.Machine.execNegotiateAlgorithms supported s
  | .getDigests => Sys2Proof.Machine.execGetDigests s
  | .getCertificate slot => Sys2Proof.Machine.execGetCertificate slot s
  | .challenge slot => Sys2Proof.Machine.execChallenge slot s
  | .getMeasurements => Sys2Proof.Machine.execGetMeasurements s
  | .keyExchange => Sys2Proof.Machine.execKeyExchange s
  | .finish session => Sys2Proof.Machine.execFinish session s
  | .keyUpdate session => Sys2Proof.Machine.execKeyUpdate session s
  | .heartbeat session => Sys2Proof.Machine.execHeartbeat session s
  | .endSession session => Sys2Proof.Machine.execEndSession session s
  | .lifecycleTransition r => Sys2Proof.Machine.execLifecycleTransition r s
  | .sidebandModuleReset cold => Sys2Proof.Machine.execSidebandModuleReset cold s
  | .add u rd ra rb => Sys2Proof.Machine.execAdd u rd ra rb s
  | .sub u rd ra rb => Sys2Proof.Machine.execSub u rd ra rb s
  | .and u rd ra rb => Sys2Proof.Machine.execAnd u rd ra rb s
  | .or u rd ra rb => Sys2Proof.Machine.execOr u rd ra rb s
  | .xor u rd ra rb => Sys2Proof.Machine.execXor u rd ra rb s
  | .andn u rd ra rb => Sys2Proof.Machine.execAndn u rd ra rb s
  | .shl u rd ra rb => Sys2Proof.Machine.execShl u rd ra rb s
  | .shr u rd ra rb => Sys2Proof.Machine.execShr u rd ra rb s
  | .sra u rd ra rb => Sys2Proof.Machine.execSra u rd ra rb s
  | .min u rd ra rb => Sys2Proof.Machine.execMin u rd ra rb s
  | .max u rd ra rb => Sys2Proof.Machine.execMax u rd ra rb s
  | .minu u rd ra rb => Sys2Proof.Machine.execMinu u rd ra rb s
  | .maxu u rd ra rb => Sys2Proof.Machine.execMaxu u rd ra rb s
  | .cmpeq u rd ra rb => Sys2Proof.Machine.execCmpeq u rd ra rb s
  | .cmplt u rd ra rb => Sys2Proof.Machine.execCmplt u rd ra rb s
  | .cmpltu u rd ra rb => Sys2Proof.Machine.execCmpltu u rd ra rb s
  | .clz u rd ra => Sys2Proof.Machine.execClz u rd ra s
  | .ctz u rd ra => Sys2Proof.Machine.execCtz u rd ra s
  | .popc u rd ra => Sys2Proof.Machine.execPopc u rd ra s
  | .permb u rd ra rb => Sys2Proof.Machine.execPermb u rd ra rb s
  | .mul u rd ra rb => Sys2Proof.Machine.execMul u rd ra rb s
  | .mulu u rd ra rb => Sys2Proof.Machine.execMulu u rd ra rb s
  | .mulh u rd ra rb => Sys2Proof.Machine.execMulh u rd ra rb s
  | .mulhu u rd ra rb => Sys2Proof.Machine.execMulhu u rd ra rb s
  | .div u rd ra rb => Sys2Proof.Machine.execDiv u rd ra rb s
  | .divu u rd ra rb => Sys2Proof.Machine.execDivu u rd ra rb s
  | .rem u rd ra rb => Sys2Proof.Machine.execRem u rd ra rb s
  | .remu u rd ra rb => Sys2Proof.Machine.execRemu u rd ra rb s
  | .muldivComplete q => Sys2Proof.Machine.execMuldivComplete q s
  | .addi u rd ra imm => Sys2Proof.Machine.execAddi u rd ra imm s
  | .andi u rd ra imm => Sys2Proof.Machine.execAndi u rd ra imm s
  | .ori u rd ra imm => Sys2Proof.Machine.execOri u rd ra imm s
  | .xori u rd ra imm => Sys2Proof.Machine.execXori u rd ra imm s
  | .shli u rd ra n => Sys2Proof.Machine.execShli u rd ra n s
  | .shri u rd ra n => Sys2Proof.Machine.execShri u rd ra n s
  | .srai u rd ra n => Sys2Proof.Machine.execSrai u rd ra n s
  | .cmpeqi u rd ra imm => Sys2Proof.Machine.execCmpeqi u rd ra imm s
  | .cmplti u rd ra imm => Sys2Proof.Machine.execCmplti u rd ra imm s
  | .cmpltui u rd ra imm => Sys2Proof.Machine.execCmpltui u rd ra imm s
  | .li u rd imm => Sys2Proof.Machine.execLi u rd imm s
  | .lih u rd imm => Sys2Proof.Machine.execLih u rd imm s
  | .bfx u rd ra lsb wm1 => Sys2Proof.Machine.execBfx u rd ra lsb wm1 s
  | .bfxs u rd ra lsb wm1 => Sys2Proof.Machine.execBfxs u rd ra lsb wm1 s
  | .bfi u rd ra lsb wm1 => Sys2Proof.Machine.execBfi u rd ra lsb wm1 s
  | .mfc u rd cr => Sys2Proof.Machine.execMfc u rd cr s
  | .mtc u cr ra => Sys2Proof.Machine.execMtc u cr ra s
  | .ldb u rd m => Sys2Proof.Machine.execLdb u rd m s
  | .ldh u rd m => Sys2Proof.Machine.execLdh u rd m s
  | .ldw u rd m => Sys2Proof.Machine.execLdw u rd m s
  | .ldd u rd m => Sys2Proof.Machine.execLdd u rd m s
  | .ldbs u rd m => Sys2Proof.Machine.execLdbs u rd m s
  | .ldhs u rd m => Sys2Proof.Machine.execLdhs u rd m s
  | .ldws u rd m => Sys2Proof.Machine.execLdws u rd m s
  | .stb u rd m => Sys2Proof.Machine.execStb u rd m s
  | .sth u rd m => Sys2Proof.Machine.execSth u rd m s
  | .stw u rd m => Sys2Proof.Machine.execStw u rd m s
  | .std u rd m => Sys2Proof.Machine.execStd u rd m s
  | .ldf u rd m => Sys2Proof.Machine.execLdf u rd m s
  | .ldfs u rd m => Sys2Proof.Machine.execLdfs u rd m s
  | .stf u rd m => Sys2Proof.Machine.execStf u rd m s
  | .stfs u rd m => Sys2Proof.Machine.execStfs u rd m s
  | .sld u sn m => Sys2Proof.Machine.execSld u sn m s
  | .sst u sn m => Sys2Proof.Machine.execSst u sn m s
  | .savel u m => Sys2Proof.Machine.execSavel u m s
  | .saveh u m => Sys2Proof.Machine.execSaveh u m s
  | .restl u m => Sys2Proof.Machine.execRestl u m s
  | .resth u m => Sys2Proof.Machine.execResth u m s
  | .mfence u => Sys2Proof.Machine.execMfence u s
  | .isync u rd rb seg => Sys2Proof.Machine.execIsync u rd rb seg s
  | .spillw u => Sys2Proof.Machine.execSpillw u s
  | .fillw u => Sys2Proof.Machine.execFillw u s
  | .br u d => Sys2Proof.Machine.execBr u d s
  | .beqz u ra d => Sys2Proof.Machine.execBeqz u ra d s
  | .bnez u ra d => Sys2Proof.Machine.execBnez u ra d s
  | .bltz u ra d => Sys2Proof.Machine.execBltz u ra d s
  | .bgez u ra d => Sys2Proof.Machine.execBgez u ra d s
  | .bgtz u ra d => Sys2Proof.Machine.execBgtz u ra d s
  | .blez u ra d => Sys2Proof.Machine.execBlez u ra d s
  | .jr u ra => Sys2Proof.Machine.execJr u ra s
  | .loop u ra d => Sys2Proof.Machine.execLoop u ra d s
  | .call u mask disp => Sys2Proof.Machine.execCall u mask disp s
  | .callr u mask ra => Sys2Proof.Machine.execCallr u mask ra s
  | .ret u => Sys2Proof.Machine.execRet u s
  | .retx u => Sys2Proof.Machine.execRetx u s
  | .jend u => Sys2Proof.Machine.execJend u s
  | .trap u code => Sys2Proof.Machine.execTrap u code s
  | .brk u => Sys2Proof.Machine.execBrk u s
  | .strm u rd ra seg => Sys2Proof.Machine.execStrm u rd ra seg s
  | .stwait u rd ra => Sys2Proof.Machine.execStwait u rd ra s
  | .sttest u rd ra => Sys2Proof.Machine.execSttest u rd ra s
  | .fsync u => Sys2Proof.Machine.execFsync u s
  | .vgather u a => Sys2Proof.Machine.execVgather u a s
  | .vscatter u a => Sys2Proof.Machine.execVscatter u a s
  | .mtf u vd va ty => Sys2Proof.Machine.execMtf u vd va ty s
  | .mff u vd va ty => Sys2Proof.Machine.execMff u vd va ty s
  | .vmov u a => Sys2Proof.Machine.execVmov u a s
  | .vadd u a => Sys2Proof.Machine.execVadd u a s
  | .vsub u a => Sys2Proof.Machine.execVsub u a s
  | .vaddsat u a => Sys2Proof.Machine.execVaddsat u a s
  | .vsubsat u a => Sys2Proof.Machine.execVsubsat u a s
  | .vmin u a => Sys2Proof.Machine.execVmin u a s
  | .vmax u a => Sys2Proof.Machine.execVmax u a s
  | .vabs u a => Sys2Proof.Machine.execVabs u a s
  | .vneg u a => Sys2Proof.Machine.execVneg u a s
  | .vand u a => Sys2Proof.Machine.execVand u a s
  | .vor u a => Sys2Proof.Machine.execVor u a s
  | .vxor u a => Sys2Proof.Machine.execVxor u a s
  | .vandn u a => Sys2Proof.Machine.execVandn u a s
  | .vnot u a => Sys2Proof.Machine.execVnot u a s
  | .vshl u a => Sys2Proof.Machine.execVshl u a s
  | .vshr u a => Sys2Proof.Machine.execVshr u a s
  | .vsra u a => Sys2Proof.Machine.execVsra u a s
  | .vshli u a => Sys2Proof.Machine.execVshli u a s
  | .vshri u a => Sys2Proof.Machine.execVshri u a s
  | .vsrai u a => Sys2Proof.Machine.execVsrai u a s
  | .vbfx u a => Sys2Proof.Machine.execVbfx u a s
  | .vbfxs u a => Sys2Proof.Machine.execVbfxs u a s
  | .vbfi u a => Sys2Proof.Machine.execVbfi u a s
  | .vclz u a => Sys2Proof.Machine.execVclz u a s
  | .vctz u a => Sys2Proof.Machine.execVctz u a s
  | .vpopc u a => Sys2Proof.Machine.execVpopc u a s
  | .vcmpeq u a => Sys2Proof.Machine.execVcmpeq u a s
  | .vcmpne u a => Sys2Proof.Machine.execVcmpne u a s
  | .vcmplt u a => Sys2Proof.Machine.execVcmplt u a s
  | .vcmple u a => Sys2Proof.Machine.execVcmple u a s
  | .vcmpgt u a => Sys2Proof.Machine.execVcmpgt u a s
  | .vcmpge u a => Sys2Proof.Machine.execVcmpge u a s
  | .vcvt u a => Sys2Proof.Machine.execVcvt u a s
  | .vcvtsat u a => Sys2Proof.Machine.execVcvtsat u a s
  | .vrsum u a => Sys2Proof.Machine.execVrsum u a s
  | .vrmin u a => Sys2Proof.Machine.execVrmin u a s
  | .vrmax u a => Sys2Proof.Machine.execVrmax u a s
  | .vrcnt u a => Sys2Proof.Machine.execVrcnt u a s
  | .vrand u a => Sys2Proof.Machine.execVrand u a s
  | .vror u a => Sys2Proof.Machine.execVror u a s
  | .vrxor u a => Sys2Proof.Machine.execVrxor u a s
  | .vssum u a => Sys2Proof.Machine.execVssum u a s
  | .vsmin u a => Sys2Proof.Machine.execVsmin u a s
  | .vsmax u a => Sys2Proof.Machine.execVsmax u a s
  | .vscnt u a => Sys2Proof.Machine.execVscnt u a s
  | .vsand u a => Sys2Proof.Machine.execVsand u a s
  | .vsor u a => Sys2Proof.Machine.execVsor u a s
  | .vsxor u a => Sys2Proof.Machine.execVsxor u a s
  | .vpsum u a => Sys2Proof.Machine.execVpsum u a s
  | .vpsumx u a => Sys2Proof.Machine.execVpsumx u a s
  | .vmul u a => Sys2Proof.Machine.execVmul u a s
  | .vmulh u a => Sys2Proof.Machine.execVmulh u a s
  | .vmulsat u a => Sys2Proof.Machine.execVmulsat u a s
  | .vdiv u a => Sys2Proof.Machine.execVdiv u a s
  | .vrem u a => Sys2Proof.Machine.execVrem u a s
  | .vfdiv u a => Sys2Proof.Machine.execVfdiv u a s
  | .vfsqrt u a => Sys2Proof.Machine.execVfsqrt u a s
  | .vfadd u a => Sys2Proof.Machine.execVfadd u a s
  | .vfsub u a => Sys2Proof.Machine.execVfsub u a s
  | .vfmul u a => Sys2Proof.Machine.execVfmul u a s
  | .vfma u a => Sys2Proof.Machine.execVfma u a s
  | .vfms u a => Sys2Proof.Machine.execVfms u a s
  | .vfnma u a => Sys2Proof.Machine.execVfnma u a s
  | .vfmin u a => Sys2Proof.Machine.execVfmin u a s
  | .vfmax u a => Sys2Proof.Machine.execVfmax u a s
  | .vfabs u a => Sys2Proof.Machine.execVfabs u a s
  | .vfneg u a => Sys2Proof.Machine.execVfneg u a s
  | .vfcmpeq u a => Sys2Proof.Machine.execVfcmpeq u a s
  | .vfcmpne u a => Sys2Proof.Machine.execVfcmpne u a s
  | .vfcmplt u a => Sys2Proof.Machine.execVfcmplt u a s
  | .vfcmple u a => Sys2Proof.Machine.execVfcmple u a s
  | .vfcmpgt u a => Sys2Proof.Machine.execVfcmpgt u a s
  | .vfcmpge u a => Sys2Proof.Machine.execVfcmpge u a s
  | .vfcvt u a => Sys2Proof.Machine.execVfcvt u a s
  | .vfcvtz u a => Sys2Proof.Machine.execVfcvtz u a s
  | .vfrsum u a => Sys2Proof.Machine.execVfrsum u a s
  | .vfrmin u a => Sys2Proof.Machine.execVfrmin u a s
  | .vfrmax u a => Sys2Proof.Machine.execVfrmax u a s
  | .vpermb u a => Sys2Proof.Machine.execVpermb u a s
  | .vexpd u a => Sys2Proof.Machine.execVexpd u a s
  | .vcmpr u a => Sys2Proof.Machine.execVcmpr u a s
  | .vperm u a => Sys2Proof.Machine.execVperm u a s
  | .vkpopc u a => Sys2Proof.Machine.execVkpopc u a s
  | .vhash u a => Sys2Proof.Machine.execVhash u a s
  | .dprobe u a => Sys2Proof.Machine.execDprobe u a s
  | .dins u a => Sys2Proof.Machine.execDins u a s
  | .dagg u a => Sys2Proof.Machine.execDagg u a s
  | .ddel u a => Sys2Proof.Machine.execDdel u a s
  | .fSlotOpComplete q => Sys2Proof.Machine.execFSlotOpComplete q s
  | .longLoadDataArrival q a => Sys2Proof.Machine.execLongLoadDataArrival q a s
  | .storeBufferSend q => Sys2Proof.Machine.execStoreBufferSend q s
  | .storeWriteAck e => Sys2Proof.Machine.execStoreWriteAck e s
  | .portBCollidedAnswer w => Sys2Proof.Machine.execPortBCollidedAnswer w s
  | .ibufLineFill q bank ga => Sys2Proof.Machine.execIbufLineFill q bank ga s
  | .sequencerInterruptTake q => Sys2Proof.Machine.execSequencerInterruptTake q s
  | .maskOverrun q => Sys2Proof.Machine.execMaskOverrun q s
  | .watchdogExpiry q => Sys2Proof.Machine.execWatchdogExpiry q s
  | .streamTableGrant p => Sys2Proof.Machine.execStreamTableGrant p s
  | .streamStart p e => Sys2Proof.Machine.execStreamStart p e s
  | .streamActivate p e => Sys2Proof.Machine.execStreamActivate p e s
  | .streamWave w => Sys2Proof.Machine.execStreamWave w s
  | .stripCommit p e => Sys2Proof.Machine.execStripCommit p e s
  | .streamEnd p e => Sys2Proof.Machine.execStreamEnd p e s
  | .pipeLaneFail p lane => Sys2Proof.Machine.execPipeLaneFail p lane s
  | .dirOpRetire p => Sys2Proof.Machine.execDirOpRetire p s
  | .admissionSlotAdvance => Sys2Proof.Machine.execAdmissionSlotAdvance s
  | .deadlineDemotion => Sys2Proof.Machine.execDeadlineDemotion s
  | .releaseSlotReached c => Sys2Proof.Machine.execReleaseSlotReached c s
  | .meterReport c => Sys2Proof.Machine.execMeterReport c s
  | .dauDemandCredit => Sys2Proof.Machine.execDauDemandCredit s
  | .budgetOverrun c => Sys2Proof.Machine.execBudgetOverrun c s
  | .beSliceExpiry q => Sys2Proof.Machine.execBeSliceExpiry q s
  | .cscPlacement => Sys2Proof.Machine.execCscPlacement s
  | .contextTransferComplete q => Sys2Proof.Machine.execContextTransferComplete q s
  | .bankSwitch q => Sys2Proof.Machine.execBankSwitch q s
  | .contextEnding c => Sys2Proof.Machine.execContextEnding c s
  | .fmLinkDown p why => Sys2Proof.Machine.execFmLinkDown p why s
  | .fmViral p => Sys2Proof.Machine.execFmViral p s
  | .fmResponseLimitExpiry p w ga => Sys2Proof.Machine.execFmResponseLimitExpiry p w ga s
  | .xptQualStart p => Sys2Proof.Machine.execXptQualStart p s
  | .fmQualStepEnd p r => Sys2Proof.Machine.execFmQualStepEnd p r s
  | .perstXpEnd p r => Sys2Proof.Machine.execPerstXpEnd p r s
  | .prsntXpRemoval p pulseNs => Sys2Proof.Machine.execPrsntXpRemoval p pulseNs s
  | .prsntXpInsert p => Sys2Proof.Machine.execPrsntXpInsert p s
  | .lmFrameStart n => Sys2Proof.Machine.execLmFrameStart n s
  | .lmBeAging n ix => Sys2Proof.Machine.execLmBeAging n ix s
  | .lmCorrectedWriteback n => Sys2Proof.Machine.execLmCorrectedWriteback n s
  | .lmPatrolScrub n found => Sys2Proof.Machine.execLmPatrolScrub n found s
  | .lmRowRetireSwitch n => Sys2Proof.Machine.execLmRowRetireSwitch n s
  | .scratchpadBankCycle sp bank a b => Sys2Proof.Machine.execScratchpadBankCycle sp bank a b s
  | .sramCorrectedWriteback m => Sys2Proof.Machine.execSramCorrectedWriteback m s
  | .sramScrub m found => Sys2Proof.Machine.execSramScrub m found s
  | .termiteWipeComplete bad => Sys2Proof.Machine.execTermiteWipeComplete bad s
  | .crossingTransactionReceive dst link t => Sys2Proof.Machine.execCrossingTransactionReceive dst link t s
  | .crossingCreditReturn src dst link ch => Sys2Proof.Machine.execCrossingCreditReturn src dst link ch s
  | .xrstN isl => Sys2Proof.Machine.execXrstN isl s
  | .crossbarArbitration isl t => Sys2Proof.Machine.execCrossbarArbitration isl t s
  | .qosAgingStep isl port ix => Sys2Proof.Machine.execQosAgingStep isl port ix s
  | .floorGrant isl t => Sys2Proof.Machine.execFloorGrant isl t s
  | .fabricHoldbackRelease isl tag => Sys2Proof.Machine.execFabricHoldbackRelease isl tag s
  | .evcLevelInputChange n => Sys2Proof.Machine.execEvcLevelInputChange n s
  | .evcPulse n => Sys2Proof.Machine.execEvcPulse n s
  | .evcPendSet w bits => Sys2Proof.Machine.execEvcPendSet w bits s
  | .evcPendClr w bits => Sys2Proof.Machine.execEvcPendClr w bits s
  | .evcMaskSet w bits => Sys2Proof.Machine.execEvcMaskSet w bits s
  | .evcMaskClr w bits => Sys2Proof.Machine.execEvcMaskClr w bits s
  | .evcPresentation t => Sys2Proof.Machine.execEvcPresentation t s
  | .tgtClaim ag t => Sys2Proof.Machine.execTgtClaim ag t s
  | .tgtComplete ag t src => Sys2Proof.Machine.execTgtComplete ag t src s
  | .evcHoldoffEnd g => Sys2Proof.Machine.execEvcHoldoffEnd g s
  | .evrRecordOffer r => Sys2Proof.Machine.execEvrRecordOffer r s
  | .evrTokenRefill code => Sys2Proof.Machine.execEvrTokenRefill code s
  | .evrRecordProgrammed => Sys2Proof.Machine.execEvrRecordProgrammed s
  | .evrCtrlFlush ag => Sys2Proof.Machine.execEvrCtrlFlush ag s
  | .optTick => Sys2Proof.Machine.execOptTick s
  | .evrPersistCounts => Sys2Proof.Machine.execEvrPersistCounts s
  | .powerFailWarning mv slope => Sys2Proof.Machine.execPowerFailWarning mv slope s
  | .graceExpiry => Sys2Proof.Machine.execGraceExpiry s
  | .inputRecovery mv => Sys2Proof.Machine.execInputRecovery mv s
  | .pwrMeasurement m => Sys2Proof.Machine.execPwrMeasurement m s
  | .throttleLower => Sys2Proof.Machine.execThrottleLower s
  | .guaranteeFloorCrossing => Sys2Proof.Machine.execGuaranteeFloorCrossing s
  | .thermalTrip sensor tenths => Sys2Proof.Machine.execThermalTrip sensor tenths s
  | .tamper src => Sys2Proof.Machine.execTamper src s
  | .pwrHbBeat => Sys2Proof.Machine.execPwrHbBeat s
  | .heartbeatLost => Sys2Proof.Machine.execHeartbeatLost s
  | .fwImageFallback => Sys2Proof.Machine.execFwImageFallback s
  | .coldReset mgLost => Sys2Proof.Machine.execColdReset mgLost s
  | .warmReset => Sys2Proof.Machine.execWarmReset s
  | .islandReset isl => Sys2Proof.Machine.execIslandReset isl s
  | .sequencerReset q => Sys2Proof.Machine.execSequencerReset q s
  | .pipeReset p => Sys2Proof.Machine.execPipeReset p s
  | .islandStateRequest isl st => Sys2Proof.Machine.execIslandStateRequest isl st s
  | .islandWakeComplete isl => Sys2Proof.Machine.execIslandWakeComplete isl s
  | .pageEnable ag pg => Sys2Proof.Machine.execPageEnable ag pg s
  | .pageDisable ag pg => Sys2Proof.Machine.execPageDisable ag pg s
  | .blockStop pg => Sys2Proof.Machine.execBlockStop pg s
  | .pageCommit ag pg => Sys2Proof.Machine.execPageCommit ag pg s
  | .commitApply pg => Sys2Proof.Machine.execCommitApply pg s
  | .pageSoftReset ag pg => Sys2Proof.Machine.execPageSoftReset ag pg s
  | .quiesceSet ag pg => Sys2Proof.Machine.execQuiesceSet ag pg s
  | .quiesceClear ag pg => Sys2Proof.Machine.execQuiesceClear ag pg s
  | .pgIrqSet ag pg bits => Sys2Proof.Machine.execPgIrqSet ag pg bits s
  | .pgIrqClr ag pg bits => Sys2Proof.Machine.execPgIrqClr ag pg bits s
  | .pgIrqMskSet ag pg bits => Sys2Proof.Machine.execPgIrqMskSet ag pg bits s
  | .pgIrqMskClr ag pg bits => Sys2Proof.Machine.execPgIrqMskClr ag pg bits s
  | .loRegisterRead ag t => Sys2Proof.Machine.execLoRegisterRead ag t s
  | .dauOpenWrite ag g b => Sys2Proof.Machine.execDauOpenWrite ag g b s
  | .registerWrite ag t value => Sys2Proof.Machine.execRegisterWrite ag t value s
  | .illegalInstruction q words => Sys2Proof.Machine.execIllegalInstruction q words s
  | .lmTrainingComplete => Sys2Proof.Machine.execLmTrainingComplete s
  | .coreRailsGood => Sys2Proof.Machine.execCoreRailsGood s
  | .lmStackTempChange n tenths => Sys2Proof.Machine.execLmStackTempChange n tenths s
  | .mgPowerLoss => Sys2Proof.Machine.execMgPowerLoss s
  | .hostLinkL0Entry => Sys2Proof.Machine.execHostLinkL0Entry s
  | .ideKmRequest session stream start => Sys2Proof.Machine.execIdeKmRequest session stream start s
  | .doeDiscovery index => Sys2Proof.Machine.execDoeDiscovery index s
  | .hostDmaComplete => Sys2Proof.Machine.execHostDmaComplete s
  | .lmRowRetireStart n pc bank row => Sys2Proof.Machine.execLmRowRetireStart n pc bank row s
  | .sramRedundancyRemap m => Sys2Proof.Machine.execSramRedundancyRemap m s
  | .j9DebugAccess a => Sys2Proof.Machine.execJ9DebugAccess a s
  | .senseContactChange p n => Sys2Proof.Machine.execSenseContactChange p n s

end Sys2Proof.Machine
end

