-- ==== Sys2Proof/Safety.lean ====
section
/-! DEFINITION. What a safe run is: the canonical form of the memories and the other sparse arrays, and what a sequencer needs
and leaves when a bundle issues. -/

namespace Sys2Proof.Machine

/-- Both byte memories are in their canonical form: rising addresses, and no byte equal to what an unlisted address reads
as. -/
def State.MemOk (s : State) : Prop := memWf s.mem = true ∧ memWf s.qmem = true

/-- A property of the staging copy, the active copy and the sample of a configuration (R475, R477). -/
def Staged.Each {α : Type} (p : α → Prop) (x : Staged α) : Prop := p x.stage ∧ p x.active ∧ ∀ y, x.sampled = some y → p y

/-- Every sparse array of the state is in its canonical form: keys rising, and no entry equal to what an unlisted key
holds. -/
structure State.TablesOk (s : State) : Prop where
  ctxs : twf Ctx.free s.ctxs = true
  qps : twf Qp.reset s.rqe.qps = true
  prot : twf false s.rqe.prot = true
  dirs : twf Directory.free s.dir.dirs = true
  vault : twf VaultSlot.empty s.objs.vault = true
  segs : twf none s.objs.segs = true
  progs : twf none s.objs.progs = true
  codes : twf CodeState.full s.evr.codes = true
  cfg : s.evc.cfg.Each (fun l => twf SrcCfg.reset l = true)
  src : twf SrcState.reset s.evc.src = true
  grp : twf Grp.reset s.evc.grp = true
  ranges : s.hl.cfg.Each (fun c => twf FnRange.reset c.ranges = true)
  msix : twf VecState.reset s.hl.msix = true
  devs : twf DevCtl.reset s.hl.devs = true
  maint : ∀ n : Fin 12, twf 0 (s.lmcs[n.val]).maint = true
  rows : ∀ n : Fin 12, twf 0 (s.lmcs[n.val]).rows = true
  mems : twf MemErr.reset s.lms.mems = true
  coll : twf (0 : Reg32) s.lms.coll = true
  latch : twf none s.latch = true
  fabCe : twf (0 : Reg32) s.fab.ce = true
  fabUe : twf (0 : Reg32) s.fab.ue = true
  fabHold : twf (0 : Reg32) s.fab.hold = true
  fabFloor : twf (0 : Reg32) s.fab.floorCnt = true
  credits : twf 0 s.fab.credits = true
  ports : twf [] s.fab.ports = true
  last : twf 0 s.fab.last = true
  blocked : twf 0 s.fab.blocked = true
  held : twf [] s.fab.held = true
  unacked : twf [] s.fab.unacked = true
  upset : twf CodeWord.clean s.upset = true

/-- A run of n steps stops at no fault and no refusal, and every state on the way satisfies a property. -/
def SafeRun (P : State → Prop) : Nat → State → Prop
  | 0, s => P s
  | n + 1, s => P s ∧ ∃ t, step s = .next t ∧ SafeRun P n t

/-- The bank of a sequencer. -/
def bankOf (s : State) (q : Fin 16) (b : Fin 8) : Bank := s.seqs[q.val].banks[b.val]

/-- What a syllable of a sequencer's running context reads. -/
def envOf (s : State) (q : Fin 16) (b : Fin 8) (c : Nat) : Env :=
  { s := s, q := q, b := b, c := c, x := s.seqs[q.val], k := bankOf s q b, y := getCtx s c }

/-- A sequencer runs context c in bank b and stands between two bundles: it issues (R279), no syllable is staged, no result is
outstanding (R281), no request of the bundle was answered with an error (R16), no memory holds an error that no read has met (R51), no block
holds its requests under QUIESCE (R482), no exception is pending (R310), and the next len bytes of code can be fetched (R224). -/
structure AtBundle (s : State) (q : Fin 16) (b : Fin 8) (c : Nat) (len : Nat) : Prop where
  runs : seqRuns s q = true
  running : running s q = some (b, c)
  alive : (getCtx s c).dying = false
  tables : twf Ctx.free s.ctxs = true
  unstaged : (s.seqs[q.val]).open_ = []
  loads : (s.seqs[q.val]).loads = []
  md : (s.seqs[q.val]).md = none
  fq : (s.seqs[q.val]).fq = []
  slow : (s.seqs[q.val]).slow = []
  lost : (s.seqs[q.val]).lost = []
  errors : s.upset = []
  served : s.pages.any (·.held) = false
  size : len ≤ 48
  item : (pendingItem s q b c).isNone = true
  code : (fetchBundle s q b len).2.isNone = true

/-- Two states agree but for the bookkeeping of issue: a sequencer's counters of bundles, stalls, mispredictions and buffer misses,
what its bundle was held for, the registers that the bundle before loaded from the own scratchpad, the code lines and branch targets
that a bank has cached, the meter and MASKQ of a context, and the eighth-slots that its fetches take (R33). -/
structure Book (s t : State) (q : Fin 16) (b : Fin 8) (c : Nat) : Prop where
  rest : { t with seqs := s.seqs, ctxs := s.ctxs, lmcs := s.lmcs } = s
  slots : ∀ n : Fin 12, { t.lmcs[n.val] with used := (s.lmcs[n.val]).used } = s.lmcs[n.val]
  others : ∀ p : Fin 16, p ≠ q → t.seqs[p.val] = s.seqs[p.val]
  seq : { t.seqs[q.val] with bundles := (s.seqs[q.val]).bundles, mispred := (s.seqs[q.val]).mispred,
                             ibMiss := (s.seqs[q.val]).ibMiss, issued := (s.seqs[q.val]).issued, stalls := (s.seqs[q.val]).stalls,
                             held := (s.seqs[q.val]).held, slow := (s.seqs[q.val]).slow, banks := (s.seqs[q.val]).banks } = s.seqs[q.val]
  banks : ∀ d : Fin 8, d ≠ b → bankOf t q d = bankOf s q d
  bank : { bankOf t q b with ibuf := (bankOf s q b).ibuf, btb := (bankOf s q b).btb } = bankOf s q b
  ctxs : ∀ d, d ≠ c → getCtx t d = getCtx s d
  ctx : { getCtx t c with meter := (getCtx s c).meter, maskq := (getCtx s c).maskq } = getCtx s c

/-- A bundle of len bytes of context c has issued, and its effect, before the end of the bundle, is the change from some state
to a: the state t is a with the PC, the loop level and the loop counts that the end of the bundle gives the bank (R258, R261,
R262), but for the bookkeeping of issue. -/
def Issued (a t : State) (q : Fin 16) (b : Fin 8) (c : Nat) (len : Nat) (fl : Flow) : Prop :=
  Book (modBank a q b (advance (bankOf a q b).pc len fl)) t q b c

end Sys2Proof.Machine
end

