-- ==== Sys2Proof/Certificates/Slice0/Obligations.lean ====
section
/-! DEFINITION. The statements for the provers: what the rules of the manual say of the commands, of step, and of reset. -/

namespace Sys2Proof.Machine

/-! ## The I slots -/

/-- The bytes of a value and of a control word, and the byte that PERMB makes of them (R125). -/
def permByteSpec (a c : Word) (j : Nat) : Nat :=
  let x := c.toNat / 2 ^ (8 * j) % 256
  let y := a.toNat / 2 ^ (8 * (x % 8)) % 256
  if x < 64 then y else if x < 128 then (if 128 ≤ y then 255 else 0) else if x < 192 then 0 else 255

/-- The result that R239, R242 and R243 give a register operation of the I slots, with its place and its registers. -/
def irResult : Instr → Option (ISyl × Fin 32 × Fin 32 × Fin 32 × (Word → Word → Word))
  | .add u rd ra rb => some (u, rd, ra, rb, fun a b => BitVec.ofNat 64 (a.toNat + b.toNat))
  | .sub u rd ra rb => some (u, rd, ra, rb, fun a b => BitVec.ofInt 64 ((a.toNat : Int) - b.toNat))
  | .and u rd ra rb => some (u, rd, ra, rb, fun a b => a &&& b)
  | .or u rd ra rb => some (u, rd, ra, rb, fun a b => a ||| b)
  | .xor u rd ra rb => some (u, rd, ra, rb, fun a b => a ^^^ b)
  | .andn u rd ra rb => some (u, rd, ra, rb, fun a b => a &&& ~~~b)
  | .shl u rd ra rb => some (u, rd, ra, rb, fun a b => BitVec.ofNat 64 (a.toNat * 2 ^ b.toNat))
  | .shr u rd ra rb => some (u, rd, ra, rb, fun a b => BitVec.ofNat 64 (a.toNat / 2 ^ b.toNat))
  | .sra u rd ra rb => some (u, rd, ra, rb, fun a b => BitVec.ofInt 64 (a.toInt / 2 ^ b.toNat))
  | .min u rd ra rb => some (u, rd, ra, rb, fun a b => if a.toInt < b.toInt then a else b)
  | .max u rd ra rb => some (u, rd, ra, rb, fun a b => if a.toInt < b.toInt then b else a)
  | .minu u rd ra rb => some (u, rd, ra, rb, fun a b => if a.toNat < b.toNat then a else b)
  | .maxu u rd ra rb => some (u, rd, ra, rb, fun a b => if a.toNat < b.toNat then b else a)
  | .cmpeq u rd ra rb => some (u, rd, ra, rb, fun a b => if a = b then 1 else 0)
  | .cmplt u rd ra rb => some (u, rd, ra, rb, fun a b => if a.toInt < b.toInt then 1 else 0)
  | .cmpltu u rd ra rb => some (u, rd, ra, rb, fun a b => if a.toNat < b.toNat then 1 else 0)
  | .clz u rd ra => some (u, rd, ra, ra, fun a _ => BitVec.ofNat 64 (((List.range 64).find? (fun i => a.getMsbD i)).getD 64))
  | .ctz u rd ra => some (u, rd, ra, ra, fun a _ => BitVec.ofNat 64 (((List.range 64).find? (fun i => a.getLsbD i)).getD 64))
  | .popc u rd ra => some (u, rd, ra, ra, fun a _ => BitVec.ofNat 64 ((List.range 64).countP (fun i => a.getLsbD i)))
  | .permb u rd ra rb => some (u, rd, ra, rb, fun a c =>
      BitVec.ofNat 64 ((List.range 8).foldr (fun j n => permByteSpec a c j + 256 * n) 0))
  | _ => none

end Sys2Proof.Machine

open Sys2Proof Sys2Proof.Machine

/-- R239, R242, R243: ADD, SUB, AND, OR, XOR, ANDN, SHL, SHR, SRA, MIN, MAX, MINU, MAXU, CMPEQ, CMPLT, CMPLTU, CLZ, CTZ, POPC
and PERMB, alone in a bundle of either I slot, complete: RD takes the operation's result of the values that RA and RB had, and
nothing else changes but the PC, the loop state and the bookkeeping of issue. -/
def Sys2Proof.Machine.RegisterOperationsWriteTheirResult : Prop :=
  ∀ (i : Instr) (u : ISyl) (rd ra rb : Fin 32) (f : Word → Word → Word), irResult i = some (u, rd, ra, rb, f) →
    ∀ (s : State) (b : Fin 8) (c : Nat), AtBundle s u.seq b c 4 → u.stop = true →
      ∃ t, exec i s = .next t ∧
        Issued (modBank s u.seq b (fun k => { k with lo := wrInt k.lo rd (f (rdInt k.lo ra) (rdInt k.lo rb)) })) t u.seq b c 4 .seqn

namespace Sys2Proof.Machine

/-- A format II immediate, sign-extended (R226). -/
def immSpec : Imm → Word
  | .short v => BitVec.ofInt 64 v.toInt
  | .long v => BitVec.ofInt 64 v.toInt

/-- Syllables of an I-slot command with an immediate. -/
def immLen : Imm → Nat
  | .short _ => 1
  | .long _ => 2

/-- The field of WIDTH bits at LSB (R241). -/
def fieldSpec (a : Word) (lsb wm1 : BitVec 6) : Nat := a.toNat / 2 ^ lsb.toNat % 2 ^ (wm1.toNat + 1)

/-- An immediate or bit-field operation of the I slots: its place, its syllables, whether its fields are legal, RD, and the
result that R239, R240 and R241 give of the registers. -/
def iiResult : Instr → Option (ISyl × Nat × Bool × Fin 32 × (Lower → Word))
  | .addi u rd ra i => some (u, immLen i, true, rd, fun l => BitVec.ofNat 64 ((rdInt l ra).toNat + (immSpec i).toNat))
  | .andi u rd ra i => some (u, immLen i, true, rd, fun l => rdInt l ra &&& immSpec i)
  | .ori u rd ra i => some (u, immLen i, true, rd, fun l => rdInt l ra ||| immSpec i)
  | .xori u rd ra i => some (u, immLen i, true, rd, fun l => rdInt l ra ^^^ immSpec i)
  | .cmpeqi u rd ra i => some (u, immLen i, true, rd, fun l => if rdInt l ra = immSpec i then 1 else 0)
  | .cmplti u rd ra i => some (u, immLen i, true, rd, fun l => if (rdInt l ra).toInt < (immSpec i).toInt then 1 else 0)
  | .cmpltui u rd ra i => some (u, immLen i, true, rd, fun l => if (rdInt l ra).toNat < (immSpec i).toNat then 1 else 0)
  | .li u rd i => some (u, immLen i, true, rd, fun _ => immSpec i)
  | .lih u rd i => some (u, immLen i, true, rd, fun l =>
      BitVec.ofNat 64 ((immSpec i).toNat % 2 ^ 32 * 2 ^ 32 + (rdInt l rd).toNat % 2 ^ 32))
  | .shli u rd ra n => some (u, 1, decide (n.toNat < 64), rd, fun l => BitVec.ofNat 64 ((rdInt l ra).toNat * 2 ^ n.toNat))
  | .shri u rd ra n => some (u, 1, decide (n.toNat < 64), rd, fun l => BitVec.ofNat 64 ((rdInt l ra).toNat / 2 ^ n.toNat))
  | .srai u rd ra n => some (u, 1, decide (n.toNat < 64), rd, fun l => BitVec.ofInt 64 ((rdInt l ra).toInt / 2 ^ n.toNat))
  | .bfx u rd ra lsb wm1 => some (u, 1, decide (lsb.toNat + (wm1.toNat + 1) ≤ 64), rd, fun l =>
      BitVec.ofNat 64 (fieldSpec (rdInt l ra) lsb wm1))
  | .bfxs u rd ra lsb wm1 => some (u, 1, decide (lsb.toNat + (wm1.toNat + 1) ≤ 64), rd, fun l =>
      let f := fieldSpec (rdInt l ra) lsb wm1
      BitVec.ofInt 64 (if f < 2 ^ wm1.toNat then (f : Int) else (f : Int) - 2 ^ (wm1.toNat + 1)))
  | .bfi u rd ra lsb wm1 => some (u, 1, decide (lsb.toNat + (wm1.toNat + 1) ≤ 64), rd, fun l =>
      let d := (rdInt l rd).toNat
      let hi := 2 ^ (lsb.toNat + wm1.toNat + 1)
      BitVec.ofNat 64 (d % 2 ^ lsb.toNat + (rdInt l ra).toNat % 2 ^ (wm1.toNat + 1) * 2 ^ lsb.toNat + d / hi * hi))
  | _ => none

/-- A multiply or divide: its place, its registers, the result of R244 and R197, and whether it divides. -/
def mdResult : Instr → Option (ISyl × Fin 32 × Fin 32 × Fin 32 × (Word → Word → Word) × Bool)
  | .mul u rd ra rb => some (u, rd, ra, rb, fun a b => BitVec.ofInt 64 (a.toInt * b.toInt), false)
  | .mulu u rd ra rb => some (u, rd, ra, rb, fun a b => BitVec.ofNat 64 (a.toNat * b.toNat), false)
  | .mulh u rd ra rb => some (u, rd, ra, rb, fun a b => BitVec.ofInt 64 (a.toInt * b.toInt / 2 ^ 64), false)
  | .mulhu u rd ra rb => some (u, rd, ra, rb, fun a b => BitVec.ofNat 64 (a.toNat * b.toNat / 2 ^ 64), false)
  | .div u rd ra rb => some (u, rd, ra, rb, fun a b => if b = 0 then -1 else BitVec.ofInt 64 (a.toInt.tdiv b.toInt), true)
  | .divu u rd ra rb => some (u, rd, ra, rb, fun a b => if b = 0 then -1 else BitVec.ofNat 64 (a.toNat / b.toNat), true)
  | .rem u rd ra rb => some (u, rd, ra, rb, fun a b => if b = 0 then a else BitVec.ofInt 64 (a.toInt.tmod b.toInt), true)
  | .remu u rd ra rb => some (u, rd, ra, rb, fun a b => if b = 0 then a else BitVec.ofNat 64 (a.toNat % b.toNat), true)
  | _ => none

/-- The control registers by their numbers (R236). -/
def ctlSpec (k : Bank) : List Word :=
  [k.pc, BitVec.ofNat 64 (statWord k.lo.stat), k.tsbp, k.edtb, BitVec.ofNat 64 k.lo.vl.toNat, BitVec.ofNat 64 k.lo.vstart.toNat,
   BitVec.ofNat 64 k.lo.fcsr.toNat, k.lo.wsp] ++ k.lo.lps.toList ++ k.lo.lpe.toList ++ k.lo.lpc.toList

/-- The levels from which MFC and MTC may name a control register (R236). -/
def mfcLevels (cr : Fin 32) : Nat := if cr = 2 ∨ cr = 3 ∨ cr = 7 then 1 else 2
def mtcLevels (cr : Fin 32) : Nat := if cr = 1 ∨ cr = 7 then 1 else if cr = 2 ∨ cr = 3 then 0 else 2

end Sys2Proof.Machine

/-- R239, R240, R241: ADDI, ANDI, ORI, XORI, SHLI, SHRI, SRAI, CMPEQI, CMPLTI, CMPLTUI, LI, LIH, BFX, BFXS and BFI, with an
immediate of either form and legal fields, complete alone in a bundle of either I slot: RD takes their result, and nothing else
changes but the PC, the loop state and the bookkeeping of issue. A bit field with LSB + WIDTH > 64, or a shift count above 63,
raises Illegal Instruction with sub-code RSVD_FIELD, and nothing but the bookkeeping of issue comes before. -/
def Sys2Proof.Machine.ImmediateOperationsWriteTheirResult : Prop :=
  ∀ (i : Instr) (u : ISyl) (n : Nat) (legal : Bool) (rd : Fin 32) (f : Lower → Word), iiResult i = some (u, n, legal, rd, f) →
    ∀ (s : State) (b : Fin 8) (c : Nat), AtBundle s u.seq b c (4 * n) → u.stop = true →
      (legal = true → ∃ t, exec i s = .next t ∧
        Issued (modBank s u.seq b (fun k => { k with lo := wrInt k.lo rd (f k.lo) })) t u.seq b c (4 * n) .seqn) ∧
      (legal = false → ∃ g, Book s g u.seq b c ∧
        exec i s = .next (raiseExc g u.seq b c (Exc.plain 0x01 0x03 (bankOf s u.seq b).pc 0 (some 0))))

/-- R239 to R243: operations on registers, and those with an immediate, write their result.
Rests also on log entry 14, the model's choice. -/
def Obligations.RegisterAndImmediateOperationsWriteTheirResult : Prop := RegisterOperationsWriteTheirResult ∧ ImmediateOperationsWriteTheirResult

/-- R194, R197, R244, R198: MUL, MULU, MULH, MULHU, DIV, DIVU, REM and REMU in I0 start the multiply-divide unit: it holds RD and the
window of issue, the result, whether a zero divisor sets IDZ, a time of at most 4 passes or 35 cycles, all of them under constant
time, and the number of its bundle; RD keeps its value until MULDIV_COMPLETE. -/
def Sys2Proof.Machine.MultiplyAndDivideStartTheUnit : Prop :=
  ∀ (i : Instr) (u : ISyl) (rd ra rb : Fin 32) (f : Word → Word → Word) (d : Bool), mdResult i = some (u, rd, ra, rb, f, d) →
    ∀ (s : State) (b : Fin 8) (c : Nat), AtBundle s u.seq b c 4 → u.stop = true → u.i1 = false →
      let l := (bankOf s u.seq b).lo
      let most := if d then 35 else 4
      ∃ t cyc, exec i s = .next t ∧ 1 ≤ cyc ∧ cyc ≤ most ∧ (l.stat.ct = true → cyc = most) ∧
        Issued (modSeq s u.seq (fun x => { x with md := some { bank := b, rd := rd, value := f (rdInt l ra) (rdInt l rb),
                                                               idz := d && decide (rdInt l rb = 0), cycles := cyc, win := winIdx l.stat,
                                                               drop := false, stamp := (s.seqs[u.seq.val]).issued + 1 } })) t u.seq b c 4 .seqn

/-- R194, R197, R225, R239: MULDIV_COMPLETE writes the unit's result to RD in its bank, in the window that was current when its bundle
issued, unless RET of that bundle restored RD; it sets FCSR.IDZ where the divisor was zero, and frees the unit. The bank that a
long load of a younger bundle would be taken back to gets the same, and nothing else changes, while no load has failed. -/
def Sys2Proof.Machine.MuldivCompleteWritesTheResult : Prop :=
  ∀ (s : State) (q : Fin 16) (m : MulDiv), (s.seqs[q.val]).md = some m → (∀ l ∈ (s.seqs[q.val]).loads, l.failed = none) →
    let w := fun (k : Bank) => { k with lo := { (if m.drop then k.lo else wrIntIn k.lo m.win m.rd m.value) with
      fcsr := if m.idz then k.lo.fcsr ||| 0x8000#32 else k.lo.fcsr } }
    ∃ t, exec (.muldivComplete q) s = .next t ∧
      t = modSeq s q (fun x => { x with
        md := none, banks := vmod x.banks m.bank w,
        loads := x.loads.map (fun l => if l.bank = m.bank ∧ m.stamp < l.stamp then { l with before := w l.before } else l) })

/-- R192 to R195: multiplication and division start the unit, and their completion writes the result.
Rests also on log entry 14, the model's choice. -/
def Obligations.MultiplyAndDivide : Prop := MultiplyAndDivideStartTheUnit ∧ MuldivCompleteWritesTheResult

/-- R236, R245: MFC in I0, from a level that the register's row allows, writes the register's value, zero-extended, to RD. -/
def Sys2Proof.Machine.MfcReadsAControlRegister : Prop :=
  ∀ (s : State) (u : ISyl) (rd cr : Fin 32) (b : Fin 8) (c : Nat) (v : Word), AtBundle s u.seq b c 4 → u.stop = true →
    u.i1 = false → (bankOf s u.seq b).lo.stat.pl.toNat ≤ mfcLevels cr → (ctlSpec (bankOf s u.seq b))[cr.val]? = some v →
    ∃ t, exec (.mfc u rd cr) s = .next t ∧
      Issued (modBank s u.seq b (fun k => { k with lo := wrInt k.lo rd v })) t u.seq b c 4 .seqn

/-- R236, R245: MTC in I0 of a register other than PC and STAT, from a level that its row allows and with a value that its row
does not reserve, leaves the register holding RA, and every other control register but PC, and the loop counts and level that
the end of the bundle writes, as it was; no integer, vector, mask or segment register changes. -/
def Sys2Proof.Machine.MtcWritesAControlRegister : Prop :=
  ∀ (s : State) (u : ISyl) (cr ra : Fin 32) (b : Fin 8) (c : Nat), AtBundle s u.seq b c 4 → u.stop = true → u.i1 = false →
    2 ≤ cr.val → cr.val ≤ 19 → (bankOf s u.seq b).lo.stat.pl.toNat ≤ mtcLevels cr →
    mtcBad cr.val (rdInt (bankOf s u.seq b).lo ra).toNat = none →
    ∃ t k, exec (.mtc u cr ra) s = .next t ∧ Issued (modBank s u.seq b (fun _ => k)) t u.seq b c 4 .seqn ∧
      (ctlSpec k)[cr.val]? = some (rdInt (bankOf s u.seq b).lo ra) ∧
      (∀ n : Nat, n ≠ cr.val → (ctlSpec k)[n]? = (ctlSpec (bankOf s u.seq b))[n]?) ∧
      k.up = (bankOf s u.seq b).up ∧ k.lo.g = (bankOf s u.seq b).lo.g ∧ k.lo.wins = (bankOf s u.seq b).lo.wins ∧
      k.lo.segs = (bankOf s u.seq b).lo.segs

/-- R331: MTC of STAT in I0 at PL0 or PL1 writes CT, CWP, WRES and LD, and GM while ESC is 0; PL, WT and ESC keep their values.
A WRES of 0, an LD above 4 and bits above 14 are not written (they are illegal). -/
def Sys2Proof.Machine.MtcOfStatWritesItsFields : Prop :=
  ∀ (s : State) (u : ISyl) (ra : Fin 32) (b : Fin 8) (c : Nat), AtBundle s u.seq b c 4 → u.stop = true → u.i1 = false →
    (bankOf s u.seq b).lo.stat.pl.toNat ≤ 1 →
    let v := rdInt (bankOf s u.seq b).lo ra
    let o := (bankOf s u.seq b).lo.stat
    v.toNat / 2 ^ 7 % 8 ≠ 0 → v.toNat / 2 ^ 11 % 8 ≤ 4 → v.toNat < 2 ^ 15 →
    ∃ t, exec (.mtc u 1 ra) s = .next t ∧
      Issued (modBank s u.seq b (fun k => { k with lo := { k.lo with stat :=
        { esc := o.esc, wt := o.wt, pl := o.pl, gm := if o.esc then o.gm else v.getLsbD 2, ct := v.getLsbD 3,
          cwp := v.extractLsb' 4 3, wres := v.extractLsb' 7 3, ld := v.extractLsb' 11 3 } } })) t u.seq b c 4 .seqn

/-- R236: MFC reads a control register, and MTC writes one, STAT by its writable fields.
Rests also on log entries 14, 140, the model's choices. -/
def Obligations.ControlRegistersAreReadAndWritten : Prop := MfcReadsAControlRegister ∧ MtcWritesAControlRegister ∧ MtcOfStatWritesItsFields

namespace Sys2Proof.Machine

/-! ## The M slot -/

/-- What the first test of a list that holds answers; none where none does. -/
def FirstOf {α : Type} (r : Option α) : List (Prop × α) → Prop
  | [] => r = none
  | (p, k) :: l => (p → r = some k) ∧ (¬p → FirstOf r l)

/-- An accepted job that has not begun to end. -/
abbrev Live (x : Ctx) : Prop := x.st ≠ .free ∧ x.st ≠ .ending

/-- Syllables of a memory command (R226). -/
def dispLen : Disp → Nat
  | .short _ => 1
  | .long _ => 2

/-- A load: its place, its operand, its size, which is also its scale (R230), its alignment, its destination, and whether it is
of vector state. -/
def loadForm : Instr → Option (Syl × MemOp × Nat × Nat × LoadDest × Bool)
  | .ldb u rd m => some (u, m, 1, 0, .int rd 1 false, false)
  | .ldh u rd m => some (u, m, 2, 0, .int rd 2 false, false)
  | .ldw u rd m => some (u, m, 4, 0, .int rd 4 false, false)
  | .ldd u rd m => some (u, m, 8, 0, .int rd 8 false, false)
  | .ldbs u rd m => some (u, m, 1, 0, .int rd 1 true, false)
  | .ldhs u rd m => some (u, m, 2, 0, .int rd 2 true, false)
  | .ldws u rd m => some (u, m, 4, 0, .int rd 4 true, false)
  | .ldf u rd m => some (u, m, 8, 0, .fp rd 8, true)
  | .ldfs u rd m => some (u, m, 4, 0, .fp rd 4, true)
  | .sld u sn m => some (u, m, 32, 32, .seg sn, false)
  | _ => none

/-- A bank after a load of some little-endian bytes (R247, R254): an integer register zero- or sign-extended; bits 63 to 0 of an
f register; a segment register. -/
def loaded (k : Bank) (bs : List Byte) : LoadDest → Bank
  | .int rd z sg =>
    let n := natOf bs
    { k with lo := wrInt k.lo rd (BitVec.ofInt 64 (if sg ∧ 2 ^ (8 * z - 1) ≤ n then (n : Int) - 2 ^ (8 * z) else n)) }
  | .fp rd _ =>
    let x := BitVec.ofNat 8192 ((k.up.v[rd.val]).toNat / 2 ^ 64 * 2 ^ 64 + natOf bs)
    { k with up := { k.up with v := vset k.up.v rd x } }
  | .seg n => { k with lo := { k.lo with segs := vset k.lo.segs n (BitVec.ofNat 256 (natOf bs)) } }
  | .mask _ => k

/-- What R255 and R256 ask of a load of a segment register: not s0, s1 at PL0 only, and a descriptor of legal format that at PL2
lies within a descriptor already held. -/
def sldLegal (k : Bank) (bs : List Byte) : LoadDest → Prop
  | .seg n => n ≠ 0 ∧ (n = 1 → k.lo.stat.pl = 0) ∧ descOk (BitVec.ofNat 256 (natOf bs)) = true
      ∧ (k.lo.stat.pl = 2 → ∃ i : Fin 16, i ≠ 0 ∧ descWithin (BitVec.ofNat 256 (natOf bs)) (segReg k.lo i) = true)
  | _ => True

/-- A store: its place, its operand, its size and scale, its alignment, the bytes it stores, and whether it is of vector state. -/
def storeForm : Instr → Option (Syl × MemOp × Nat × Nat × (Bank → List Byte) × Bool)
  | .stb u rd m => some (u, m, 1, 0, fun k => bytesOf (rdInt k.lo rd).toNat 1, false)
  | .sth u rd m => some (u, m, 2, 0, fun k => bytesOf (rdInt k.lo rd).toNat 2, false)
  | .stw u rd m => some (u, m, 4, 0, fun k => bytesOf (rdInt k.lo rd).toNat 4, false)
  | .std u rd m => some (u, m, 8, 0, fun k => bytesOf (rdInt k.lo rd).toNat 8, false)
  | .stf u rd m => some (u, m, 8, 0, fun k => bytesOf (k.up.v[rd.val]).toNat 8, true)
  | .stfs u rd m => some (u, m, 4, 0, fun k => bytesOf (k.up.v[rd.val]).toNat 4, true)
  | .sst u sn m => some (u, m, 32, 32, fun k => bytesOf (segReg k.lo sn).toNat 32, false)
  | _ => none

/-- The GA of a memory operand in a bank, for a scale. -/
def operandGa (k : Bank) (scale : Nat) (m : MemOp) : Nat := dBase (segReg k.lo m.seg) + (memOff k scale m).toNat

/-- The operand of a running bank passes the access check (R327). -/
def operandOk (s : State) (q : Fin 16) (k : Bank) (r : Right) (z align : Nat) (m : MemOp) : Prop :=
  segCheck s (.seq q k.lo.stat.esc) (segReg k.lo m.seg) k.lo.stat.pl.toNat r (memOff k z m).toNat z align = none

/-- The store-buffer entries of a store: split at 64-byte lines, in order (R249, R251), of the bundle that issues next. -/
def bufferOf (x : Seq) (c : Nat) (esc se : Bool) (ga : Nat) (bs : List Byte) : List SbEntry :=
  let ps := lineSplit ga bs
  ps.zipIdx.map (fun e => { ctx := c, ga := e.1.1, bytes := e.1.2, sent := false, coll := 0, pair := decide (e.2 + 1 < ps.length),
                            esc := esc, se := se, stamp := x.issued + 1 })

/-- A store to a segment with SE waits for no store that its context left in the buffer of another sequencer (R250, R306). -/
def seFree (s : State) (q : Fin 16) (c : Nat) (d : Desc256) : Prop :=
  dSE d = true → ∀ p : Fin 16, p ≠ q → ∀ e ∈ (s.seqs[p.val]).sb, e.ctx ≠ c

/-- LMS_COLLb of the scratchpad and bank of a GA counts one more, up to its largest value (R408, R409). -/
def collCounted (s t : State) (ga : Nat) : Prop :=
  let k := (ga - onDieBase) / 2 ^ 20 * 16 + ga / 64 % 16
  t.lms.coll = tset (0 : Reg32) s.lms.coll k (satInc (tget 0 s.lms.coll k))

/-- A store buffer without an entry that has left it: the entry before that one no longer stands together with it. -/
def without (pre post : List SbEntry) : List SbEntry :=
  pre.dropLast ++ (pre.getLast?.map (fun o => { o with pair := false })).toList ++ post

end Sys2Proof.Machine

/-- R246, R247, R248, R254: a load of the sequencer's own scratchpad (LDB, LDH, LDW, LDD, LDBS, LDHS, LDWS, LDF, LDFS, SLD), with no
store buffered, a passing access check and intact bytes, writes its register with its bundle; nothing else changes but the PC,
the loop state and the bookkeeping of issue.
Rests also on log entries 14, 137, the model's choices. -/
def Obligations.ScratchpadLoadsWriteAtIssue : Prop :=
  ∀ (i : Instr) (u : Syl) (m : MemOp) (z al : Nat) (dest : LoadDest) (vec : Bool), loadForm i = some (u, m, z, al, dest, vec) →
    ∀ (s : State) (b : Fin 8) (c : Nat), AtBundle s u.seq b c (4 * dispLen m.disp) → u.stop = true →
      let k := bankOf s u.seq b
      let r := gaRead s (.seq u.seq k.lo.stat.esc) (operandGa k z m) z
      (s.seqs[u.seq.val]).sb = [] → (dSE (segReg k.lo m.seg) = true → hasStore s c = false) →
      (vec = true → (getCtx s c).novec = false) → operandOk s u.seq k .read z al m →
      ownSp u.seq (operandGa k z m) = true → r.error = none → r.poison = none → sldLegal k r.bytes dest →
      ∃ t, exec i s = .next t ∧
        Issued (modBank s u.seq b (fun k => loaded k r.bytes dest)) t u.seq b c (4 * dispLen m.disp) .seqn

/-- R246, R252, R281: any other load whose access check passes is outstanding after its bundle, with its GA, its size, its
destination and the bank to go back to; its register keeps its value; nothing else changes but the PC, the loop state and the
bookkeeping of issue. -/
def Sys2Proof.Machine.LongLoadsAreOutstanding : Prop :=
  ∀ (i : Instr) (u : Syl) (m : MemOp) (z al : Nat) (dest : LoadDest) (vec : Bool), loadForm i = some (u, m, z, al, dest, vec) →
    ∀ (s : State) (b : Fin 8) (c : Nat), AtBundle s u.seq b c (4 * dispLen m.disp) → u.stop = true →
      let k := bankOf s u.seq b
      (s.seqs[u.seq.val]).sb = [] → (dSE (segReg k.lo m.seg) = true → hasStore s c = false) →
      (vec = true → (getCtx s c).novec = false) → operandOk s u.seq k .read z al m →
      ownSp u.seq (operandGa k z m) = false → (∀ n, dest = .seg n → n ≠ 0 ∧ (n = 1 → k.lo.stat.pl = 0)) →
      ∃ t k', exec i s = .next t ∧ { k' with ibuf := k.ibuf, btb := k.btb } = k ∧
        Issued (modSeq s u.seq (fun x => { x with loads := [{ ctx := c, bank := b, ga := operandGa k z m, len := z, dest := dest,
                                                              before := k', idx := 0, since := 0, stamp := x.issued + 1,
                                                              rest := none, failed := none }] }))
          t u.seq b c (4 * dispLen m.disp) .seqn

/-- R251: a store stands in the buffer as one, whole or split at lines. A load with the only fetch beside it, whose youngest overlapping
store holds every byte of it, takes them from that store with its bundle, whatever memory holds; one whose youngest overlapping store
holds only some of them stalls, and only the bookkeeping of issue changes: the wait is one for an overlap, counted when it begins. -/
def Sys2Proof.Machine.LoadsMeetBufferedStores : Prop :=
  (∀ (sb : List SbEntry) (x : Seq) (c : Nat) (esc se : Bool) (ga : Nat) (bs : List Byte), bs ≠ [] →
    (∀ e, sb.getLast? = some e → e.pair = false) → bufStores (sb ++ bufferOf x c esc se ga bs) = bufStores sb ++ [(ga, bs)]) ∧
  ∀ (i : Instr) (u : Syl) (m : MemOp) (z al : Nat) (dest : LoadDest) (vec : Bool), loadForm i = some (u, m, z, al, dest, vec) →
    ∀ (s : State) (b : Fin 8) (c : Nat), AtBundle s u.seq b c (4 * dispLen m.disp) → u.stop = true →
      let k := bankOf s u.seq b
      let ga := operandGa k z m
      dSE (segReg k.lo m.seg) = false → (vec = true → (getCtx s c).novec = false) → operandOk s u.seq k .read z al m →
      (∀ n, dest = .seg n → n ≠ 0 ∧ (n = 1 → k.lo.stat.pl = 0)) →
      ∀ (old new : List (Nat × List Byte)) (a : Nat) (bs : List Byte), bufStores (s.seqs[u.seq.val]).sb = old ++ (a, bs) :: new →
        a < ga + z → ga < a + bs.length → (∀ e ∈ new, e.1 + e.2.length ≤ ga ∨ ga + z ≤ e.1) →
        let part := (bs.drop (ga - a)).take z
        (a ≤ ga → ga + z ≤ a + bs.length → sldLegal k part dest →
          ∃ t, exec i s = .next t ∧ Issued (modBank s u.seq b (fun k => loaded k part dest)) t u.seq b c (4 * dispLen m.disp) .seqn) ∧
        (ga < a ∨ a + bs.length < ga + z →
          ∃ t, exec i s = .next t ∧ (t.seqs[u.seq.val]).held = .overlap ∧
            (t.seqs[u.seq.val]).stalls = (s.seqs[u.seq.val]).stalls + 1 ∧
            (t.seqs[u.seq.val]).sbStall =
              (if (s.seqs[u.seq.val]).held = .overlap then (s.seqs[u.seq.val]).sbStall else satInc (s.seqs[u.seq.val]).sbStall) ∧
            Book s (modSeq t u.seq (fun x => { x with sbStall := (s.seqs[u.seq.val]).sbStall })) u.seq b c)

/-- R16, R51, R52, R252: LONG_LOAD_DATA_ARRIVAL of the only outstanding load whose bytes are poisoned, or whose memory answers with an
error, raises Memory Uncorrectable at the load's bundle with the GA: every bundle after it is taken back, with its registers, its stores, its
operations of the F slot and its multiply or divide, the job's guarantee is void, and memory keeps its bytes; the sequencer's
counters, the code lines and the branch targets stay. -/
def Sys2Proof.Machine.LongLoadsFailAtTheirBundle : Prop :=
  ∀ (s : State) (q : Fin 16) (l : LongLoad) (found : List (BitVec 57 × CodeWord)) (bad : Nat), (s.seqs[q.val]).loads = [l] →
    l.failed = none → l.rest = none → twf Ctx.free s.ctxs = true → Live (getCtx s l.ctx) →
    (getCtx s l.ctx).dying = false → (getCtx s l.ctx).fppend = false → (getCtx s l.ctx).defer = false → (getCtx s l.ctx).bopend = false →
    s.pages.any (·.held) = false →
    (∀ o ∈ (s.seqs[q.val]).fq, o.bank = l.bank → l.stamp ≤ o.stamp) → (∀ m, (s.seqs[q.val]).md = some m → m.bank = l.bank → l.stamp ≤ m.stamp) →
    let ms := Master.seq q l.before.lo.stat.esc
    let a := useSlots (meetErrors s ms l.ga l.len found) ms l.ctx (sectorsOf l.ga l.len)
    let r := gaRead a ms l.ga l.len
    r.error = some bad ∨ (r.error = none ∧ r.poison = some bad) →
    ∃ g, exec (.longLoadDataArrival q ⟨0, found⟩) s =
        .next (raiseExc g q l.bank l.ctx (Exc.plain 0x0D 0 l.before.pc (bad % 2 ^ 57) (some l.idx))) ∧
      (getCtx g l.ctx).void = true ∧ g.mem = s.mem ∧
      g.seqs = (modSeq s q (fun x => { x with
        banks := vset x.banks l.bank { l.before with ibuf := (x.banks[l.bank.val]).ibuf, btb := (x.banks[l.bank.val]).btb },
        loads := [], sb := x.sb.filter (fun e => decide (e.stamp < l.stamp)), open_ := [], slow := [],
        fq := x.fq.filter (fun o => decide (o.stamp < l.stamp)), md := x.md.filter (fun m => decide (m.stamp < l.stamp)) })).seqs

/-- R51, R247, R252, R254: LONG_LOAD_DATA_ARRIVAL of the only outstanding load, with intact bytes and, for SLD, a legal descriptor,
writes the load's register in its bank and ends the load; nothing else changes but what the memory notes of the errors found in
the units read and the eighth-slots that a metered context takes (R33). A load whose GA lies behind a block that holds, under
QUIESCE, waits (R482), and so does one with an older outstanding load of one of its bytes (R35, R48). -/
def Sys2Proof.Machine.LongLoadDataFillsTheRegister : Prop :=
  ∀ (s : State) (q : Fin 16) (l : LongLoad) (found : List (BitVec 57 × CodeWord)), (s.seqs[q.val]).loads = [l] →
    l.rest = none → l.failed = none → (∀ m, l.dest ≠ .mask m) → l.before.lo = (bankOf s q l.bank).lo →
    let ms := Master.seq q l.before.lo.stat.esc
    let e := meetErrors s ms l.ga l.len found
    let a := useSlots e ms l.ctx (sectorsOf l.ga l.len)
    let r := gaRead a ms l.ga l.len
    (waits s ms l.ga l.len = true → exec (.longLoadDataArrival q ⟨0, found⟩) s = .next s) ∧
    (waits s ms l.ga l.len = false → r.error = none → r.poison = none → r.unmapped = none → sldLegal l.before r.bytes l.dest →
    (∀ rd z sg, l.dest = .int rd z sg → l.len = z) → (∀ rd z, l.dest = .fp rd z → l.len = z ∧ (z = 4 ∨ z = 8)) →
    ∃ t, exec (.longLoadDataArrival q ⟨0, found⟩) s = .next t ∧ (found = [] → s.upset = [] → e = s) ∧
      (metered (getCtx e l.ctx) = false → a = e) ∧
      t = modBank (modSeq a q (fun x => { x with loads := [] })) q l.bank (fun k => loaded k r.bytes l.dest))

/-- R252: a load from outside the own scratchpad is outstanding until its data arrives, and then fills its register, or fails at its bundle.
Rests also on log entries 14, 129, 137, the model's choices. -/
def Obligations.LongLoads : Prop := LongLoadsAreOutstanding ∧ LongLoadsFailAtTheirBundle ∧ LongLoadDataFillsTheRegister

/-- R246, R247, R248: a store to the sequencer's own scratchpad (STB, STH, STW, STD, STF, STFS, SST), with a passing access check,
no older store to it or to a segment with SE buffered and a write that succeeds, is performed with its bundle, at the GA of its operand; nothing else changes but the PC, the loop
state and the bookkeeping of issue. -/
def Sys2Proof.Machine.ScratchpadStoresWriteAtIssue : Prop :=
  ∀ (i : Instr) (u : Syl) (m : MemOp) (z al : Nat) (val : Bank → List Byte) (vec : Bool), storeForm i = some (u, m, z, al, val, vec) →
    ∀ (s : State) (b : Fin 8) (c : Nat), AtBundle s u.seq b c (4 * dispLen m.disp) → u.stop = true →
      let k := bankOf s u.seq b
      let w := gaWrite s (.seq u.seq k.lo.stat.esc) (operandGa k z m) (val k)
      (vec = true → (getCtx s c).novec = false) → operandOk s u.seq k .write z al m →
      ownSp u.seq (operandGa k z m) = true → (∀ e ∈ (s.seqs[u.seq.val]).sb, ownSp u.seq e.ga = false ∧ e.se = false) →
      (dSE (segReg k.lo m.seg) = true → (s.seqs[u.seq.val]).sb = []) → seFree s u.seq c (segReg k.lo m.seg) → w.2 = none →
      ∃ t, exec i s = .next t ∧ Issued w.1 t u.seq b c (4 * dispLen m.disp) .seqn

/-- R248, R249, R251: any other store whose access check passes, and one to the own scratchpad behind an older one, or one to a segment with SE, that is buffered, or itself to such a segment behind any,
enters the store buffer, split at 64-byte lines, and memory keeps its
bytes; nothing else changes but the PC, the loop state and the bookkeeping of issue. -/
def Sys2Proof.Machine.OtherStoresEnterTheBuffer : Prop :=
  ∀ (i : Instr) (u : Syl) (m : MemOp) (z al : Nat) (val : Bank → List Byte) (vec : Bool), storeForm i = some (u, m, z, al, val, vec) →
    ∀ (s : State) (b : Fin 8) (c : Nat), AtBundle s u.seq b c (4 * dispLen m.disp) → u.stop = true →
      let k := bankOf s u.seq b
      (s.seqs[u.seq.val]).sb.length + 2 ≤ 8 → (vec = true → (getCtx s c).novec = false) →
      operandOk s u.seq k .write z al m →
      seFree s u.seq c (segReg k.lo m.seg) →
      (ownSp u.seq (operandGa k z m) = false
        ∨ ∃ e ∈ (s.seqs[u.seq.val]).sb, ownSp u.seq e.ga = true ∨ e.se = true ∨ dSE (segReg k.lo m.seg) = true) →
      ∃ t, exec i s = .next t ∧
        Issued (modSeq s u.seq (fun x => { x with sb := x.sb ++ bufferOf x c k.lo.stat.esc (dSE (segReg k.lo m.seg)) (operandGa k z m) (val k) }))
          t u.seq b c
          (4 * dispLen m.disp) .seqn

/-- R249, R253, R285 to R287, R409: STORE_BUFFER_SEND sends the next store in program order, every entry of a split one, while no
long load is outstanding; STORE_WRITE_ACK performs the write of an entry in flight, whatever older entries of other bytes do unless one
of the stores is to a segment with SE, once no block that it reaches holds, and the entry leaves the buffer; a write that fails is the deferred fault of the entry's context; PORT_B_COLLIDED_ANSWER to an entry in
flight for another sequencer's scratchpad counts the answer, at the sequencer and at the bank, and the entry stays, to be sent again, until the fourth answer, which
removes it and is its deferred fault. -/
def Sys2Proof.Machine.TheStoreBufferDrainsInOrder : Prop :=
  ∀ (s : State) (q : Fin 16),
    (∀ (sent g rest : List SbEntry) (h : SbEntry), (s.seqs[q.val]).sb = sent ++ g ++ h :: rest → (s.seqs[q.val]).loads = [] →
      (∀ x ∈ sent, x.sent = true) → (∀ x ∈ g, x.sent = false ∧ x.pair = true) → h.sent = false → h.pair = false →
      ∃ t, exec (.storeBufferSend q) s = .next t ∧ t = modSeq s q (fun x =>
        { x with sb := sent ++ g.map (fun e => { e with sent := true }) ++ { h with sent := true } :: rest })) ∧
    (∀ (i : Fin 8) (pre post : List SbEntry) (e : SbEntry), (s.seqs[q.val]).sb = pre ++ e :: post → pre.length = i.val → e.sent = true →
      ((∀ o ∈ pre, e.se = false ∧ o.se = false ∧ overlaps o.ga o.bytes.length e.ga e.bytes.length = false) →
        waits s (.seq q e.esc) e.ga e.bytes.length = false →
        let w := gaWrite s (.seq q e.esc) e.ga e.bytes
        ∃ t, exec (.storeWriteAck ⟨q, i⟩) s = .next t ∧ t.mem = w.1.mem ∧ t.poison = w.1.poison ∧
          t.seqs = (modSeq s q (fun x => { x with sb := without pre post })).seqs ∧
          (w.2 = none → t = useSlots (modSeq w.1 q (fun x => { x with sb := without pre post })) (.seq q e.esc) e.ctx
            (sectorsOf e.ga e.bytes.length)) ∧
          (w.2 ≠ none → twf Ctx.free s.ctxs = true → (getCtx s e.ctx).st ≠ .free →
            (getCtx t e.ctx).defer = true ∧ (getCtx t e.ctx).void = true)) ∧
      (otherSp q e.ga = true →
        (e.coll < 3 → ∃ t, exec (.portBCollidedAnswer (.store q i)) s = .next t ∧ collCounted s t e.ga ∧ t =
          modSeq { s with lms := { s.lms with coll := t.lms.coll } } q (fun x => { x with collided := satInc x.collided, sb := pre ++ { e with coll := e.coll + 1 } :: post })) ∧
        (3 ≤ e.coll → twf Ctx.free s.ctxs = true → (getCtx s e.ctx).st ≠ .free →
          ∃ t, exec (.portBCollidedAnswer (.store q i)) s = .next t ∧ t.mem = s.mem ∧ collCounted s t e.ga ∧
            t.seqs = (modSeq s q (fun x => { x with collided := satInc x.collided, sb := without pre post })).seqs ∧
            (getCtx t e.ctx).defer = true ∧ (getCtx t e.ctx).void = true)))

/-- R251, R285 to R287: stores to the own scratchpad write at issue; others enter the store buffer, which drains in order.
Rests also on log entries 14, 51, 52, 137, 138, 139, the model's choices. -/
def Obligations.StoresAndTheirBuffer : Prop := LoadsMeetBufferedStores ∧ ScratchpadStoresWriteAtIssue ∧ OtherStoresEnterTheBuffer ∧ TheStoreBufferDrainsInOrder

/-- R270, R271: SAVEL and SAVEH at PL0 or PL1, with nothing outstanding and their areas writable and written, store the record of
the lower or the upper half into their areas and change nothing else but the PC, the loop state and the bookkeeping of issue. -/
def Sys2Proof.Machine.SavesWriteTheirRecord : Prop :=
  ∀ (s : State) (u : Syl) (m : MemOp) (b : Fin 8) (c : Nat) (a : State), AtBundle s u.seq b c (4 * dispLen m.disp) → u.stop = true →
    let k := bankOf s u.seq b
    let d := segReg k.lo m.seg
    let ms := Master.seq u.seq k.lo.stat.esc
    (s.seqs[u.seq.val]).sb = [] → hasStore s c = false → k.lo.stat.pl ≠ 2 → fpCond k.lo.fcsr = false →
    (∀ offs, k.lo.stat.wt = false → areas s ms d k.lo.stat.pl.toNat .write (memOff k 64 m).toNat 1 = .ok offs →
      writeAreas s ms (dBase d) offs (lowerBytes k.lo) = (a, none) →
      ∃ t, exec (.savel u m) s = .next t ∧ Issued a t u.seq b c (4 * dispLen m.disp) .seqn) ∧
    (∀ offs, (getCtx s c).novec = false → areas s ms d k.lo.stat.pl.toNat .write (memOff k 64 m).toNat 9 = .ok offs →
      writeAreas s ms (dBase d) offs (upperBytes k.up (bits k.lo.fcsr.toNat 16 7)) = (a, none) →
      ∃ t, exec (.saveh u m) s = .next t ∧ Issued a t u.seq b c (4 * dispLen m.disp) .seqn)

/-- R270, R271: RESTL and RESTH at PL0 or PL1, with nothing outstanding, readable areas and, for RESTL, a legal record, take the
lower or the upper half from the record, and change nothing else but the PC, the loop state and the bookkeeping of issue. RESTL
keeps VSTART and the STAT fields that MTC may not write; its own bundle's loop-end check is that of the loop state before. -/
def Sys2Proof.Machine.RestoresReadTheirRecord : Prop :=
  ∀ (s : State) (u : Syl) (m : MemOp) (b : Fin 8) (c : Nat) (bs : List Byte), AtBundle s u.seq b c (4 * dispLen m.disp) →
    u.stop = true →
    let k := bankOf s u.seq b
    let d := segReg k.lo m.seg
    let ms := Master.seq u.seq k.lo.stat.esc
    (s.seqs[u.seq.val]).sb = [] → hasStore s c = false → k.lo.stat.pl ≠ 2 →
    (∀ offs, k.lo.stat.wt = false → areas s ms d k.lo.stat.pl.toNat .read (memOff k 64 m).toNat 1 = .ok offs →
      readAreas s ms (dBase d) offs = (bs, none) → lowerBad (natOf bs) = none →
      ∃ t, exec (.restl u m) s = .next t ∧
        Issued (modBank s u.seq b (fun k => { k with lo := lowerOf k.lo (natOf bs) })) t u.seq b c (4 * dispLen m.disp)
          (.taken (advance k.pc (4 * dispLen m.disp) .seqn k).pc false)) ∧
    (∀ offs, (getCtx s c).novec = false → areas s ms d k.lo.stat.pl.toNat .read (memOff k 64 m).toNat 9 = .ok offs →
      readAreas s ms (dBase d) offs = (bs, none) →
      ∃ t, exec (.resth u m) s = .next t ∧
        Issued (modBank s u.seq b (fun k => { k with up := upperOf bs })) t u.seq b c (4 * dispLen m.disp) .seqn)

/-- R268 to R275: SAVEL and SAVEH write their record, RESTL and RESTH read it back.
Rests also on log entry 14, the model's choice. -/
def Obligations.SavesAndRestores : Prop := SavesWriteTheirRecord ∧ RestoresReadTheirRecord

/-- R267: SPILLW at PL0 or PL1 with more than one window in use stores the 144-byte record of the oldest window at WSP - 144 in
s2, lowers WSP and counts the window out; FILLW with fewer than 7 reads the record at WSP back into the window below, raises WSP
and counts it in; with 1, or 7, they only go on. -/
def Sys2Proof.Machine.WindowSpillAndFill : Prop :=
  ∀ (s : State) (u : Syl) (b : Fin 8) (c : Nat), AtBundle s u.seq b c 4 → u.stop = true →
    let k := bankOf s u.seq b
    let d := segReg k.lo 2
    let ms := Master.seq u.seq k.lo.stat.esc
    let x := k.lo.stat
    (s.seqs[u.seq.val]).sb = [] → x.pl ≠ 2 →
    (x.wres = 1 → ∃ t, exec (.spillw u) s = .next t ∧ Issued s t u.seq b c 4 .seqn) ∧
    (x.wres ≠ 1 → segCheck s ms d x.pl.toNat .write (k.lo.wsp - 144).toNat 144 8 = none →
      let ga := dBase d + (k.lo.wsp - 144).toNat
      let bs := winBytes (k.lo.wins[(x.cwp.toNat + 9 - x.wres.toNat) % 8]'(Nat.mod_lt _ (by decide)))
      let a := if ownSp u.seq ga then (gaWrite s ms ga bs).1
        else modSeq s u.seq (fun y => { y with sb := bufferOf y c k.lo.stat.esc (dSE d) ga bs })
      (ownSp u.seq ga = true → (gaWrite s ms ga bs).2 = none) → seFree s u.seq c d →
      ∃ t, exec (.spillw u) s = .next t ∧
        Issued (modBank a u.seq b (fun k => { k with lo := { k.lo with
          wsp := k.lo.wsp - 144, stat := { k.lo.stat with wres := k.lo.stat.wres - 1 } } })) t u.seq b c 4 .seqn) ∧
    (x.wres = 7 → ∃ t, exec (.fillw u) s = .next t ∧ Issued s t u.seq b c 4 .seqn) ∧
    (x.wres ≠ 7 → (dSE d = true → hasStore s c = false) → segCheck s ms d x.pl.toNat .read k.lo.wsp.toNat 144 8 = none →
      let r := gaRead s ms (dBase d + k.lo.wsp.toNat) 144
      r.error = none → r.poison = none →
      ∃ t, exec (.fillw u) s = .next t ∧
        Issued (modBank s u.seq b (fun k => { k with lo := { k.lo with
            wins := vset k.lo.wins ⟨(x.cwp.toNat + 8 - x.wres.toNat) % 8, Nat.mod_lt _ (by decide)⟩ (winOf (natOf r.bytes)),
            wsp := k.lo.wsp + 144, stat := { k.lo.stat with wres := k.lo.stat.wres + 1 } } })) t u.seq b c 4 .seqn)

/-- R273, R274, R292: MFENCE with every load and store drained only goes on; ISYNC over a range within its segment's limit discards
the sequencer's code lines and branch targets of that range in every bank; IBUF_LINE_FILL of an absent line within s1 and
software LM, next after a line in the bank's partition or that of a predicted target, brings it in (R290), which takes the eighth-slots of a metered
context (R33), while no block that it reaches holds; FSYNC with nothing outstanding and no FP trap pending only goes on.
Rests also on log entries 14, 63, the model's choices. -/
def Obligations.FencesAndCodeLines : Prop :=
  ∀ (s : State) (u : Syl) (b : Fin 8) (c : Nat),
    (AtBundle s u.seq b c 4 → u.stop = true → (s.seqs[u.seq.val]).sb = [] → hasStore s c = false →
      (∃ t, exec (.mfence u) s = .next t ∧ Issued s t u.seq b c 4 .seqn) ∧
      (fpCond (bankOf s u.seq b).lo.fcsr = false → (getCtx s c).novec = false →
        ∃ t, exec (.fsync u) s = .next t ∧ Issued s t u.seq b c 4 .seqn) ∧
      (∀ (rd rb : Fin 32) (g : Fin 16),
        let l := (bankOf s u.seq b).lo
        let d := segReg l g
        let z := (rdInt l rd).toNat
        (z = 0 → ∃ t, exec (.isync u rd rb g) s = .next t ∧ Issued s t u.seq b c 4 .seqn) ∧
        (z ≠ 0 → dV d = true → (rdInt l rb).toNat + z - 1 ≤ dLimit d →
        ∃ t a, exec (.isync u rd rb g) s = .next t ∧ Issued a t u.seq b c 4 .seqn ∧ (∃ r, Book s r u.seq b c ∧
          a = discardCode r u.seq (dBase d + (rdInt l rb).toNat) z) ∧
          ∀ e : Fin 8, ∀ n ∈ (bankOf a u.seq e).ibuf, ¬ (n.ga.toNat < dBase d + (rdInt l rb).toNat + z
            ∧ dBase d + (rdInt l rb).toNat < n.ga.toNat + 64)))) ∧
    (∀ (q : Fin 16) (bank : Fin 8) (ga : BitVec 57) (c : Nat),
      let k := bankOf s q bank
      let g := ga.toNat - ga.toNat % 64
      let d := segReg k.lo 1
      k.occ = some c → lineOf k g = none → s.upset = [] → waits s (.seq q false) g 64 = false →
      ((64 ≤ g ∧ (lineOf k (g - 64)).isSome) ∨ ∃ e ∈ k.btb, e.2 / 64 = g / 64) → lmSoft ≤ g → g + 64 ≤ GiB * lmTopG s → dBase d < g + 64 → g ≤ dBase d + dLimit d →
      let a := useSlots s (.seq q false) c (sectorsOf g 64)
      ∃ t, exec (.ibufLineFill q bank ga) s = .next t ∧ t = modBank a q bank (fun k => putLine k (readLine a q g)))

namespace Sys2Proof.Machine

/-! ## The B and S slots -/

/-- A displacement of format BC, sign-extended and times 4 (R226). -/
def bdispSpec : BDisp → Word
  | .short v => BitVec.ofInt 64 (v.toInt * 4)
  | .long v => BitVec.ofInt 64 (v.toInt * 4)

def bdispLen : BDisp → Nat
  | .short _ => 1
  | .long _ => 2

/-- A branch: its place, its syllables, its condition and its target (R258). -/
def branchForm (k : Bank) : Instr → Option (Syl × Nat × Bool × Word)
  | .br u d => some (u, bdispLen d, true, k.pc + bdispSpec d)
  | .beqz u ra d => some (u, bdispLen d, decide (rdInt k.lo ra = 0), k.pc + bdispSpec d)
  | .bnez u ra d => some (u, bdispLen d, decide (rdInt k.lo ra ≠ 0), k.pc + bdispSpec d)
  | .bltz u ra d => some (u, bdispLen d, decide ((rdInt k.lo ra).toInt < 0), k.pc + bdispSpec d)
  | .bgez u ra d => some (u, bdispLen d, decide (0 ≤ (rdInt k.lo ra).toInt), k.pc + bdispSpec d)
  | .bgtz u ra d => some (u, bdispLen d, decide (0 < (rdInt k.lo ra).toInt), k.pc + bdispSpec d)
  | .blez u ra d => some (u, bdispLen d, decide ((rdInt k.lo ra).toInt ≤ 0), k.pc + bdispSpec d)
  | .jr u ra => some (u, 1, true, rdInt k.lo ra)
  | _ => none

/-- A call: its place, its syllables, its mask and its target (R264). -/
def callForm (k : Bank) : Instr → Option (Syl × Nat × BitVec 16 × Word)
  | .call u mask d => some (u, 2, mask, k.pc + BitVec.ofInt 64 (d.toInt * 4))
  | .callr u mask ra => some (u, 1, mask, rdInt k.lo ra)
  | _ => none

/-- The bytes of the g registers that a mask names, ascending (R264). -/
def maskBytes (l : Lower) (mask : BitVec 16) : List Byte :=
  ((List.finRange 16).filter (fun i => mask.getLsbD i.val)).flatMap (fun i => bytesOf (l.g[i.val]).toNat 8)

/-- A bank after CALL: g15 lowered by 8 a saved register, the next window taken, its return PC, mask and loop level kept, its
registers zero (R264). -/
def calledBank (k : Bank) (mask : BitVec 16) (ret : Word) : Bank :=
  let w : Win := { w := Vector.replicate 16 0, rpc := ret, rmask := mask, rld := k.lo.stat.ld }
  let st := { k.lo.stat with cwp := k.lo.stat.cwp + 1, wres := k.lo.stat.wres + 1 }
  { k with lo := { k.lo with
      g := k.lo.g.set 15 (k.lo.g[15] - BitVec.ofNat 64 (maskBytes k.lo mask).length),
      wins := vset k.lo.wins ⟨(k.lo.stat.cwp + 1).toNat, (k.lo.stat.cwp + 1).isLt⟩ w, stat := st } }

end Sys2Proof.Machine

/-- R258: BR, BEQZ, BNEZ, BLTZ, BGEZ, BGTZ, BLEZ and JR (its target a multiple of 4) complete: where the condition holds the bundle
ends at the target, otherwise after the bundle; no register and no memory changes but the PC and the loop state. -/
def Sys2Proof.Machine.BranchesGoToTheirTarget : Prop :=
  ∀ (s : State) (i : Instr) (u : Syl) (b : Fin 8) (c : Nat) (n : Nat) (p : Bool) (target : Word),
    branchForm (bankOf s u.seq b) i = some (u, n, p, target) → AtBundle s u.seq b c (4 * n) → u.stop = true →
    (∀ ra, i = .jr u ra → target.toNat % 4 = 0) →
    ∃ t, exec i s = .next t ∧ Issued s t u.seq b c (4 * n) (if p then .taken target true else .seqn)

/-- R258, R261, R262: at the end of a bundle at pc of len bytes with no loop open, the PC is the target of a taken branch, or the
address after the bundle, and no loop state changes. With the innermost loop ending at pc and a count above 1, the count falls by
1 and the PC is the loop's start; with a count of 1 the loop closes. A taken branch closes, from the innermost out, the loops whose
range from LPS to LPE its target leaves, and no count changes; a call or a return closes none here. -/
def Sys2Proof.Machine.TheEndOfABundle : Prop :=
  ∀ (k : Bank) (len : Nat) (target : Word) (closes : Bool) (l : Fin 4),
    (k.lo.stat.ld = 0 →
      advance k.pc len (.taken target closes) k = { k with pc := target } ∧
      advance k.pc len .seqn k = { k with pc := k.pc + BitVec.ofNat 64 len }) ∧
    (k.lo.stat.ld.toNat = l.val + 1 → k.lo.lpe[l.val] = k.pc → k.lo.lpc[l.val] ≠ 1 →
      advance k.pc len .seqn k =
        { k with pc := k.lo.lps[l.val], lo := { k.lo with lpc := k.lo.lpc.set l.val (k.lo.lpc[l.val] - 1) } }) ∧
    (k.lo.stat.ld.toNat ≤ 4 →
      let t := advance k.pc len (.taken target true) k
      let inside := fun (j : Fin 4) => (k.lo.lps[j.val]).toNat ≤ target.toNat ∧ target.toNat ≤ (k.lo.lpe[j.val]).toNat
      t = { k with pc := target, lo := { k.lo with stat := { k.lo.stat with ld := t.lo.stat.ld } } } ∧
      t.lo.stat.ld.toNat ≤ k.lo.stat.ld.toNat ∧ (∀ j : Fin 4, t.lo.stat.ld.toNat = j.val + 1 → inside j) ∧
      (∀ j : Fin 4, t.lo.stat.ld.toNat ≤ j.val → j.val < k.lo.stat.ld.toNat → ¬ inside j)) ∧
    advance k.pc len (.taken target false) k = { k with pc := target } ∧
    (k.lo.stat.ld = 1 → k.lo.lpe[0] = k.pc → k.lo.lpc[0] = 1 →
      advance k.pc len .seqn k = { k with pc := k.pc + BitVec.ofNat 64 len,
                                          lo := { k.lo with lpc := k.lo.lpc.set 0 0, stat := { k.lo.stat with ld := 0 } } })

/-- R259, R260: LOOP with a positive count, a last bundle that lies beyond its own and fewer than 4 loops open, opens a loop: LPS is
the address after its bundle, LPE that of the last bundle, LPC the count, LD one more; with a count of 0 it goes to the bundle
after the last, whose length FE reads up to its STOP bit; the length of one that cannot be read is a free value (log entry 141). Nothing else changes but the loop state, the PC and the bookkeeping of issue. -/
def Sys2Proof.Machine.LoopOpensALoop : Prop :=
  ∀ (s : State) (u : Syl) (ra : Fin 32) (d : BDisp) (b : Fin 8) (c : Nat), AtBundle s u.seq b c (4 * bdispLen d) → u.stop = true →
    let k := bankOf s u.seq b
    let last := k.pc + bdispSpec d
    (4 * bdispLen d : Int) ≤ (bdispSpec d).toInt →
    (∀ n : Fin 4, k.lo.stat.ld.toNat = n.val → rdInt k.lo ra ≠ 0 →
      ∃ t, exec (.loop u ra d) s = .next t ∧
        Issued (modBank s u.seq b (fun y => { y with lo := { y.lo with
            lps := vset k.lo.lps n (k.pc + BitVec.ofNat 64 (4 * bdispLen d)), lpe := vset k.lo.lpe n last,
            lpc := vset k.lo.lpc n (rdInt k.lo ra), stat := { k.lo.stat with ld := k.lo.stat.ld + 1 } } }))
          t u.seq b c (4 * bdispLen d) .seqn) ∧
    (k.lo.stat.ld.toNat < 4 → rdInt k.lo ra = 0 →
      ∃ r t, Book s r u.seq b c ∧ exec (.loop u ra d) s = .next t ∧
        let n := (skipLen r u.seq b (segReg k.lo 1) (dBase (segReg k.lo 1) + last.toNat) 11).2
        (∀ z, n = some z → Issued s t u.seq b c (4 * bdispLen d) (.skip (last + BitVec.ofNat 64 z))) ∧
        (n = none → ∃ z, 1 ≤ z ∧ z ≤ 11 ∧
          Issued { s with free := s.free + 1 } t u.seq b c (4 * bdispLen d) (.skip (last + BitVec.ofNat 64 (4 * z)))))

/-- R258 to R262: branches, the end of a bundle, and LOOP.
Rests also on log entries 14, 140, 141, the model's choices. -/
def Obligations.BranchesAndLoops : Prop := BranchesGoToTheirTarget ∧ TheEndOfABundle ∧ LoopOpensALoop

/-- R263, R264: CALL and CALLR (its target a multiple of 4) outside a trap, with a window free and a mask without g15, whose stack
bytes may be written, complete: the g registers of the mask are stored below g15 in s2, the next window is taken, and the PC is
the target; nothing else changes but the bookkeeping of issue. -/
def Sys2Proof.Machine.CallsTakeAWindow : Prop :=
  ∀ (s : State) (i : Instr) (u : Syl) (b : Fin 8) (c : Nat) (n : Nat) (mask : BitVec 16) (target : Word),
    callForm (bankOf s u.seq b) i = some (u, n, mask, target) → AtBundle s u.seq b c (4 * n) → u.stop = true →
    let k := bankOf s u.seq b
    let d := segReg k.lo 2
    let bs := maskBytes k.lo mask
    let o := (k.lo.g[15] - BitVec.ofNat 64 bs.length).toNat
    let ms := Master.seq u.seq k.lo.stat.esc
    (∀ m ra, i = .callr u m ra → target.toNat % 4 = 0) → (s.seqs[u.seq.val]).sb = [] →
    k.lo.stat.wt = false → k.lo.stat.wres ≠ 7 → mask.getLsbD 15 = false →
    (mask = 0 → (k.lo.g[15]).toNat % 8 = 0) →
    (mask ≠ 0 → segCheck s ms d k.lo.stat.pl.toNat .write o bs.length 8 = none) →
    let a := if mask = 0 then s else if ownSp u.seq (dBase d + o) then (gaWrite s ms (dBase d + o) bs).1
      else modSeq s u.seq (fun x => { x with sb := bufferOf x c k.lo.stat.esc (dSE d) (dBase d + o) bs })
    (mask ≠ 0 → ownSp u.seq (dBase d + o) = true → (gaWrite s ms (dBase d + o) bs).2 = none) → (mask ≠ 0 → seFree s u.seq c d) →
    ∃ t, exec i s = .next t ∧
      Issued (modBank a u.seq b (fun k => calledBank k mask (k.pc + BitVec.ofNat 64 (4 * n)))) t u.seq b c (4 * n)
        (.taken target false)

/-- R263, R265: RET outside a trap, with more than one window in use, returns to its window's return PC, gives the window back,
and raises g15 by 8 a saved register; where its window saved none, no register and no memory changes beside; where it saved some,
they come from the stack bytes at g15 in s2: at once from the own scratchpad, elsewhere by one long load that is outstanding; from
a segment with SE once no store of the context waits (R250). -/
def Sys2Proof.Machine.RetGivesTheWindowBack : Prop :=
  ∀ (s : State) (u : Syl) (b : Fin 8) (c : Nat), AtBundle s u.seq b c 4 → u.stop = true →
    let k := bankOf s u.seq b
    let w := k.lo.wins[(winIdx k.lo.stat).val]
    let d := segReg k.lo 2
    let ms := Master.seq u.seq k.lo.stat.esc
    let back := fun y : Bank => { y with lo := { y.lo with
      g := y.lo.g.set 15 (k.lo.g[15] + BitVec.ofNat 64 (maskBytes k.lo w.rmask).length),
      stat := { y.lo.stat with ld := if w.rld.toNat < k.lo.stat.ld.toNat then w.rld else k.lo.stat.ld,
                               cwp := k.lo.stat.cwp - 1, wres := k.lo.stat.wres - 1 } } }
    (s.seqs[u.seq.val]).sb = [] → k.lo.stat.wt = false → k.lo.stat.wres ≠ 1 →
    (w.rmask = 0 → (k.lo.g[15]).toNat % 8 = 0 →
      ∃ t, exec (.ret u) s = .next t ∧ Issued (modBank s u.seq b back) t u.seq b c 4 (.taken w.rpc false)) ∧
    (w.rmask ≠ 0 → (dSE d = true → hasStore s c = false) → ownSp u.seq (dBase d + (k.lo.g[15]).toNat) = false →
      segCheck s ms d k.lo.stat.pl.toNat .read (k.lo.g[15]).toNat (maskBytes k.lo w.rmask).length 8 = none →
      ∃ t k', exec (.ret u) s = .next t ∧ { k' with ibuf := k.ibuf, btb := k.btb } = k ∧
        Issued (modBank (modSeq s u.seq (fun x => { x with loads :=
          [{ ctx := c, bank := b, ga := dBase d + (k.lo.g[15]).toNat, len := (maskBytes k.lo w.rmask).length, dest := .mask w.rmask,
             before := k', idx := 0, since := 0, stamp := x.issued + 1, rest := none, failed := none }] })) u.seq b back) t u.seq b c 4 (.taken w.rpc false)) ∧
    (w.rmask ≠ 0 → (dSE d = true → hasStore s c = false) → ownSp u.seq (dBase d + (k.lo.g[15]).toNat) = true →
      segCheck s ms d k.lo.stat.pl.toNat .read (k.lo.g[15]).toNat (maskBytes k.lo w.rmask).length 8 = none →
      let r := gaRead s ms (dBase d + (k.lo.g[15]).toNat) (maskBytes k.lo w.rmask).length
      r.error = none → r.poison = none →
      ∃ t, exec (.ret u) s = .next t ∧
        Issued (modBank s u.seq b (fun k => back ((retWrites w.rmask (natOf r.bytes)).foldl (applyWrite (winIdx k.lo.stat)) k)))
          t u.seq b c 4 (.taken w.rpc false))

/-- R263 to R267: CALL, CALLR and RET take and give back windows; SPILLW and FILLW save and restore them.
Rests also on log entries 14, 64, 74, 140, the model's choices. -/
def Obligations.CallsReturnsAndWindows : Prop := WindowSpillAndFill ∧ CallsTakeAWindow ∧ RetGivesTheWindowBack

/-- R277: TRAP enters exception 0x10 with its code and the PC of the next bundle; BRK enters exception 0x11 with its own PC. R237,
R238: a bundle that breaks a rule of its encoding enters exception 0x01 with the sub-code and the index of the first break, none of
it executed: sub-code 1 for an opcode of the B slot that is not defined, sub-code 2 for SLOT 7. Nothing but the bookkeeping of issue
comes before. -/
def Sys2Proof.Machine.TrapsAndIllegalBundles : Prop :=
  (∀ (s : State) (u : Syl) (b : Fin 8) (c : Nat) (code : BitVec 16), AtBundle s u.seq b c 4 → u.stop = true →
    ∃ f, Book s f u.seq b c ∧
      exec (.trap u code) s = .next (countMask (raiseExc f u.seq b c { Exc.plain 0x10 0 ((bankOf s u.seq b).pc + 4) 0 (some 0) with
        tcode := code.toNat }) u.seq b c (1 + stallOf s u.seq)) ∧
      exec (.brk u) s = .next (countMask (raiseExc f u.seq b c (Exc.plain 0x11 0 (bankOf s u.seq b).pc 0 (some 0))) u.seq b c
        (1 + stallOf s u.seq))) ∧
  (∀ (s : State) (q : Fin 16) (b : Fin 8) (c : Nat) (ws : List Reg32) (f : SFault) (n : Nat), AtBundle s q b c (4 * n) →
    bundleFault (envOf s q b c) ws = some (f, n) →
    ∃ g, Book s g q b c ∧ exec (.illegalInstruction q ws) s =
      .next (raiseExc g q b c (Exc.plain 0x01 f.sub.toNat (bankOf s q b).pc 0 (some f.idx)))) ∧
  ∀ (e : Env) (w : Reg32),
    (w.toNat / 2 ^ 22 = 0x2FF → bundleFault e [w] = some (⟨3, 0, 0x01, 0x01, 0⟩, 1)) ∧
    (w.toNat / 2 ^ 28 % 8 = 7 → bundleFault e [w] = some (⟨2, 0, 0x01, 0x02, 0⟩, 1))

namespace Sys2Proof.Machine

/-- An access of z bytes at offset o: the checks of R327 in their order, each with the code and the sub-code of its failure (R328, R348),
and its fault address (R329) but for an unmapped byte. -/
def accessTests (s : State) (m : Master) (d : Desc256) (pl : Nat) (r : Right) (o z al : Nat) : List (Prop × (Nat × Nat × Option Nat)) :=
  [(dV d = false, (4, 2, some 0)), (dPlmax d < pl ∨ hasRight d r = false, (4, 4, some (dBase d + o))),
   ((dSE d = true ∧ o % z ≠ 0) ∨ (al ≠ 0 ∧ o % al ≠ 0), (4, 5, some (dBase d + o))),
   (dLimit d < o + z - 1, (3, 3, some (dBase d + max o (dLimit d + 1)))),
   (∃ j < z, place s m (dBase d + o + j) = none, (4, 1, none))]

/-- A bundle that consists of one command raises an exception at its own PC: nothing but the bookkeeping of issue comes before. -/
def Raises (i : Instr) (s : State) (q : Fin 16) (b : Fin 8) (c : Nat) (code sub ga : Nat) : Prop :=
  ∃ g, Book s g q b c ∧ exec i s = .next (raiseExc g q b c (Exc.plain code sub (bankOf s q b).pc ga (some 0)))

end Sys2Proof.Machine

/-- R259, R260, R264, R265, R327 to R329, R348: a load or a store whose access fails a check raises the code and the sub-code of the first
check that fails, at its bundle, with the lowest byte's GA; LOOP with four loops open raises Loop Nest; CALL, CALLR and RET in a window
trap raise Window Trap Nesting, CALL and CALLR with seven windows in use Window Overflow, RET with one Window Underflow. None of them has any
effect but the exception's entry. -/
def Sys2Proof.Machine.FaultsAreRaisedAtTheirBundle : Prop :=
  (∀ (s : State) (m : Master) (d : Desc256) (pl : Nat) (r : Right) (o z al : Nat), z ≠ 0 →
    (∀ x, segCheck s m d pl r o z al = some x → x.faddr.toNat < 2 ^ 57 ∧
      (x.sub = 1 → ∃ j < z, x.faddr = BitVec.ofNat 57 (dBase d + o + j) ∧ place s m (dBase d + o + j) = none ∧
        ∀ n < j, (place s m (dBase d + o + n)).isSome = true)) ∧
    FirstOf ((segCheck s m d pl r o z al).map (fun x => (x.code.toNat, x.sub.toNat, if x.sub = 1 then none else some x.faddr.toNat)))
      ((accessTests s m d pl r o z al).map (fun e => (e.1, e.2.1, e.2.2.1, e.2.2.2.map (· % 2 ^ 57))))) ∧
  (∀ (i : Instr) (u : Syl) (m : MemOp) (z al : Nat) (r : Right) (vec : Bool),
    (∃ dest, loadForm i = some (u, m, z, al, dest, vec) ∧ r = .read) ∨ (∃ val, storeForm i = some (u, m, z, al, val, vec) ∧ r = .write) →
    ∀ (s : State) (b : Fin 8) (c : Nat), AtBundle s u.seq b c (4 * dispLen m.disp) → u.stop = true →
      let k := bankOf s u.seq b
      (vec = true → (getCtx s c).novec = false) → (∀ sn, i = .sld u sn m → sn ≠ 0 ∧ (sn = 1 → k.lo.stat.pl = 0)) →
      ∀ x, segCheck s (.seq u.seq k.lo.stat.esc) (segReg k.lo m.seg) k.lo.stat.pl.toNat r (memOff k z m).toNat z al = some x →
        Raises i s u.seq b c x.code.toNat x.sub.toNat x.faddr.toNat) ∧
  (∀ (s : State) (u : Syl) (ra : Fin 32) (d : BDisp) (b : Fin 8) (c : Nat), AtBundle s u.seq b c (4 * bdispLen d) → u.stop = true →
    (4 * bdispLen d : Int) ≤ (bdispSpec d).toInt → (bankOf s u.seq b).lo.stat.ld.toNat = 4 → Raises (.loop u ra d) s u.seq b c 0x0A 0 0) ∧
  ∀ (s : State) (u : Syl) (b : Fin 8) (c : Nat), u.stop = true →
    let k := bankOf s u.seq b
    let st := k.lo.stat
    (∀ (i : Instr) (n : Nat) (mask : BitVec 16) (target : Word), callForm k i = some (u, n, mask, target) →
      AtBundle s u.seq b c (4 * n) → (∀ m ra, i = .callr u m ra → target.toNat % 4 = 0) → mask.getLsbD 15 = false →
      seFree s u.seq c (segReg k.lo 2) →
      (st.wt = true → Raises i s u.seq b c 0x09 0 0) ∧ (st.wt = false → st.wres = 7 → Raises i s u.seq b c 0x07 0 0)) ∧
    (AtBundle s u.seq b c 4 → (st.wt = true → Raises (.ret u) s u.seq b c 0x09 0 0) ∧
      (st.wt = false → st.wres = 1 →
        Raises (.ret u) s u.seq b c 0x08 0 0))

/-- R334, R336: taking an exception outside escalation and a window trap, with fewer than 4 frames, a handler that can be entered
and a frame that is written: the frame's 128 bytes stand at TSBP + 128 × FDEPTH; FDEPTH is one more, and its shadow holds the old
level; the PC is the handler's, the level its level, GM set where the entry or the old STAT says so, LD and VSTART 0, s1 the
handler's code; s2 and g15 are the handler's stack where the level changes, and keep their values where it does not. -/
def Sys2Proof.Machine.ExceptionEntry : Prop :=
  ∀ (s a : State) (q : Fin 16) (b : Fin 8) (c : Nat) (x : Exc) (hpc : Word) (nl : Nat) (gm : Bool) (d : Desc256)
    (st : Option (Desc256 × Word)), twf Ctx.free s.ctxs = true → s.upset = [] →
    let k := bankOf s q b
    let y := getCtx s c
    k.lo.stat.esc = false → k.lo.stat.wt = false → y.fdepth.toNat < 4 → entryPlan s q k x.code = .go hpc nl gm d st →
    privRange s q (k.tsbp.toNat + 128 * y.fdepth.toNat) 128 = true →
    gaWrite s (.seq q false) (k.tsbp.toNat + 128 * y.fdepth.toNat) (frameBytes k x x.code x.sub 0) = (a, none) →
    let t := enterExc s q b c x false
    let k' := bankOf t q b
    t.mem = a.mem ∧ k'.pc = hpc ∧ k'.lo.stat.pl = BitVec.ofNat 2 nl ∧ k'.lo.stat.gm = (k.lo.stat.gm || gm) ∧
      k'.lo.stat.ld = 0 ∧ k'.lo.vstart = 0 ∧ k'.lo.stat.wt = (decide (x.code = 7 ∨ x.code = 8)) ∧
      k'.lo.segs[1] = d ∧ k'.lo.segs[2] = (match st with | some z => z.1 | none => k.lo.segs[2]) ∧
      k'.lo.g[15] = (match st with | some z => z.2 | none => k.lo.g[15]) ∧
      (∀ n : Fin 16, n ≠ 15 → k'.lo.g[n.val] = k.lo.g[n.val]) ∧ k'.lo.fcsr = k.lo.fcsr ∧ k'.up = k.up ∧
      (getCtx t c).fdepth = y.fdepth + 1 ∧ bits (getCtx t c).shadow.toNat (2 * y.fdepth.toNat) 2 = k.lo.stat.pl.toNat ∧
      (∀ e, e ≠ c → getCtx t e = getCtx s e)

/-- R339, R340: RETX at PL0 or PL1 outside escalation, whose frame at TSBP + 128 × (FDEPTH - 1) overlaps no buffered store, can be read, is well formed, holds a
level no more privileged than its shadow and holds no event source: PC, PL, GM, CT, LD, VSTART, g15, s1 and s2 come from the frame,
WT is 0, FDEPTH is one less, and no byte of memory changes. -/
def Sys2Proof.Machine.RetxRestoresTheFrame : Prop :=
  ∀ (s : State) (u : Syl) (b : Fin 8) (c : Nat), AtBundle s u.seq b c 4 → u.stop = true →
    let k := bankOf s u.seq b
    let y := getCtx s c
    let i := y.fdepth.toNat - 1
    let r := gaRead s (.seq u.seq false) (k.tsbp.toNat + 128 * i) 128
    let f := natOf r.bytes
    k.lo.stat.pl ≠ 2 → k.lo.stat.esc = false → y.fdepth ≠ 0 → privRange s u.seq (k.tsbp.toNat + 128 * i) 128 = true →
    forward (s.seqs[u.seq.val]).sb (k.tsbp.toNat + 128 * i) 128 = .none →
    r.error = none → r.poison = none → r.unmapped = none → frameOk f = true →
    bits y.shadow.toNat (2 * i) 2 ≤ bits f 64 2 → y.frameSrc.toList.getD i none = none →
    ∃ t, exec (.retx u) s = .next t ∧
      let k' := bankOf t u.seq b
      k'.pc = BitVec.ofNat 64 (bits f 0 64) ∧ k'.lo.stat.pl = BitVec.ofNat 2 (bits f 64 2) ∧ k'.lo.stat.gm = bit f 66 ∧
      k'.lo.stat.ct = bit f 67 ∧ k'.lo.stat.ld = BitVec.ofNat 3 (bits f 75 3) ∧ k'.lo.stat.wt = false ∧
      k'.lo.stat.cwp = k.lo.stat.cwp ∧ k'.lo.vstart = BitVec.ofNat 11 (bits f 256 11) ∧
      k'.lo.g[15] = BitVec.ofNat 64 (bits f 320 64) ∧ (∀ n : Fin 16, n ≠ 15 → k'.lo.g[n.val] = k.lo.g[n.val]) ∧
      k'.lo.wins = k.lo.wins ∧ k'.lo.segs[1] = BitVec.ofNat 256 (bits f 512 256) ∧
      k'.lo.segs[2] = BitVec.ofNat 256 (bits f 768 256) ∧ k'.up = k.up ∧ (getCtx t c).fdepth = y.fdepth - 1 ∧ t.mem = s.mem

/-- R332 to R344: exception entry, and RETX.
Rests also on log entry 14, the model's choice. -/
def Obligations.ExceptionEntryAndReturn : Prop := ExceptionEntry ∧ RetxRestoresTheFrame

/-- R276, R320: JEND with every store of the context and of the sequencer drained, no ticket outstanding and no FP trap or FP
Imprecise pending ends the job: the sequencer runs no
context, and the job is ending, completed, or failed where its guarantee is void. -/
def Sys2Proof.Machine.JendEndsTheJob : Prop :=
  ∀ (s : State) (u : Syl) (b : Fin 8) (c : Nat), AtBundle s u.seq b c 4 → u.stop = true →
    (s.seqs[u.seq.val]).sb = [] → hasStore s c = false → (∀ i : Fin 16, ((getCtx s c).tickets[i.val]).out = false) →
    fpCond (bankOf s u.seq b).lo.fcsr = false → (getCtx s c).fppend = false →
    ∃ t f, Book s f u.seq b c ∧ exec (.jend u) s = .next t ∧
      t = countMask (beginEnding (stopRunning f u.seq) c) u.seq b c (1 + stallOf s u.seq)

/-- R237, R238, R276, R277, R327, R348: traps, illegal bundles, faults at their bundle, and JEND.
Rests also on log entry 14, the model's choice. -/
def Obligations.TrapsIllegalBundlesAndTheEndOfAJob : Prop := TrapsAndIllegalBundles ∧ FaultsAreRaisedAtTheirBundle ∧ JendEndsTheJob

namespace Sys2Proof.Machine

/-- Word i of a list of bytes. -/
def wordOf (l : List Byte) (i : Nat) : Nat := natOf ((l.drop (8 * i)).take 8)

/-- The 64 bytes of a list at an offset, as a descriptor, a chain or the constants of a stream block (R60). -/
def lineAt (l : List Byte) (i : Nat) : BitVec 512 := BitVec.ofNat 512 (natOf ((l.drop i).take 64))

end Sys2Proof.Machine

/-- R60, R62, R73, R74: STRM of a block of 1,024 bytes, aligned to 64 and readable and writable, with every store of the context visible, a table entry held for
the context and a ticket slot free, issues the stream: its entry is issued with the block's GA and the copies that R74 names, the slot is outstanding with its generation one
more, and RD is the ticket, slot + 16 × generation. The block is read as it stands: descriptors, chain, constants, N and the status
from which the stream goes on: from START 0, WCOUNT, FIXN, FIXOVF and the flags 0, RESULT and CARRY the identity of its accumulating
step; a word of it that cannot be read makes the stream bad. -/
def Sys2Proof.Machine.StrmIssuesAStream : Prop :=
  ∀ (s : State) (u : Syl) (rd ra : Fin 32) (g : Fin 16) (b : Fin 8) (c : Nat) (e : Fin 64) (i : Fin 16),
    AtBundle s u.seq b c 4 → u.stop = true →
    let k := bankOf s u.seq b
    let x := getCtx s c
    let d := segReg k.lo g
    let ms := Master.seq u.seq k.lo.stat.esc
    let o := (rdInt k.lo ra).toNat
    let gen := (x.tickets[i.val]).gen + 1
    (s.seqs[u.seq.val]).sb = [] → hasStore s c = false → segCheck s ms d k.lo.stat.pl.toNat .read o 1024 0 = none →
    segCheck s ms d k.lo.stat.pl.toNat .write o 1024 0 = none → o % 64 = 0 →
    heldEntry s (pipeOf u.seq) c = some e → freeTicket x = some i →
    ∃ t st, exec (.strm u rd ra g) s = .next t ∧ getStream t (pipeOf u.seq) e = some st ∧
      st.phase = .issued ∧ st.ctx = c ∧ st.slot = i ∧ st.blk = dBase d + o ∧ st.segs = k.lo.segs ∧ st.pl = k.lo.stat.pl ∧
      st.traps = BitVec.ofNat 5 (k.lo.fcsr.toNat / 2 ^ 10) ∧ st.rm = BitVec.ofNat 3 (k.lo.fcsr.toNat / 2 ^ 6) ∧
      st.subn = k.lo.fcsr.getLsbD 9 ∧ st.ct = k.lo.stat.ct ∧ st.dl = x.dlslot ∧ st.be = x.be ∧
      ((getCtx t c).tickets[i.val]).out = true ∧ ((getCtx t c).tickets[i.val]).done = false ∧
      ((getCtx t c).tickets[i.val]).gen = gen ∧
      (∀ n, rdInt (bankOf t u.seq b).lo n = if n = rd then BitVec.ofNat 64 (i.val + 16 * gen.toNat) else rdInt k.lo n) ∧
      t.mem = s.mem ∧
      let r := gaRead s (.pipe (pipeOf u.seq)) (dBase d + o) 1024
      let start := wordOf r.bytes 32
      (readClean r = true → st.bad = none ∧ st.out = lineAt r.bytes 0 ∧ st.a = lineAt r.bytes 64 ∧ st.b = lineAt r.bytes 128 ∧
        st.chain = lineAt r.bytes 192 ∧ st.consts = lineAt r.bytes 0x340 ∧ st.n = strmN st ∧ st.start = start ∧ st.next = start ∧
        st.com = start ∧ st.saved = st.cur ∧
        (start = 0 → st.cur.wcount = 0 ∧ st.cur.fixn = 0 ∧ st.cur.fixovf = false ∧ st.cur.flags = 0 ∧
          st.cur.result = strmIdent st ∧ st.cur.carry = strmIdent st) ∧
        (start ≠ 0 → st.cur.wcount = wordOf r.bytes 33 ∧ st.cur.result = wordOf r.bytes 34 ∧ st.cur.carry = wordOf r.bytes 35 ∧
          st.cur.fixn = min (wordOf r.bytes 36 / 2 ^ 16 % 128) 64 ∧ st.cur.fixovf = bit (wordOf r.bytes 36) 23 ∧
          st.cur.flags.toNat = wordOf r.bytes 36 / 2 ^ 24 % 64)) ∧
      ((∃ j < 36, readClean (gaRead s (.pipe (pipeOf u.seq)) (dBase d + o + 8 * j) 8) = false) → st.bad.isSome = true)

/-- R75 to R77: STWAIT and STTEST of an outstanding ticket whose stream has ended without a fault free the slot and write its
status word to RD: bit 0 set, bit 1 where fix-up entries overflowed or exist, WCOUNT from bit 23; the stream's FP flags are added
to FCSR. STTEST of one that runs writes 0 and leaves the slot. -/
def Sys2Proof.Machine.WaitsReportAStream : Prop :=
  ∀ (s : State) (u : Syl) (rd ra : Fin 32) (b : Fin 8) (c : Nat) (i : Fin 16), AtBundle s u.seq b c 4 → u.stop = true →
    let k := bankOf s u.seq b
    let tk := (getCtx s c).tickets[i.val]
    tk.out = true → (rdInt k.lo ra).toNat = i.val + 16 * tk.gen.toNat →
    (tk.done = true → bits tk.fstat.toNat 0 8 = 0 → ∀ cmd : Instr, cmd = .stwait u rd ra ∨ cmd = .sttest u rd ra →
      ∃ t, exec cmd s = .next t ∧ ((getCtx t c).tickets[i.val]).out = false ∧
        (∀ n, rdInt (bankOf t u.seq b).lo n = if n = rd then statusWord tk else rdInt k.lo n) ∧
        (bankOf t u.seq b).lo.fcsr = k.lo.fcsr ||| BitVec.ofNat 32 (tk.fstat.toNat / 2 ^ 24 % 64) ∧ t.mem = s.mem) ∧
    (tk.done = false →
      ∃ t, exec (.sttest u rd ra) s = .next t ∧
        Issued (modBank s u.seq b (fun k => { k with lo := wrInt k.lo rd 0 })) t u.seq b c 4 .seqn)

/-- R73 to R77: STRM issues a stream; STWAIT and STTEST report it.
Rests also on log entry 14, the model's choice. -/
def Obligations.StreamIssueAndWaits : Prop := StrmIssuesAStream ∧ WaitsReportAStream

namespace Sys2Proof.Machine

/-! ## The F slot -/

/-- The operations of the catalogue in the register form: unit and OP (R112 to R130), place and arguments. -/
def vecForm : Instr → Option (Nat × Nat × Syl × FArgs)
  | .vmov u a => some (0, 0x00, u, a)
  | .vadd u a => some (0, 0x01, u, a)
  | .vsub u a => some (0, 0x02, u, a)
  | .vaddsat u a => some (0, 0x03, u, a)
  | .vsubsat u a => some (0, 0x04, u, a)
  | .vmin u a => some (0, 0x05, u, a)
  | .vmax u a => some (0, 0x06, u, a)
  | .vabs u a => some (0, 0x07, u, a)
  | .vneg u a => some (0, 0x08, u, a)
  | .vand u a => some (0, 0x09, u, a)
  | .vor u a => some (0, 0x0A, u, a)
  | .vxor u a => some (0, 0x0B, u, a)
  | .vandn u a => some (0, 0x0C, u, a)
  | .vnot u a => some (0, 0x0D, u, a)
  | .vshl u a => some (0, 0x10, u, a)
  | .vshr u a => some (0, 0x11, u, a)
  | .vsra u a => some (0, 0x12, u, a)
  | .vshli u a => some (0, 0x13, u, a)
  | .vshri u a => some (0, 0x14, u, a)
  | .vsrai u a => some (0, 0x15, u, a)
  | .vbfx u a => some (0, 0x18, u, a)
  | .vbfxs u a => some (0, 0x19, u, a)
  | .vbfi u a => some (0, 0x1A, u, a)
  | .vclz u a => some (0, 0x1C, u, a)
  | .vctz u a => some (0, 0x1D, u, a)
  | .vpopc u a => some (0, 0x1E, u, a)
  | .vcmpeq u a => some (0, 0x20, u, a)
  | .vcmpne u a => some (0, 0x21, u, a)
  | .vcmplt u a => some (0, 0x22, u, a)
  | .vcmple u a => some (0, 0x23, u, a)
  | .vcmpgt u a => some (0, 0x24, u, a)
  | .vcmpge u a => some (0, 0x25, u, a)
  | .vcvt u a => some (0, 0x28, u, a)
  | .vcvtsat u a => some (0, 0x29, u, a)
  | .vrsum u a => some (0, 0x30, u, a)
  | .vrmin u a => some (0, 0x31, u, a)
  | .vrmax u a => some (0, 0x32, u, a)
  | .vrcnt u a => some (0, 0x33, u, a)
  | .vrand u a => some (0, 0x34, u, a)
  | .vror u a => some (0, 0x35, u, a)
  | .vrxor u a => some (0, 0x36, u, a)
  | .vssum u a => some (0, 0x38, u, a)
  | .vsmin u a => some (0, 0x39, u, a)
  | .vsmax u a => some (0, 0x3A, u, a)
  | .vscnt u a => some (0, 0x3B, u, a)
  | .vsand u a => some (0, 0x3C, u, a)
  | .vsor u a => some (0, 0x3D, u, a)
  | .vsxor u a => some (0, 0x3E, u, a)
  | .vpsum u a => some (0, 0x40, u, a)
  | .vpsumx u a => some (0, 0x41, u, a)
  | .vmul u a => some (2, 0x00, u, a)
  | .vmulh u a => some (2, 0x01, u, a)
  | .vmulsat u a => some (2, 0x02, u, a)
  | .vdiv u a => some (2, 0x03, u, a)
  | .vrem u a => some (2, 0x04, u, a)
  | .vfdiv u a => some (2, 0x08, u, a)
  | .vfsqrt u a => some (2, 0x09, u, a)
  | .vfadd u a => some (3, 0x00, u, a)
  | .vfsub u a => some (3, 0x01, u, a)
  | .vfmul u a => some (3, 0x02, u, a)
  | .vfma u a => some (3, 0x03, u, a)
  | .vfms u a => some (3, 0x04, u, a)
  | .vfnma u a => some (3, 0x05, u, a)
  | .vfmin u a => some (3, 0x08, u, a)
  | .vfmax u a => some (3, 0x09, u, a)
  | .vfabs u a => some (3, 0x0A, u, a)
  | .vfneg u a => some (3, 0x0B, u, a)
  | .vfcmpeq u a => some (3, 0x10, u, a)
  | .vfcmpne u a => some (3, 0x11, u, a)
  | .vfcmplt u a => some (3, 0x12, u, a)
  | .vfcmple u a => some (3, 0x13, u, a)
  | .vfcmpgt u a => some (3, 0x14, u, a)
  | .vfcmpge u a => some (3, 0x15, u, a)
  | .vfcvt u a => some (3, 0x18, u, a)
  | .vfcvtz u a => some (3, 0x19, u, a)
  | .vfrsum u a => some (3, 0x20, u, a)
  | .vfrmin u a => some (3, 0x21, u, a)
  | .vfrmax u a => some (3, 0x22, u, a)
  | .vpermb u a => some (4, 0x00, u, a)
  | .vexpd u a => some (4, 0x01, u, a)
  | .vcmpr u a => some (4, 0x10, u, a)
  | .vperm u a => some (4, 0x11, u, a)
  | .vkpopc u a => some (4, 0x12, u, a)
  | .vhash u a => some (5, 0x00, u, a)
  | _ => none

/-- The directory operations in the register form (R150, R164). -/
def dirForm : Instr → Option (Nat × Syl × FArgs)
  | .dprobe u a => some (0x10, u, a)
  | .dins u a => some (0x11, u, a)
  | .dagg u a => some (0x12, u, a)
  | .ddel u a => some (0x13, u, a)
  | _ => none

/-- An operation queued by an F syllable of the bundle that issues next: its results as its act has them, the window of issue, and
the number of its bundle. -/
def queuedOp (s : State) (q : Fin 16) (b : Fin 8) : Act → Option FOp
  | .fop vd kd rd flags fix clears n =>
    some { bank := b, pc := (bankOf s q b).pc, vd := vd, kd := kd, rd := rd, flags := flags, fix := fix, clears := clears, cycles := n,
           win := winIdx (bankOf s q b).lo.stat, stamp := (s.seqs[q.val]).issued + 1 }
  | _ => none

/-- Syllables of an F command. -/
def fLen (a : FArgs) : Nat := if a.ext.isSome then 2 else 1

/-- One cycle more in which the pipe of a sequencer started an operation. -/
def pipeBusy (s : State) (q : Fin 16) : State := modPipe s (pipeOf q) (fun p => { p with busy := p.busy + 1 })

/-- The integer operations on elements of w bits, read as numbers: unsigned, and signed for the types i8 to i64 (R112). -/
def sgn (w n : Nat) : Int := if n < 2 ^ (w - 1) then n else (n : Int) - 2 ^ w
def wrap (w : Nat) (n : Int) : Nat := (n % 2 ^ w).toNat
def clampTo (lo hi n : Int) : Int := if n < lo then lo else if hi < n then hi else n

/-- What R112 and R115 give for an integer operation of the ALU units on elements of w bits. -/
def aluElement (op w : Nat) (signed : Bool) (a b : Nat) : Option Nat :=
  let x : Int := if signed then sgn w a else a
  let y : Int := if signed then sgn w b else b
  let lo : Int := if signed then -(2 ^ (w - 1)) else 0
  let hi : Int := if signed then 2 ^ (w - 1) - 1 else 2 ^ w - 1
  match op with
  | 0x00 => some a
  | 0x01 => some (wrap w (x + y))
  | 0x02 => some (wrap w (x - y))
  | 0x03 => some (wrap w (clampTo lo hi (x + y)))
  | 0x04 => some (wrap w (clampTo lo hi (x - y)))
  | 0x05 => some (if x < y then a else b)
  | 0x06 => some (if x < y then b else a)
  | 0x07 => some (if x < 0 then wrap w (clampTo lo hi (-x)) else a)
  | 0x08 => some (wrap w (-x))
  | 0x09 => some (a &&& b)
  | 0x0A => some (a ||| b)
  | 0x0B => some (a ^^^ b)
  | 0x0C => some (a &&& (2 ^ w - 1 - b))
  | 0x0D => some (2 ^ w - 1 - a)
  | _ => none

/-- An element of an integer type as a number. -/
def elVal (t n : Nat) : Int := if t < 4 then sgn (tyW t) n else n

/-- The bytes of PERMB (R125), from bit 0 on. -/
def permWord (a b : Nat) : Nat :=
  ((List.range 8).map (fun j => permByteSpec (BitVec.ofNat 64 a) (BitVec.ofNat 64 b) j * 2 ^ (8 * j))).sum

/-- The reference algorithm of R131 on a pattern of some bytes. -/
def hashSpec (v size seed : Nat) : Nat :=
  let x : BitVec 64 := BitVec.ofNat 64 v ^^^ (BitVec.ofNat 64 seed * 0xA3B195C2D4E6F781#64) ^^^ BitVec.ofNat 64 (size * 2 ^ 56)
  let x := x * 0x6C8E9CF570932B4D#64
  let x := x ^^^ (x >>> 29)
  let x := x * 0xA3B195C2D4E6F781#64
  (x ^^^ (x >>> 32)).toNat

/-- What R112, R113, R120, R121, R125, R131 and R197 give for an operation on integer elements: t is the type T, st the type S of a
comparison, a conversion or a hash. -/
def catInteger (unit op t st imm a b : Nat) : Option Nat :=
  let w := tyW t
  let x := elVal t a
  let y := elVal t b
  let lo : Int := if t < 4 then -(2 ^ (w - 1)) else 0
  let hi : Int := if t < 4 then 2 ^ (w - 1) - 1 else 2 ^ w - 1
  let l := imm % 64
  let k := imm / 64 % 128
  let q : Int := if decide (x < 0) = decide (y < 0) then x.natAbs / y.natAbs else -(x.natAbs / y.natAbs : Nat)
  if unit ≤ 1 then
    if op < 0x10 then aluElement op w (decide (t < 4)) a b
    else match op with
    | 0x10 => some (if b < w then a * 2 ^ b % 2 ^ w else 0)
    | 0x11 => some (if b < w then a / 2 ^ b else 0)
    | 0x12 => some (wrap w (sgn w a / 2 ^ min b w))
    | 0x13 => some (if imm % 2 ^ 16 < w then a * 2 ^ (imm % 2 ^ 16) % 2 ^ w else 0)
    | 0x14 => some (if imm % 2 ^ 16 < w then a / 2 ^ (imm % 2 ^ 16) else 0)
    | 0x15 => some (wrap w (sgn w a / 2 ^ min (imm % 2 ^ 16) w))
    | 0x18 => some (a / 2 ^ l % 2 ^ k)
    | 0x19 => if 1 ≤ k ∧ l + k ≤ w then some (wrap w (sgn k (a / 2 ^ l % 2 ^ k))) else none
    | 0x1A => if 1 ≤ k ∧ l + k ≤ w then some (a / 2 ^ (l + k) * 2 ^ (l + k) + b % 2 ^ k * 2 ^ l + a % 2 ^ l) else none
    | 0x1C => some (if a = 0 then w else w - 1 - a.log2)
    | 0x1D => some (((List.range w).find? (fun i => a.testBit i)).getD w)
    | 0x1E => some ((List.range w).map (fun i => a / 2 ^ i % 2)).sum
    | 0x20 => some (if elVal st a = elVal st b then 1 else 0)
    | 0x21 => some (if elVal st a = elVal st b then 0 else 1)
    | 0x22 => some (if elVal st a < elVal st b then 1 else 0)
    | 0x23 => some (if elVal st b < elVal st a then 0 else 1)
    | 0x24 => some (if elVal st b < elVal st a then 1 else 0)
    | 0x25 => some (if elVal st a < elVal st b then 0 else 1)
    | 0x28 => some (wrap w (elVal st a))
    | 0x29 => some (wrap w (clampTo lo hi (elVal st a)))
    | _ => none
  else match unit, op with
  | 2, 0 => some (wrap w (x * y))
  | 2, 1 => some (wrap w (x * y / 2 ^ w))
  | 2, 2 => some (wrap w (clampTo lo hi (x * y)))
  | 2, 3 => some (if b = 0 then 2 ^ w - 1 else wrap w q)
  | 2, 4 => some (if b = 0 then a else wrap w (x - q * y))
  | 4, 0 => some (permWord a b)
  | 5, 0 => some (hashSpec a (tySize st) b)
  | _, _ => none

/-- The type of an operation's first operand. -/
def firstTy (unit op t st : Nat) : Nat := if unit ≤ 1 ∧ 0x20 ≤ op ∧ op ≤ 0x29 ∨ unit = 5 then st else t

/-- The values of a reduction over some elements, from its identity (R115, R116, R118): SUM, MIN, MAX, CNT, AND, OR, XOR. -/
def reduced (k t : Nat) (xs : List Nat) : Nat :=
  let w := tyW t
  match k with
  | 0 => wrap w ((xs.map (elVal t)).sum)
  | 1 => wrap w ((xs.map (elVal t)).foldl min (if t < 4 then 2 ^ (w - 1) - 1 else 2 ^ w - 1))
  | 2 => wrap w ((xs.map (elVal t)).foldl max (if t < 4 then -(2 ^ (w - 1)) else 0))
  | 3 => xs.sum
  | 4 => xs.foldl (· &&& ·) (2 ^ w - 1)
  | 5 => xs.foldl (· ||| ·) 0
  | _ => xs.foldl (· ^^^ ·) 0

/-- Node m of level l of the tree of R117 over the elements that are present. -/
def treeNode (f : Fmt) (rm : Nat) (x : Nat → Option Nat) : Nat → Nat → Option Nat
  | 0, m => x m
  | l + 1, m =>
    match treeNode f rm x l (2 * m), treeNode f rm x l (2 * m + 1) with
    | some a, some b => some (fpAdd f rm a b).val
    | some a, none => some a
    | none, y => y

/-! ## Floating point (R201, R205 to R208) -/

/-- The finite value that a pattern has, as an operation reads it: a subnormal is a zero (R208). -/
def FpValue (f : Fmt) (x : Nat) (v : ℝ) : Prop :=
  let ex := x / 2 ^ f.fb % 2 ^ f.eb
  let m : ℝ := if x / 2 ^ (f.eb + f.fb) % 2 = 1 then -((2 ^ f.fb + x % 2 ^ f.fb : Nat) : ℝ) else ((2 ^ f.fb + x % 2 ^ f.fb : Nat) : ℝ)
  ex < 2 ^ f.eb - 1 ∧ v = if ex = 0 then 0 else m * (2 : ℝ) ^ ((ex : Int) - (2 ^ (f.eb - 1) - 1) - f.fb)

/-- A pattern is a subnormal, a NaN, a signalling NaN, an infinity of a sign. -/
def fpIsSub (f : Fmt) (x : Nat) : Bool := decide (x / 2 ^ f.fb % 2 ^ f.eb = 0) && decide (x % 2 ^ f.fb ≠ 0)
def fpIsNan (f : Fmt) (x : Nat) : Bool := decide (x / 2 ^ f.fb % 2 ^ f.eb = 2 ^ f.eb - 1) && decide (x % 2 ^ f.fb ≠ 0)
def fpIsSig (f : Fmt) (x : Nat) : Bool := fpIsNan f x && decide (x / 2 ^ (f.fb - 1) % 2 = 0)
def fpIsInf (f : Fmt) (x : Nat) : Bool := decide (x / 2 ^ f.fb % 2 ^ f.eb = 2 ^ f.eb - 1) && decide (x % 2 ^ f.fb = 0)
def fpNegative (f : Fmt) (x : Nat) : Bool := decide (x / 2 ^ (f.eb + f.fb) % 2 = 1)
def fpSigned (f : Fmt) (neg : Bool) (x : Nat) : Nat := (if neg then 2 ^ (f.eb + f.fb) else 0) + x
def fpInfinity (f : Fmt) : Nat := (2 ^ f.eb - 1) * 2 ^ f.fb
def fpQuiet (f : Fmt) : Nat := (2 ^ f.eb - 1) * 2 ^ f.fb + 2 ^ (f.fb - 1)

/-- An integer is a number rounded in a mode (R205): RNE, RTZ, RUP, RDN, RMM. -/
def RoundsTo (rm : Nat) (k : ℝ) (n : Int) : Prop :=
  match rm with
  | 0 => |k - n| ≤ 1 / 2 ∧ (|k - n| = 1 / 2 → n % 2 = 0)
  | 1 => (0 ≤ k → (n : ℝ) ≤ k ∧ k < n + 1) ∧ (k < 0 → (n : ℝ) - 1 < k ∧ k ≤ n)
  | 2 => (n : ℝ) - 1 < k ∧ k ≤ n
  | 3 => (n : ℝ) ≤ k ∧ k < n + 1
  | _ => |k - n| ≤ 1 / 2 ∧ (|k - n| = 1 / 2 → |k| < |(n : ℝ)|)

/-- The pattern of an overflow (R206): infinity, or the largest finite value where the mode rounds toward it. -/
def overflowSpec (f : Fmt) (rm : Nat) (neg : Bool) : Nat :=
  fpSigned f neg (fpInfinity f - if rm = 1 ∨ (rm = 2 ∧ neg = true) ∨ (rm = 3 ∧ neg = false) then 1 else 0)

/-- A result is a nonzero exact value rounded once to a format, as if the exponent range were unbounded, and then an overflow, a zero for
a tiny value, or the rounded value with PE where it is not exact (R205 to R207). -/
def FpRounded (f : Fmt) (rm : Nat) (v : ℝ) (r : FpRes) : Prop :=
  ∃ e n : Int, (2 : ℝ) ^ e ≤ |v| ∧ |v| < (2 : ℝ) ^ (e + 1) ∧ RoundsTo rm (v / (2 : ℝ) ^ (e - f.fb)) n ∧
    let w : ℝ := n * (2 : ℝ) ^ (e - f.fb)
    let bias : Int := 2 ^ (f.eb - 1) - 1
    let big : ℝ := (2 ^ (f.fb + 1) - 1) * (2 : ℝ) ^ (bias - f.fb)
    let least : ℝ := (2 : ℝ) ^ (1 - bias)
    (big < |w| → ∀ neg, (neg = true ↔ v < 0) → r.val = overflowSpec f rm neg ∧ r.fl = 8 + 2 ∧ r.tiny = false) ∧
    (|w| < least → ∀ neg, (neg = true ↔ v < 0) → r.val = fpSigned f neg 0 ∧ r.fl = 4 + 2 ∧ r.tiny = true) ∧
    (least ≤ |w| → |w| ≤ big → FpValue f r.val w ∧ fpIsSub f r.val = false ∧ r.val < 2 ^ (f.eb + f.fb + 1) ∧ r.tiny = false ∧
      (w = v → r.fl = 0) ∧ (w ≠ v → r.fl = 2))

/-- A result with the flag of subnormal operands (R208). -/
def FpReads (f : Fmt) (xs : List Nat) (r r0 : FpRes) : Prop :=
  r = if xs.any (fpIsSub f) then { r0 with fl := r0.fl ||| 1, sub := true } else r0

end Sys2Proof.Machine

/-- R93, R97, R112 to R130, R232, R301: a register-form operation of the catalogue with a legal encoding, in a context with vector
state, alone in its bundle, with the bound pipe running and no operation queued, joins the queue of its sequencer's F-slot operations with the results of
the catalogue; no register changes until it completes. Nothing else changes but one busy cycle of the pipe, the PC, the loop state
and the bookkeeping of issue.
Rests also on log entries 14, 50, the model's choices. -/
def Obligations.CatalogueOperationsAreQueued : Prop :=
  ∀ (i : Instr) (unit op : Nat) (u : Syl) (a : FArgs), vecForm i = some (unit, op, u, a) →
    ∀ (s : State) (b : Fin 8) (c : Nat), AtBundle s u.seq b c (4 * fLen a) → u.stop = true → (getCtx s c).novec = false →
      pipeRuns s (pipeOf u.seq) = true → fReserved unit op a = false → fNonzero unit op a = false →
      ∃ t o, exec i s = .next t ∧ queuedOp s u.seq b (vecResult (envOf s u.seq b c) unit op a) = some o ∧
        Issued (pipeBusy (modSeq s u.seq (fun x => { x with fq := [o] })) u.seq) t u.seq b c (4 * fLen a) .seqn

/-- R95, R96: an element-wise operation of the units ALU, MUL and FMA with a vector result, without SC, writes the element i of VD,
for VSTART ≤ i < min(VL, C), with the catalogue's result where its mask is set, with 0 where it is not and MZ is 1, and leaves
every other element. C is the number of elements of the wider of its two types. -/
def Sys2Proof.Machine.ElementwiseOperationsFollowTheMask : Prop :=
  ∀ (s : State) (q : Fin 16) (b : Fin 8) (c unit op : Nat) (a : FArgs), (unit = 0 ∧ op < 0x30 ∨ unit = 2 ∨ unit = 3 ∧ op < 0x20) → isCmp unit op = false →
    a.ty.toNat < 11 → (extOf a).sc = false → (s.seqs[q.val]).fq = [] →
    let e := envOf s q b c
    let t := a.ty.toNat
    let st := srcTy unit op a
    let w := tyW t
    let up := e.k.up
    let n := 8192 / max w (tyW st)
    let km := rdK up (extOf a).km
    ∃ v fl fix cy, vecResult e unit op a = .fop (some (a.vd, v)) none none fl fix true cy ∧
      ∀ i < 8192 / w, el v.toNat w i =
        if e.k.lo.vstart.toNat ≤ i ∧ i < min e.k.lo.vl.toNat n then
          if km.getLsbD i then
            (catOp unit op t st (extOf a).aux.toNat (fcsrRM e.k.lo.fcsr) (el (vReg up st a.va) (tyW st) i)
              (if (extOf a).bs then (e.r a.vb).toNat % 2 ^ tyW st else el (vReg up st a.vb) (tyW st) i)
              (el (vReg up st ⟨(extOf a).aux.toNat % 32, Nat.mod_lt _ (by decide)⟩) (tyW st) i)).val % 2 ^ w
          else if (extOf a).mz then 0 else el (up.v[a.vd.val]).toNat w i
        else el (up.v[a.vd.val]).toNat w i

/-- R112, R113, R120, R121, R124, R125, R130, R131, R197: the operations of the units ALU0, ALU1 and MUL, PERMB and HASH on integer
elements give the integer result, wrapped or saturated to the type's width, and no flag: moves, sums, minima, logic, shifts, bit fields, counts,
comparisons, conversions, products, quotients and remainders. FP keys hash like their equals: -0 as +0, every NaN as the quiet one. -/
def Sys2Proof.Machine.IntegerElementOperations : Prop :=
  (∀ (unit op t st imm rm a b c r : Nat), firstTy unit op t st < 8 → (t < 8 ∨ unit ≤ 1 ∧ 0x20 ≤ op ∧ op ≤ 0x25 ∧ t = 11) →
    (unit = 4 → tyW t = 64) → (unit = 5 → t = 7) → a < 2 ^ tyW (firstTy unit op t st) →
    b < 2 ^ (if unit = 4 ∨ unit = 5 then 64 else tyW (firstTy unit op t st)) →
    catInteger unit op t st imm a b = some r →
    catOp unit op t st imm rm a b c = { val := r, fl := 0, tiny := false, sub := false }) ∧
  ∀ (st imm rm a seed c : Nat), st = 9 ∨ st = 10 → a < 2 ^ tyW st → seed < 2 ^ 64 →
    let f := tyFmt st
    let p := if fpIsNan f a then fpQuiet f else if a = 2 ^ (tyW st - 1) then 0 else a
    catOp 5 0 7 st imm rm a seed c = { val := hashSpec p (tySize st) seed, fl := 0, tiny := false, sub := false }

/-- R115 to R119, R126, R127, R135: what the register form writes for the operations that go through the active elements, those from VSTART
to min(VL, C) whose mask is set, with no operation queued. A whole-register reduction writes bits 63 to 0 of VD, its identity where no element is active; a
segmented one and a prefix sum write each active element, from the last end flag before it, or from the first; VEXPD and VPERM move
elements to the active places, VCMPR the active elements to the lowest places from 0 on (log entry 57), and VKPOPC counts a mask's bits
below VL. -/
def Sys2Proof.Machine.ReductionsScansAndPermutes : Prop :=
  ∀ (s : State) (q : Fin 16) (b : Fin 8) (c unit op : Nat) (a : FArgs), (s.seqs[q.val]).fq = [] → (extOf a).sc = false →
    let e := envOf s q b c
    let up := e.k.up
    let vl := e.k.lo.vl.toNat
    let mask := fun (r : Nat) => rdK up ⟨r % 8, Nat.mod_lt _ (by decide)⟩
    let old := (up.v[a.vd.val]).toNat
    let rm := fcsrRM e.k.lo.fcsr
    let gives := fun (v : BitVec 8192) => ∃ fl fix cy, vecResult e unit op a = .fop (some (a.vd, v)) none none fl fix true cy
    let idx := fun (n : Nat) => (List.range n).filter (fun i => decide (e.k.lo.vstart.toNat ≤ i) && decide (i < vl) && (mask (extOf a).km.val).getLsbD i)
    let low := fun (x : Nat) => BitVec.ofNat 8192 (old / 2 ^ 64 * 2 ^ 64 + x)
    (∀ t, a.ty.toNat = t → t < 8 → unit ≤ 1 → 0x30 ≤ op → op ≤ 0x36 → op ≠ 0x33 →
      let r := reduced (op - 0x30) t ((idx (8192 / tyW t)).map (el (up.v[a.va.val]).toNat (tyW t)))
      gives (low (wrap 64 (elVal t r)))) ∧
    (a.ty = 7 → unit ≤ 1 → op = 0x33 →
      gives (low (reduced 3 7 ((idx 128).map (fun i => if (mask a.va.val).getLsbD i then 1 else 0))))) ∧
    (∀ t, a.ty.toNat = t → t = 9 ∨ t = 10 → unit = 3 → op = 0x20 →
      let f := tyFmt t
      let x := fun i => if i ∈ idx (8192 / tyW t) then some (el (up.v[a.va.val]).toNat (tyW t) i) else none
      gives (low (match treeNode f rm x 9 0 with | some y => (fpAdd f rm 0 y).val | none => 0))) ∧
    (∀ t, a.ty.toNat = t → t < 8 → unit ≤ 1 → (0x38 ≤ op ∧ op ≤ 0x3E ∧ op ≠ 0x3B) ∨ op = 0x40 ∨ op = 0x41 →
      ∃ v, gives v ∧ ∀ i < 8192 / tyW t, el v.toNat (tyW t) i =
        if i ∈ idx (8192 / tyW t) then
          let ends := fun j => decide (0x38 ≤ op ∧ op ≤ 0x3E) && (mask (extOf a).aux.toNat).getLsbD j
          let upto := (idx (8192 / tyW t)).filter (fun j => (decide (j < i) || (decide (j = i) && decide (op ≠ 0x41)))
            && (List.range i).all (fun k => decide (k < j) || !ends k))
          reduced (if op < 0x40 then op - 0x38 else 0) t (upto.map (el (up.v[a.va.val]).toNat (tyW t)))
        else if (extOf a).mz = true ∧ e.k.lo.vstart.toNat ≤ i ∧ i < vl then 0 else el old (tyW t) i) ∧
    (∀ t, a.ty.toNat = t → t < 8 ∨ t = 9 ∨ t = 10 → unit = 4 → (extOf a).bs = false →
      let w := tyW t
      let src := (up.v[a.va.val]).toNat
      let kept := fun (i : Nat) => if (extOf a).mz = true ∧ e.k.lo.vstart.toNat ≤ i ∧ i < vl then 0 else el old w i
      (op = 0x01 → ∃ v, gives v ∧ ∀ i < 8192 / w, el v.toNat w i =
        if i ∈ idx (8192 / w) then el src w ((idx (8192 / w)).filter (· < i)).length else kept i) ∧
      (op = 0x11 → ∃ v, gives v ∧ ∀ i < 8192 / w, el v.toNat w i =
        if i ∈ idx (8192 / w) then el src w (el (up.v[a.vb.val]).toNat w i % (8192 / w)) else kept i) ∧
      (op = 0x10 → ∃ v, gives v ∧ ∀ i < 8192 / w, el v.toNat w i =
        match (idx (8192 / w))[i]? with | some j => el src w j | none => el old w i)) ∧
    (unit = 4 → op = 0x12 → ∃ fl fix cy, vecResult e unit op a = .fop none none
      (some (a.vd, BitVec.ofNat 64 ((List.range 1024).filter (fun i => decide (i < vl) && (mask a.va.val).getLsbD i)).length)) fl fix true cy)

/-- R87 to R90, R112 to R135: element operations follow the mask, and the catalogue computes what its tables say.
Rests also on log entry 57, the model's choice. -/
def Obligations.ElementOperations : Prop := ElementwiseOperationsFollowTheMask ∧ IntegerElementOperations ∧ ReductionsScansAndPermutes

/-- R122, R123, R201, R205 to R208, R216 to R220: an FP operation on finite operands rounds its exact result once to the format, in the
rounding mode; the result overflows, or is flushed to a zero where it is tiny, or is the rounded value with PE where it is not exact; subnormal
operands read as zeros and set DN. Exact zeros, NaNs, infinities and divisions by zero give what the tables say; comparisons order the values;
a conversion to an integer rounds, and saturates with IV what lies outside the type. -/
def Obligations.FloatingPointIsRoundedOnce : Prop :=
  (∀ (t imm rm a b c : Nat), t = 9 ∨ t = 10 → rm < 5 → a < 2 ^ tyW t → b < 2 ^ tyW t → c < 2 ^ tyW t →
    let f := tyFmt t
    let op := fun (unit n : Nat) => catOp unit n t t imm rm a b c
    let neg := fpNegative f
    (∀ x y z : ℝ, FpValue f a x → FpValue f b y → FpValue f c z →
      (∀ (unit n : Nat) (v : ℝ) (xs : List Nat),
        (unit, n, v, xs) ∈ [(3, 0x00, x + y, [a, b]), (3, 0x01, x - y, [a, b]), (3, 0x02, x * y, [a, b]), (3, 0x03, x * y + z, [a, b, c]),
          (3, 0x04, x * y - z, [a, b, c]), (3, 0x05, -(x * y) + z, [a, b, c])] ∨
        (unit = 2 ∧ n = 8 ∧ y ≠ 0 ∧ v = x / y ∧ xs = [a, b]) ∨ (unit = 2 ∧ n = 9 ∧ 0 ≤ x ∧ v = Real.sqrt x ∧ xs = [a]) →
        v ≠ 0 → ∃ r0, FpRounded f rm v r0 ∧ r0.sub = false ∧ FpReads f xs (op unit n) r0) ∧
      (∀ z0 : Bool, let r := FpReads f [a, b]
        (x + y = 0 → (z0 = true ↔ if x = 0 ∧ y = 0 ∧ neg a = neg b then neg a = true else rm = 3) → r (op 3 0x00) ⟨fpSigned f z0 0, 0, false, false⟩) ∧
        (x - y = 0 → (z0 = true ↔ if x = 0 ∧ y = 0 ∧ neg a ≠ neg b then neg a = true else rm = 3) → r (op 3 0x01) ⟨fpSigned f z0 0, 0, false, false⟩)) ∧
      (x * y = 0 → FpReads f [a, b] (op 3 0x02) ⟨fpSigned f (neg a != neg b) 0, 0, false, false⟩) ∧
      (y ≠ 0 → x = 0 → FpReads f [a, b] (op 2 8) ⟨fpSigned f (neg a != neg b) 0, 0, false, false⟩) ∧
      (y = 0 → x ≠ 0 → FpReads f [a, b] (op 2 8) ⟨fpSigned f (neg a != neg b) (fpInfinity f), 16, false, false⟩) ∧
      (y = 0 → x = 0 → FpReads f [a, b] (op 2 8) ⟨fpQuiet f, 32, false, false⟩) ∧
      (x = 0 → FpReads f [a] (op 2 9) ⟨fpSigned f (neg a) 0, 0, false, false⟩) ∧
      (x < 0 → FpReads f [a] (op 2 9) ⟨fpQuiet f, 32, false, false⟩) ∧
      (∀ n : Nat, n < 6 → ∀ p : Bool, (p = true ↔ [x = y, x ≠ y, x < y, x ≤ y, y < x, y ≤ x].getD n False) →
        FpReads f [a, b] (catOp 3 (0x10 + n) 11 t imm rm a b c) ⟨if p then 1 else 0, 0, false, false⟩) ∧
      (let below := fun (u v : ℝ) (m n : Nat) => u < v ∨ (u = v ∧ neg m = true ∧ neg n = false)
       let flushed := fun m : Nat => if fpIsSub f m then fpSigned f (neg m) 0 else m
       (below x y a b → FpReads f [a, b] (op 3 0x08) ⟨flushed a, 0, false, false⟩ ∧ FpReads f [a, b] (op 3 0x09) ⟨flushed b, 0, false, false⟩) ∧
       (below y x b a → FpReads f [a, b] (op 3 0x08) ⟨flushed b, 0, false, false⟩ ∧ FpReads f [a, b] (op 3 0x09) ⟨flushed a, 0, false, false⟩))) ∧
    (op 3 0x0A = ⟨a % 2 ^ (tyW t - 1), 0, false, false⟩ ∧ (op 3 0x0B).val % 2 ^ (tyW t - 1) = a % 2 ^ (tyW t - 1) ∧
      fpNegative f (op 3 0x0B).val = !neg a ∧ (op 3 0x0B).fl = 0) ∧
    (let sig := fun xs : List Nat => xs.any (fpIsSig f)
     let nan := fun xs : List Nat => xs.any (fpIsNan f)
     let quiet := fun (p : Bool) => (⟨fpQuiet f, if p then 32 else 0, false, false⟩ : FpRes)
     (nan [a, b] = true → ∀ e ∈ [(3, 0x00), (3, 0x01), (3, 0x02), (2, 0x08)], FpReads f [a, b] (op e.1 e.2) (quiet (sig [a, b]))) ∧
     (nan [a] = true → op 2 9 = quiet (sig [a])) ∧
     (nan [a, b] = true → FpReads f [a, b] (op 3 0x08) ⟨if fpIsNan f a && fpIsNan f b then fpQuiet f else
         (let m := if fpIsNan f a then b else a; if fpIsSub f m then fpSigned f (neg m) 0 else m), if sig [a, b] then 32 else 0, false, false⟩ ∧
       (op 3 0x09) = op 3 0x08 ∧
       ∀ n < 6, FpReads f [a, b] (catOp 3 (0x10 + n) 11 t imm rm a b c)
         ⟨if n = 1 then 1 else 0, if sig [a, b] = true ∨ 2 ≤ n then 32 else 0, false, false⟩) ∧
     (fpIsInf f a = true → (fpIsInf f b = true → neg a = neg b → op 3 0x00 = ⟨a, 0, false, false⟩) ∧
       (fpIsInf f b = true → neg a ≠ neg b → op 3 0x00 = quiet true) ∧ (fpIsInf f b = true → op 2 8 = quiet true) ∧
       ∀ y : ℝ, FpValue f b y → FpReads f [a, b] (op 3 0x00) ⟨a, 0, false, false⟩ ∧
         (y = 0 → FpReads f [a, b] (op 3 0x02) (quiet true) ∧
           (FpReads f [a, b, c] (op 3 0x03) (quiet true))) ∧
         (y ≠ 0 → FpReads f [a, b] (op 3 0x02) ⟨fpSigned f (neg a != neg b) (fpInfinity f), 0, false, false⟩)) ∧
     (fpIsInf f b = true → ∀ x : ℝ, FpValue f a x → FpReads f [a, b] (op 2 8) ⟨fpSigned f (neg a != neg b) 0, 0, false, false⟩))) ∧
  ∀ (t imm rm a b c : Nat), t = 8 ∨ t = 9 ∨ t = 10 → rm < 5 → a < 2 ^ tyW t →
    let f := tyFmt t
    (∀ it : Nat, it < 8 →
      (∀ i : Nat, i < 2 ^ tyW it → (elVal it i ≠ 0 → FpRounded f rm (elVal it i) (catOp 3 0x18 t it imm rm i b c)) ∧
        (elVal it i = 0 → catOp 3 0x18 t it imm rm i b c = ⟨0, 0, false, false⟩)) ∧
      ∀ mode n, (mode = rm ∧ n = 0x18) ∨ (mode = 1 ∧ n = 0x19) →
        let lo : Int := if it < 4 then -(2 ^ (tyW it - 1)) else 0
        let hi : Int := if it < 4 then 2 ^ (tyW it - 1) - 1 else 2 ^ tyW it - 1
        let conv := catOp 3 n it t imm rm a b c
        (fpIsNan f a = true → conv = ⟨0, 32, false, false⟩) ∧
        (fpIsInf f a = true → conv = ⟨wrap (tyW it) (if fpNegative f a then lo else hi), 32, false, false⟩) ∧
        ∀ (x : ℝ) (k : Int), FpValue f a x → RoundsTo mode x k →
          (k < lo → FpReads f [a] conv ⟨wrap (tyW it) lo, 32, false, false⟩) ∧
          (hi < k → FpReads f [a] conv ⟨wrap (tyW it) hi, 32, false, false⟩) ∧
          (lo ≤ k → k ≤ hi → (x = k → FpReads f [a] conv ⟨wrap (tyW it) k, 0, false, false⟩) ∧
            (x ≠ k → FpReads f [a] conv ⟨wrap (tyW it) k, 2, false, false⟩))) ∧
    ∀ g : Nat, g = 8 ∨ g = 9 ∨ g = 10 → g ≠ t → let conv := catOp 3 0x18 g t imm rm a b c
      (∀ x : ℝ, FpValue f a x → x ≠ 0 → ∃ r0, FpRounded (tyFmt g) rm x r0 ∧ r0.sub = false ∧ FpReads f [a] conv r0) ∧
      (FpValue f a 0 → FpReads f [a] conv ⟨fpSigned (tyFmt g) (fpNegative f a) 0, 0, false, false⟩) ∧
      (fpIsInf f a = true → conv = ⟨fpSigned (tyFmt g) (fpNegative f a) (fpInfinity (tyFmt g)), 0, false, false⟩) ∧
      (fpIsNan f a = true → conv = ⟨fpQuiet (tyFmt g), if fpIsSig f a then 32 else 0, false, false⟩)

/-- R95, R97, R204, R212, R225: F_SLOT_OP_COMPLETE of an operation without fix-up entries, while the bound pipe works and no long load
is outstanding, takes it off the queue, writes its vector, its mask (k0 keeps all ones) and its integer register, in the window of
its bundle, ORs its flags into FCSR, and clears VSTART where it processed elements; nothing
else of the bank changes, and nothing outside it but the queue.
Rests also on log entry 50, the model's choice. -/
def Obligations.CompletionWritesTheResults : Prop :=
  ∀ (s : State) (q : Fin 16) (o : FOp) (rest : List FOp), (s.seqs[q.val]).fq = o :: rest → o.fix = [] →
    (s.seqs[q.val]).loads = [] → pipeWorks s (pipeOf q) = true →
    ∃ t, exec (.fSlotOpComplete q) s = .next t ∧
      let k := bankOf s q o.bank
      let k' := bankOf t q o.bank
      (∀ r : Fin 32, k'.up.v[r.val] = (match o.vd with | some (d, v) => if d = r then v else k.up.v[r.val] | none => k.up.v[r.val])) ∧
      (∀ r : Fin 8, rdK k'.up r = (match o.kd with | some (d, v) => if d = r ∧ r ≠ 0 then v else rdK k.up r | none => rdK k.up r)) ∧
      (o.rd = none → k'.lo.g = k.lo.g ∧ k'.lo.wins = k.lo.wins) ∧
      (∀ d v, o.rd = some (d, v) → k'.lo.g = (wrIntIn k.lo o.win d v).g ∧ k'.lo.wins = (wrIntIn k.lo o.win d v).wins) ∧
      (o.win = winIdx k.lo.stat → ∀ r : Fin 32, rdInt k'.lo r = (match o.rd with | some (d, v) => if d = r then v else rdInt k.lo r | none => rdInt k.lo r)) ∧
      k'.lo.fcsr = k.lo.fcsr ||| o.flags.zeroExtend 32 ∧ k'.lo.vstart = (if o.clears then 0 else k.lo.vstart) ∧
      { k' with lo := k.lo, up := k.up } = k ∧ k'.up.fix = k.up.fix ∧
      { k'.lo with g := k.lo.g, wins := k.lo.wins, fcsr := k.lo.fcsr, vstart := k.lo.vstart } = k.lo ∧
      t = modBank (modSeq s q (fun x => { x with fq := rest })) q o.bank (fun _ => k')

/-- R93, R97, R234: while the bound pipe runs, MTF of type f64 or f32 queues a write of the low 64 bits of VD with RA, or with RA's low 32 bits; MFF queues a write
of RD with the low 64 or 32 bits of VA. Nothing else changes but the PC, the loop state and the bookkeeping of issue: a move
is no operation that PIPE_BUSY counts. -/
def Sys2Proof.Machine.MovesBetweenRegisterFilesAreQueued : Prop :=
  ∀ (s : State) (u : Syl) (vd va : Fin 32) (ty : BitVec 4) (b : Fin 8) (c : Nat), AtBundle s u.seq b c 4 → u.stop = true →
    (getCtx s c).novec = false → pipeRuns s (pipeOf u.seq) = true → (ty = 0xA ∨ ty = 0x9) →
    let k := bankOf s u.seq b
    let w := if ty = 0xA then 64 else 32
    let op (vr : Option (Fin 32 × BitVec 8192)) (rr : Option (Fin 32 × Word)) : FOp :=
      { bank := b, pc := k.pc, vd := vr, kd := none, rd := rr, flags := 0, fix := [], clears := false, cycles := 0,
        win := winIdx k.lo.stat, stamp := (s.seqs[u.seq.val]).issued + 1 }
    let queued (o : FOp) : State := modSeq s u.seq (fun x => { x with fq := [o] })
    (∃ t, exec (.mtf u vd va ty) s = .next t ∧
      Issued (queued (op (some (vd, BitVec.ofNat 8192
          ((k.up.v[vd.val]).toNat / 2 ^ 64 * 2 ^ 64 + (rdInt k.lo va).toNat % 2 ^ w))) none)) t u.seq b c 4 .seqn) ∧
    (∃ t, exec (.mff u vd va ty) s = .next t ∧
      Issued (queued (op none (some (vd, BitVec.ofNat 64 ((k.up.v[va.val]).toNat % 2 ^ w))))) t u.seq b c 4 .seqn)

/-- R98, R99, R234: with every store drained and the bound pipe running, VGATHER with a legal encoding whose active elements all pass their check and read intact takes each of them from
its address, zeroes or keeps the others, and clears VSTART; VSCATTER writes its active elements in ascending order. Nothing else
changes but busy cycles of the pipe, the PC, the loop state and the bookkeeping of issue. -/
def Sys2Proof.Machine.GatherAndScatter : Prop :=
  ∀ (s : State) (u : Syl) (a : FArgs) (b : Fin 8) (c : Nat), AtBundle s u.seq b c (4 * fLen a) → u.stop = true →
    (getCtx s c).novec = false → (s.seqs[u.seq.val]).sb = [] → hasStore s c = false → pipeRuns s (pipeOf u.seq) = true → gsEnc a = [] →
    let e := envOf s u.seq b c
    let k := bankOf s u.seq b
    let n : Fin 16 := ⟨(extOf a).aux.toNat % 16, Nat.mod_lt _ (by decide)⟩
    let d := segReg k.lo n
    let t := a.ty.toNat
    let v := vEnv e a (8192 / tyW t)
    let active := (vIdx v).filter (fun i => v.km.getLsbD i)
    dV d = true → dSE d = false →
    ((∀ i ∈ active, gsCheck e d false (gsOff e v a i) (tySize t) = none ∧
        (gaRead s e.m (dBase d + gsOff e v a i) (tySize t)).error = none ∧
        (gaRead s e.m (dBase d + gsOff e v a i) (tySize t)).poison = none) →
      ∃ t' x, exec (.vgather u a) s = .next t' ∧
        Issued (pipeBusy (modBank s u.seq b (fun k =>
          { k with up := { k.up with v := vset k.up.v a.vd x }, lo := { k.lo with vstart := 0 } })) u.seq)
          t' u.seq b c (4 * fLen a) .seqn ∧
        ∀ i < 8192 / tyW t, el x.toNat (tyW t) i =
          if i ∈ active then natOf (gaRead s e.m (dBase d + gsOff e v a i) (tySize t)).bytes
          else if i ∈ vIdx v ∧ (extOf a).mz = true then 0 else el (k.up.v[a.vd.val]).toNat (tyW t) i) ∧
    ((∀ i ∈ active, gsCheck e d true (gsOff e v a i) (tySize t) = none) →
      let ws := active.map (fun i => (dBase d + gsOff e v a i, bytesOf (el (k.up.v[a.vd.val]).toNat (tyW t) i) (tySize t)))
      (∀ j < ws.length, ((gaWrite ((ws.take j).foldl (fun a w => (gaWrite a e.m w.1 w.2).1) s) e.m (ws.getD j (0, [])).1
        (ws.getD j (0, [])).2).2 = none)) →
      ∃ t', exec (.vscatter u a) s = .next t' ∧
        Issued (pipeBusy (modBank (ws.foldl (fun a w => (gaWrite a e.m w.1 w.2).1) s) u.seq b (fun k =>
          { k with lo := { k.lo with vstart := 0 } })) u.seq) t' u.seq b c (4 * fLen a) .seqn)

/-- R98, R99, R234: MTF, MFF, VGATHER and VSCATTER.
Rests also on log entries 14, 54, 136, the model's choices. -/
def Obligations.MovesGatherAndScatter : Prop := MovesBetweenRegisterFilesAreQueued ∧ GatherAndScatter

namespace Sys2Proof.Machine

/-! ## The directory (R142 to R161) -/

/-- Bits of slot i of a bucket's line (R143, R144). -/
def slotField (line i lo n : Nat) : Nat := line / 2 ^ (128 * i + lo) % 2 ^ n

/-- The hash of a key (R131, R142): -0 hashes as +0, and every NaN as the quiet one. -/
def keyHash (x : Directory) (key : Nat) : Nat :=
  let t := x.ktype.toNat
  let f := tyFmt t
  hashSpec (if t < 8 then key else if fpIsNan f key then fpQuiet f else if key = 2 ^ (tyW t - 1) then 0 else key) (tySize t) x.seed.toNat

/-- Slot i of a line is the key entry of a hash, the entry of a hash with a payload, a link entry (R142 to R144). -/
def KeyAt (line h i : Nat) : Prop :=
  slotField line i 24 8 = 1 ∧ slotField line i 0 24 = h / 2 ^ 40 % 2 ^ 24 ∧ slotField line i 32 32 = h / 2 ^ 8 % 2 ^ 32
def keyWord (h pay : Nat) : Nat := h / 2 ^ 40 % 2 ^ 24 + 2 ^ 24 + 2 ^ 32 * (h / 2 ^ 8 % 2 ^ 32) + 2 ^ 64 * (pay % 2 ^ 64)
def linkWord (j : Nat) : Nat := 2 ^ 25 + 2 ^ 32 * j

/-- Buckets are the chain of a hash from its main bucket on, each linked from slot 3 of the one before (R142, R146). -/
def ChainOf (s : State) (x : Directory) (h : Nat) (js : List Nat) : Prop :=
  js[0]? = some (x.mainBase.toNat + h % 2 ^ x.mainLog2.toNat) ∧
  (∀ n, n + 1 < js.length → slotField (bucket s (js.getD n 0)) 3 24 8 = 2 ∧ slotField (bucket s (js.getD n 0)) 3 32 32 = js.getD (n + 1) 0) ∧
  ∀ j ∈ js, j < 2 ^ 24 ∧ (gaRead s .scarab (bucketGa j) 64).error = none

/-- The bucket-head cache holds each bucket once, in a line of its own, with what LM holds of it (R160). -/
def CacheOk (s : State) : Prop :=
  ∀ e ∈ s.dir.cache, e.2 < 262144 ∧ (∀ d ∈ s.dir.cache, d.1 = e.1 ∨ d.2 = e.2 → d = e) ∧
    ∀ i < 64, rdByte s (hcacheBase + 64 * e.2 + i) = rdByte s (bucketGa e.1 + i)

/-- Every slot of every bucket of the region is as before, but for a list of slots, each with what it holds now. -/
def SlotsBut (s t : State) (new : List ((Nat × Nat) × Nat)) : Prop :=
  ∀ j < 2 ^ 24, ∀ i < 4, slotField (bucket t j) i 0 128 = ((new.find? (fun e => decide (e.1 = (j, i)))).map (·.2)).getD (slotField (bucket s j) i 0 128)

/-- An operation on directory d retires with a result: it is counted, the buckets differ in the slots listed, and of the directory's record the
depth, the buckets used, the entries and SEQ are as a function gives; no other directory changes, and nothing but the memory and the engine. -/
def Retires (s : State) (d : Nat) (r : DirOut) (val : Nat) (new : List ((Nat × Nat) × Nat)) (f : Directory → Directory) : Prop :=
  r.bad = none ∧ r.val = val ∧ SlotsBut s r.st new ∧ r.st.dir.ops = s.dir.ops + 1 ∧ getDir r.st d = f (getDir s d) ∧
  (∀ k, k ≠ d → getDir r.st k = getDir s k) ∧ { r.st with mem := s.mem, dir := s.dir } = s

/-- An operation faults: nothing retires, no bucket and no directory changes. -/
def Overflows (s : State) (r : DirOut) (ga : Nat) : Prop :=
  r.bad = some (0x0F, ga) ∧ SlotsBut s r.st [] ∧ r.st.dir.ops = s.dir.ops ∧ r.st.dir.dirs = s.dir.dirs ∧
  { r.st with mem := s.mem, dir := s.dir } = s

end Sys2Proof.Machine

/-- R136, R142, R143, R146 to R151, R155, R160, R161: one directory operation on one element, with no error in the memories, walks the chain of its key. A key that is present gives its
payload, a new payload, or an empty slot; DPROBE and DDEL of an absent key answer MISS or 0; DINS and DAGG place it in the first empty slot
of the chain, or in a new overflow bucket behind its last one, within the declared depth and the overflow area, else they fault with Directory Overflow.
A clear filter bit answers DPROBE and DDEL without a walk. A main bucket that cannot be read makes the directory SUSPECT. -/
def Sys2Proof.Machine.DirectoryOperations : Prop :=
  ∀ (s : State) (d op var depth rm key b : Nat) (sg : Bool), s.MemOk → s.TablesOk → s.upset = [] → CacheOk s →
    op ∈ [0x10, 0x11, 0x12, 0x13] → dirVarOk op var = true → ¬(op = 0x12 ∧ (var = 4 ∨ var = 5)) → depth ≤ 7 → b < 2 ^ 64 →
    let x := getDir s d
    x.ktype.toNat < 8 ∨ x.ktype.toNat = 9 ∨ x.ktype.toNat = 10 → key < 2 ^ tyW x.ktype.toNat →
    let h := keyHash x key
    let r := dirOp s d op var depth rm sg key b
    let bit := x.filtBase.toNat + h / 2 ^ (64 - x.filtLog2.toNat)
    let skips := (op = 0x10 ∨ op = 0x13) ∧ x.fvalid = true ∧ filterGet s bit = false
    let ga := fun (j : Nat) => 0x100000000 + 64 * j
    let readable := s.poison = [] ∧ ¬skips
    (skips → Retires s d r (if op = 0x10 ∧ var = 0 then x.miss.toNat else 0) [] id ∧ r.st.mem = s.mem ∧
      r.st.dir.filtSkip = satInc s.dir.filtSkip) ∧
    (¬skips → bucketBad s (x.mainBase.toNat + h % 2 ^ x.mainLog2.toNat) = true →
      r.bad = some (0x0D, ga (x.mainBase.toNat + h % 2 ^ x.mainLog2.toNat)) ∧ r.st.mem = s.mem ∧ r.st.dir.ops = s.dir.ops ∧
      getDir r.st d = { x with st := if x.st = .ready then .suspect else x.st }) ∧
    ∀ js : List Nat, ChainOf s x h js → readable → js.length ≤ depth + 1 →
      let n := js.length - 1
      let j := js.getD n 0
      let before := ∀ k < n, ∀ i < 4, ¬KeyAt (bucket s (js.getD k 0)) h i
      let linked := slotField (bucket s j) 3 24 8 = 2
      (∀ i < 4, before → KeyAt (bucket s j) h i → (∀ k < i, ¬KeyAt (bucket s j) h k) →
        let p := slotField (bucket s j) i 64 64
        let gives := fun (v pay : Nat) => Retires s d r v [((j, i), keyWord h pay)] id
        (op = 0x10 → Retires s d r (if var = 0 then p else 1) [] id) ∧
        (op = 0x11 → (var = 0 ∨ var = 3 → Retires s d r p [] id) ∧ (var = 1 → gives p b) ∧ (var = 2 → Retires s d r 0 [] id)) ∧
        (op = 0x12 → let num := fun (v : Nat) => if sg then (BitVec.ofNat 64 v).toInt else (v : Int)
          (var = 0 → gives 0 (p + b)) ∧ (var = 1 → gives 0 (if num p ≤ num b then p else b)) ∧
          (var = 2 → gives 0 (if num b ≤ num p then p else b)) ∧ (var = 3 → gives 0 (p + 1)) ∧
          (∀ v, v = 6 ∨ v = 7 → var = v → gives 0 (catOp 3 (v + 2) 10 10 0 rm p b 0).val ∧ r.fl = (catOp 3 (v + 2) 10 10 0 rm p b 0).fl)) ∧
        (op = 0x13 → Retires s d r 1 [((j, i), 0)] (fun y => { y with entries := y.entries - 1 }))) ∧
      (before → (∀ i < 4, ¬KeyAt (bucket s j) h i) →
        (linked → js.length = depth + 1 → Overflows s r (ga j)) ∧
        (¬linked → op = 0x10 → Retires s d r (if var = 0 then x.miss.toNat else 0) [] id) ∧ (¬linked → op = 0x13 → Retires s d r 0 [] id) ∧
        (¬linked → op = 0x11 ∨ op = 0x12 →
          let pay := if op = 0x11 ∧ var = 3 then x.seq.toNat else if op = 0x12 ∧ var = 3 then 1 else b
          let val := if op = 0x12 ∨ var = 2 then 1 else if var = 1 then x.miss.toNat else pay
          let placed := fun (y : Directory) => { y with entries := y.entries + 1, seq := if op = 0x11 ∧ var = 3 then y.seq + 1 else y.seq }
          let hole := fun (k i : Nat) => k ≤ n ∧ i < 4 ∧ slotField (bucket s (js.getD k 0)) i 24 8 = 0
          let b' := x.ovfBase.toNat + x.ovfUsed.toNat
          (∀ k i, hole k i → (∀ k' i', hole k' i' → 4 * k + i ≤ 4 * k' + i') →
            Retires s d r val [((js.getD k 0, i), keyWord h pay)] placed ∧ (x.filtLog2 ≠ 0 → filterGet r.st bit = true)) ∧
          ((∀ k i, ¬hole k i) →
            (js.length = depth + 1 → Overflows s r (ga j)) ∧
            (js.length ≤ depth → x.ovfUsed.toNat = x.ovfCount.toNat → Overflows s r 0) ∧
            (js.length ≤ depth → x.ovfUsed.toNat ≠ x.ovfCount.toNat → b' < 2 ^ 24 → b' ∉ js → (gaRead s .scarab (bucketGa b') 64).error = none →
              Retires s d r val [((j, 3), linkWord b'), ((b', 0), slotField (bucket s j) 3 0 128), ((b', 1), keyWord h pay), ((b', 2), 0), ((b', 3), 0)]
                (fun y => { placed y with ovfUsed := y.ovfUsed + 1, depth := BitVec.ofNat 3 (max y.depth.toNat js.length) }) ∧
              (x.filtLog2 ≠ 0 → filterGet r.st bit = true)))))

/-- R149, R150, R164: DPROBE, DINS, DAGG and DDEL in the register form, with a legal encoding, the bound pipe running and every element served, complete with
their bundle: the state is that which the directory's operations leave, one busy cycle of the pipe more, with the end of the
bundle. -/
def Sys2Proof.Machine.DirectoryInstructionsCompleteWithTheirBundle : Prop :=
  ∀ (i : Instr) (op : Nat) (u : Syl) (a : FArgs), dirForm i = some (op, u, a) →
    ∀ (s : State) (b : Fin 8) (c : Nat), AtBundle s u.seq b c (4 * fLen a) → u.stop = true → (getCtx s c).novec = false →
      pipeRuns s (pipeOf u.seq) = true → dirEnc s c op a = [] →
      (∀ f, Book s f u.seq b c → (dirRegister (pipeBusy f u.seq) u.seq b c op (extOf a).aux a).2 = none) →
      ∃ t f, Book s f u.seq b c ∧ exec i s = .next t ∧
        t = countMask (modBank (dirRegister (pipeBusy f u.seq) u.seq b c op (extOf a).aux a).1 u.seq b
          (advance (bankOf s u.seq b).pc (4 * fLen a) .seqn)) u.seq b c (1 + stallOf s u.seq)

/-- R136 to R164: directory operations, and the directory instructions in the register form.
Rests also on log entries 14, 129, the model's choices. -/
def Obligations.DirectoryInstructionsOperate : Prop := DirectoryOperations ∧ DirectoryInstructionsCompleteWithTheirBundle

/-- R75, R76, R98, R99, R224, R234, R237, R252, R270, R271, R273, R274, R276, R277, R290: the forms that act alone in their bundle, the
moves and the accesses of the vector unit complete: MFENCE, FSYNC and ISYNC with everything drained go on; TRAP and BRK enter their
exception, and a bundle that breaks a rule of its encoding enters Illegal Instruction; JEND ends the job; STRM issues a stream;
STWAIT and STTEST report one that has ended; SAVEL and SAVEH store, RESTL and RESTH load a half; MTF and MFF enter the pipe's queue;
VGATHER loads and VSCATTER stores; and IBUF_LINE_FILL brings a code line in.
Rests also on log entries 14, 130, the model's choices. -/
def Obligations.FencesTrapsStreamsSavesAndMovesComplete : Prop :=
  ∀ (s : State) (u : Syl) (b : Fin 8) (c : Nat), u.stop = true →
    let q := u.seq
    let k := bankOf s q b
    let x := getCtx s c
    let own := Master.seq q k.lo.stat.esc
    let drained := (s.seqs[q.val]).sb = [] ∧ hasStore s c = false
    let goesOn := fun (t : State) (len : Nat) =>
      running t q = some (b, c) ∧ (k.lo.stat.ld = 0 → (bankOf t q b).pc = k.pc + BitVec.ofNat 64 len)
    (AtBundle s q b c 4 →
      (drained → ∃ t, exec (.mfence u) s = .next t ∧ goesOn t 4 ∧ t.mem = s.mem) ∧
      (drained → x.novec = false → fpCond k.lo.fcsr = false → ∃ t, exec (.fsync u) s = .next t ∧ goesOn t 4 ∧ t.mem = s.mem) ∧
      (∀ (rd rb : Fin 32) (g : Fin 16), drained →
        rdInt k.lo rd = 0 ∨ (dV (segReg k.lo g) = true ∧ (rdInt k.lo rb).toNat + (rdInt k.lo rd).toNat - 1 ≤ dLimit (segReg k.lo g)) →
        ∃ t, exec (.isync u rd rb g) s = .next t ∧ goesOn t 4 ∧ t.mem = s.mem) ∧
      (∀ code : BitVec 16, ∃ t f, exec (.trap u code) s = .next t ∧ Book s f q b c ∧
        t = countMask (raiseExc f q b c { Exc.plain 0x10 0 (k.pc + 4) 0 (some 0) with tcode := code.toNat }) q b c (1 + stallOf s q)) ∧
      (∃ t f, exec (.brk u) s = .next t ∧ Book s f q b c ∧
        t = countMask (raiseExc f q b c (Exc.plain 0x11 0 k.pc 0 (some 0))) q b c (1 + stallOf s q)) ∧
      (drained → (∀ i : Fin 16, (x.tickets[i.val]).out = false) → fpCond k.lo.fcsr = false → x.fppend = false →
        ∃ t, exec (.jend u) s = .next t ∧ running t q = none ∧ ((getCtx t c).st = .ending ∨ (getCtx t c).st = .free)) ∧
      (∀ (rd ra : Fin 32) (g : Fin 16) (e : Fin 64) (i : Fin 16), drained → (rdInt k.lo ra).toNat % 64 = 0 →
        segCheck s own (segReg k.lo g) k.lo.stat.pl.toNat .read (rdInt k.lo ra).toNat 1024 0 = none →
        segCheck s own (segReg k.lo g) k.lo.stat.pl.toNat .write (rdInt k.lo ra).toNat 1024 0 = none →
        heldEntry s (pipeOf q) c = some e → freeTicket x = some i →
        ∃ t v, exec (.strm u rd ra g) s = .next t ∧ goesOn t 4 ∧ getStream t (pipeOf q) e = some v ∧ v.phase = .issued ∧ v.ctx = c ∧
          v.slot = i ∧ v.blk = dBase (segReg k.lo g) + (rdInt k.lo ra).toNat ∧ ((getCtx t c).tickets[i.val]).out = true) ∧
      (∀ (rd ra : Fin 32) (i : Fin 16), let y := x.tickets[i.val]
        y.out = true → y.done = true → bits y.fstat.toNat 0 8 = 0 → (rdInt k.lo ra).toNat = i.val + 16 * y.gen.toNat →
        (∃ t, exec (.stwait u rd ra) s = .next t ∧ goesOn t 4 ∧ ((getCtx t c).tickets[i.val]).out = false ∧
          rdInt (bankOf t q b).lo rd = statusWord y) ∧
        ∃ t, exec (.sttest u rd ra) s = .next t ∧ goesOn t 4 ∧ ((getCtx t c).tickets[i.val]).out = false ∧
          rdInt (bankOf t q b).lo rd = statusWord y) ∧
      (∀ (vd va : Fin 32) (ty : BitVec 4), x.novec = false → pipeRuns s (pipeOf q) = true → ty = 0xA ∨ ty = 0x9 →
        (∃ t o, exec (.mtf u vd va ty) s = .next t ∧ goesOn t 4 ∧ t.mem = s.mem ∧ (t.seqs[q.val]).fq = [o] ∧
          (∃ v, o.vd = some (vd, v) ∧ v.toNat % 2 ^ 32 = (rdInt k.lo va).toNat % 2 ^ 32)) ∧
        ∃ t o, exec (.mff u vd va ty) s = .next t ∧ goesOn t 4 ∧ t.mem = s.mem ∧ (t.seqs[q.val]).fq = [o] ∧
          o.rd = some (vd, BitVec.ofNat 64 ((k.up.v[va.val]).toNat % 2 ^ (if ty = 0xA then 64 else 32))))) ∧
    (∀ (ws : List Reg32) (f : SFault) (n : Nat), AtBundle s q b c (4 * n) → bundleFault (envOf s q b c) ws = some (f, n) →
      ∃ t g, exec (.illegalInstruction q ws) s = .next t ∧ Book s g q b c ∧
        t = raiseExc g q b c (Exc.plain 0x01 f.sub.toNat k.pc 0 (some f.idx))) ∧
    (∀ (m : MemOp) (offs : List Nat), AtBundle s q b c (4 * dispLen m.disp) → drained → k.lo.stat.pl ≠ 2 → fpCond k.lo.fcsr = false →
      let d := segReg k.lo m.seg
      let o := (memOff k 64 m).toNat
      (∀ a, k.lo.stat.wt = false → areas s own d k.lo.stat.pl.toNat .write o 1 = .ok offs →
        writeAreas s own (dBase d) offs (lowerBytes k.lo) = (a, none) →
        ∃ t, exec (.savel u m) s = .next t ∧ goesOn t (4 * dispLen m.disp) ∧ t.mem = a.mem) ∧
      (∀ a, x.novec = false → areas s own d k.lo.stat.pl.toNat .write o 9 = .ok offs →
        writeAreas s own (dBase d) offs (upperBytes k.up (bits k.lo.fcsr.toNat 16 7)) = (a, none) →
        ∃ t, exec (.saveh u m) s = .next t ∧ goesOn t (4 * dispLen m.disp) ∧ t.mem = a.mem) ∧
      (∀ bs, k.lo.stat.wt = false → areas s own d k.lo.stat.pl.toNat .read o 1 = .ok offs → readAreas s own (dBase d) offs = (bs, none) →
        lowerBad (natOf bs) = none →
        ∃ t, exec (.restl u m) s = .next t ∧ running t q = some (b, c) ∧ t.mem = s.mem ∧ (bankOf t q b).up = k.up ∧
          (bankOf t q b).lo.g = (lowerOf k.lo (natOf bs)).g ∧ (bankOf t q b).lo.segs = (lowerOf k.lo (natOf bs)).segs) ∧
      (∀ bs, x.novec = false → areas s own d k.lo.stat.pl.toNat .read o 9 = .ok offs → readAreas s own (dBase d) offs = (bs, none) →
        ∃ t, exec (.resth u m) s = .next t ∧ goesOn t (4 * dispLen m.disp) ∧ t.mem = s.mem ∧ (bankOf t q b).up = upperOf bs)) ∧
    (∀ a : FArgs, AtBundle s q b c (4 * fLen a) → x.novec = false → drained → pipeRuns s (pipeOf q) = true → gsEnc a = [] →
      let e := envOf s q b c
      let d := segReg k.lo ⟨(extOf a).aux.toNat % 16, Nat.mod_lt _ (by decide)⟩
      let z := tySize a.ty.toNat
      let v := vEnv e a (8192 / tyW a.ty.toNat)
      let active := (vIdx v).filter (fun i => v.km.getLsbD i)
      dV d = true → dSE d = false →
      ((∀ i ∈ active, gsCheck e d false (gsOff e v a i) z = none ∧ (gaRead s e.m (dBase d + gsOff e v a i) z).error = none ∧
          (gaRead s e.m (dBase d + gsOff e v a i) z).poison = none) →
        ∃ t, exec (.vgather u a) s = .next t ∧ goesOn t (4 * fLen a) ∧ t.mem = s.mem ∧ (bankOf t q b).lo.vstart = 0 ∧
          ∀ i ∈ active, el ((bankOf t q b).up.v[a.vd.val]).toNat (tyW a.ty.toNat) i =
            natOf (gaRead s e.m (dBase d + gsOff e v a i) z).bytes) ∧
      ((∀ i ∈ active, gsCheck e d true (gsOff e v a i) z = none) →
        let ws := active.map (fun i => (dBase d + gsOff e v a i, bytesOf (el (k.up.v[a.vd.val]).toNat (tyW a.ty.toNat) i) z))
        let put := fun (l : List (Nat × List Byte)) => l.foldl (fun a w => (gaWrite a e.m w.1 w.2).1) s
        (∀ j < ws.length, (gaWrite (put (ws.take j)) e.m (ws.getD j (0, [])).1 (ws.getD j (0, [])).2).2 = none) →
        ∃ t, exec (.vscatter u a) s = .next t ∧ goesOn t (4 * fLen a) ∧ t.mem = (put ws).mem ∧ (bankOf t q b).lo.vstart = 0)) ∧
    ∀ ga : BitVec 57,
      let g := ga.toNat - ga.toNat % 64
      let d := segReg k.lo 1
      k.occ.isSome = true → lineOf k g = none → waits s (.seq q false) g 64 = false →
      (64 ≤ g ∧ (lineOf k (g - 64)).isSome = true) ∨ (∃ e ∈ k.btb, e.2 / 64 = g / 64) →
      lmSoft ≤ g → g + 64 ≤ GiB * lmTopG s → dBase d < g + 64 → g ≤ dBase d + dLimit d →
      ∃ t, exec (.ibufLineFill q b ga) s = .next t ∧ (lineOf (bankOf t q b) g).isSome = true ∧ t.mem = s.mem

namespace Sys2Proof.Machine

/-- A slot syllable of the I, M, B or S slot: STOP, SLOT, OP and the fields below bit 22 (R221, R228, R230, R231, R235). -/
def slotWord (stop : Bool) (slot op fields : Nat) : Reg32 :=
  BitVec.ofNat 32 ((if stop then 2 ^ 31 else 0) + slot * 2 ^ 28 + op * 2 ^ 22 + fields)

/-- An F syllable (R232). -/
def fWord (stop : Bool) (grp op6 : Nat) (a : FArgs) : Reg32 :=
  BitVec.ofNat 32 ((if stop then 2 ^ 31 else 0) + 4 * 2 ^ 28 + grp * 2 ^ 25 + op6 * 2 ^ 19 + a.vd.val * 2 ^ 14 + a.va.val * 2 ^ 9 +
    a.vb.val * 2 ^ 4 + a.ty.toNat)

/-- An X syllable, which ends its bundle or not (R226). -/
def xWord (stop : Bool) (x : BitVec 28) : Reg32 := BitVec.ofNat 32 ((if stop then 2 ^ 31 else 0) + 6 * 2 ^ 28 + x.toNat)

/-- The operand extension of R233. -/
def extWord (stop : Bool) (e : FExt) : Reg32 :=
  xWord stop (BitVec.ofNat 28 (e.km.val * 2 ^ 25 + (if e.mz then 2 ^ 24 else 0) + (if e.bs then 2 ^ 23 else 0) + (if e.sc then 2 ^ 22 else 0) +
    e.mbz.toNat * 2 ^ 16 + e.aux.toNat))

/-- The operations of three registers of the I slots (R229). -/
def irOps : List (Nat × (ISyl → Fin 32 → Fin 32 → Fin 32 → Instr)) :=
  [(0x00, .add), (0x01, .sub), (0x02, .and), (0x03, .or), (0x04, .xor), (0x05, .andn), (0x06, .shl), (0x07, .shr), (0x08, .sra),
   (0x09, .min), (0x0A, .max), (0x0B, .minu), (0x0C, .maxu), (0x0D, .cmpeq), (0x0E, .cmplt), (0x0F, .cmpltu), (0x13, .permb), (0x14, .mul),
   (0x15, .mulh), (0x16, .mulhu), (0x17, .div), (0x18, .divu), (0x19, .rem), (0x1A, .remu), (0x1B, .mulu)]

/-- Those of two registers (R229, R236). -/
def ir1Ops : List (Nat × (ISyl → Fin 32 → Fin 32 → Instr)) :=
  [(0x10, .clz), (0x11, .ctz), (0x12, .popc), (0x30, .mfc), (0x31, .mtc)]

/-- Those of an immediate, which an X may extend (R226, R229). -/
def iiOps : List (Nat × (ISyl → Fin 32 → Fin 32 → Imm → Instr)) :=
  [(0x20, .addi), (0x21, .andi), (0x22, .ori), (0x23, .xori), (0x27, .cmpeqi), (0x28, .cmplti), (0x29, .cmpltui)]

/-- The loads and stores of a register (R230). -/
def maOps : List (Nat × (Syl → Fin 32 → MemOp → Instr)) :=
  [(0x00, .ldb), (0x01, .ldh), (0x02, .ldw), (0x03, .ldd), (0x04, .ldbs), (0x05, .ldhs), (0x06, .ldws), (0x08, .stb), (0x09, .sth), (0x0A, .stw),
   (0x0B, .std), (0x0C, .ldf), (0x0D, .ldfs), (0x0E, .stf), (0x0F, .stfs)]

/-- The saves and restores of a half (R230). -/
def mhOps : List (Nat × (Syl → MemOp → Instr)) := [(0x18, .savel), (0x19, .saveh), (0x1A, .restl), (0x1B, .resth)]

/-- The branches on a register, and LOOP (R231). -/
def bcOps : List (Nat × (Syl → Fin 32 → BDisp → Instr)) :=
  [(0x01, .beqz), (0x02, .bnez), (0x03, .bltz), (0x04, .bgez), (0x05, .bgtz), (0x06, .blez), (0x08, .loop)]

/-- The forms without fields of the M and the B slot (R230, R231). -/
def bareOps : List (Nat × Nat × (Syl → Instr)) :=
  [(2, 0x20, .mfence), (2, 0x22, .spillw), (2, 0x23, .fillw), (3, 0x18, .ret), (3, 0x19, .retx), (3, 0x1A, .jend), (3, 0x1C, .brk)]

/-- The forms of the F slot by GRP and OP6, the low 6 bits of the catalogue's OP (R112 to R132, R149, R232, R234). -/
def fOps : List (Nat × Nat × (Syl → FArgs → Instr)) :=
  [(0, 0x00, .vmov), (0, 0x01, .vadd), (0, 0x02, .vsub), (0, 0x03, .vaddsat), (0, 0x04, .vsubsat), (0, 0x05, .vmin), (0, 0x06, .vmax),
   (0, 0x07, .vabs), (0, 0x08, .vneg), (0, 0x09, .vand), (0, 0x0A, .vor), (0, 0x0B, .vxor), (0, 0x0C, .vandn), (0, 0x0D, .vnot),
   (0, 0x10, .vshl), (0, 0x11, .vshr), (0, 0x12, .vsra), (0, 0x13, .vshli), (0, 0x14, .vshri), (0, 0x15, .vsrai), (0, 0x18, .vbfx),
   (0, 0x19, .vbfxs), (0, 0x1A, .vbfi), (0, 0x1C, .vclz), (0, 0x1D, .vctz), (0, 0x1E, .vpopc), (0, 0x20, .vcmpeq), (0, 0x21, .vcmpne),
   (0, 0x22, .vcmplt), (0, 0x23, .vcmple), (0, 0x24, .vcmpgt), (0, 0x25, .vcmpge), (0, 0x28, .vcvt), (0, 0x29, .vcvtsat),
   (0, 0x30, .vrsum), (0, 0x31, .vrmin), (0, 0x32, .vrmax), (0, 0x33, .vrcnt), (0, 0x34, .vrand), (0, 0x35, .vror), (0, 0x36, .vrxor),
   (0, 0x38, .vssum), (0, 0x39, .vsmin), (0, 0x3A, .vsmax), (0, 0x3B, .vscnt), (0, 0x3C, .vsand), (0, 0x3D, .vsor), (0, 0x3E, .vsxor),
   (1, 0x00, .vpsum), (1, 0x01, .vpsumx), (2, 0x00, .vmul), (2, 0x01, .vmulh), (2, 0x02, .vmulsat), (2, 0x03, .vdiv), (2, 0x04, .vrem),
   (2, 0x08, .vfdiv), (2, 0x09, .vfsqrt), (3, 0x00, .vfadd), (3, 0x01, .vfsub), (3, 0x02, .vfmul), (3, 0x03, .vfma), (3, 0x04, .vfms),
   (3, 0x05, .vfnma), (3, 0x08, .vfmin), (3, 0x09, .vfmax), (3, 0x0A, .vfabs), (3, 0x0B, .vfneg), (3, 0x10, .vfcmpeq),
   (3, 0x11, .vfcmpne), (3, 0x12, .vfcmplt), (3, 0x13, .vfcmple), (3, 0x14, .vfcmpgt), (3, 0x15, .vfcmpge), (3, 0x18, .vfcvt),
   (3, 0x19, .vfcvtz), (3, 0x20, .vfrsum), (3, 0x21, .vfrmin), (3, 0x22, .vfrmax), (4, 0x00, .vpermb), (4, 0x01, .vexpd),
   (4, 0x10, .vcmpr), (4, 0x11, .vperm), (4, 0x12, .vkpopc), (5, 0x00, .vhash), (5, 0x10, .dprobe), (5, 0x11, .dins), (5, 0x12, .dagg),
   (5, 0x13, .ddel), (6, 0x01, .vgather), (6, 0x02, .vscatter)]

end Sys2Proof.Machine

/-- R221, R222, R226, R228 to R235: the OP of a syllable, or its GRP and OP6, picks the command; the fields name its registers, segment,
immediate, displacement or operand extension, and an X gives the upper 28 bits of a value whose low 4 the syllable holds; STOP, of the
syllable or of its X, ends the bundle, whose syllables spell its commands in order. -/
def Obligations.SyllablesSpellTheirCommands : Prop :=
  ∀ (q : Fin 16) (n : Nat) (stop : Bool) (rd ra rb : Fin 32) (g : Fin 16),
    let u : Syl := ⟨q, stop⟩
    let one := fun (slot op fields : Nat) => instrOf q ⟨n, slotWord stop slot op fields, none⟩
    let two := fun (slot op fields : Nat) (x : BitVec 28) => instrOf q ⟨n, slotWord false slot op fields, some (xWord stop x)⟩
    (∀ i1 : Bool, let v : ISyl := ⟨q, stop, i1⟩
      let slot := if i1 then 1 else 0
      (∀ e ∈ irOps, one slot e.1 (rd.val * 2 ^ 17 + ra.val * 2 ^ 12 + rb.val * 2 ^ 7) = some (e.2 v rd ra rb)) ∧
      (∀ e ∈ ir1Ops, one slot e.1 (rd.val * 2 ^ 17 + ra.val * 2 ^ 12) = some (e.2 v rd ra)) ∧
      (∀ e ∈ iiOps,
        (∀ m : BitVec 12, one slot e.1 (rd.val * 2 ^ 17 + ra.val * 2 ^ 12 + m.toNat) = some (e.2 v rd ra (.short m))) ∧
        ∀ (x : BitVec 28) (m : BitVec 4), two slot e.1 (rd.val * 2 ^ 17 + ra.val * 2 ^ 12 + m.toNat) x =
          some (e.2 v rd ra (.long (BitVec.ofNat 32 (x.toNat * 16 + m.toNat))))) ∧
      (∀ m : BitVec 12, one slot 0x24 (rd.val * 2 ^ 17 + ra.val * 2 ^ 12 + m.toNat) = some (.shli v rd ra m) ∧
        one slot 0x25 (rd.val * 2 ^ 17 + ra.val * 2 ^ 12 + m.toNat) = some (.shri v rd ra m) ∧
        one slot 0x26 (rd.val * 2 ^ 17 + ra.val * 2 ^ 12 + m.toNat) = some (.srai v rd ra m) ∧
        one slot 0x2A (rd.val * 2 ^ 17 + m.toNat) = some (.li v rd (.short m)) ∧
        one slot 0x2B (rd.val * 2 ^ 17 + m.toNat) = some (.lih v rd (.short m))) ∧
      (∀ (x : BitVec 28) (m : BitVec 4), let w := BitVec.ofNat 32 (x.toNat * 16 + m.toNat)
        two slot 0x2A (rd.val * 2 ^ 17 + m.toNat) x = some (.li v rd (.long w)) ∧
        two slot 0x2B (rd.val * 2 ^ 17 + m.toNat) x = some (.lih v rd (.long w))) ∧
      ∀ lsb wm1 : BitVec 6, let f := rd.val * 2 ^ 17 + ra.val * 2 ^ 12 + lsb.toNat * 2 ^ 6 + wm1.toNat
        one slot 0x2C f = some (.bfx v rd ra lsb wm1) ∧ one slot 0x2D f = some (.bfxs v rd ra lsb wm1) ∧
        one slot 0x2E f = some (.bfi v rd ra lsb wm1)) ∧
    (∀ d : BitVec 8, let m : MemOp := ⟨g, rb, .short d⟩
      let f := g.val * 2 ^ 13 + rb.val * 2 ^ 8 + d.toNat
      (∀ e ∈ maOps, one 2 e.1 (rd.val * 2 ^ 17 + f) = some (e.2 u rd m)) ∧ (∀ e ∈ mhOps, one 2 e.1 f = some (e.2 u m)) ∧
      ∀ h : Fin 16, one 2 0x10 (h.val * 2 ^ 17 + f) = some (.sld u h m) ∧ one 2 0x11 (h.val * 2 ^ 17 + f) = some (.sst u h m)) ∧
    (∀ (x : BitVec 28) (d : BitVec 4), let m : MemOp := ⟨g, rb, .long (BitVec.ofNat 32 (x.toNat * 16 + d.toNat))⟩
      let f := g.val * 2 ^ 13 + rb.val * 2 ^ 8 + d.toNat
      (∀ e ∈ maOps, two 2 e.1 (rd.val * 2 ^ 17 + f) x = some (e.2 u rd m)) ∧ (∀ e ∈ mhOps, two 2 e.1 f x = some (e.2 u m)) ∧
      ∀ h : Fin 16, two 2 0x10 (h.val * 2 ^ 17 + f) x = some (.sld u h m) ∧ two 2 0x11 (h.val * 2 ^ 17 + f) x = some (.sst u h m)) ∧
    one 2 0x21 (rd.val * 2 ^ 17 + g.val * 2 ^ 13 + rb.val * 2 ^ 8) = some (.isync u rd rb g) ∧
    (∀ d : BitVec 17, one 3 0x00 d.toNat = some (.br u (.short d)) ∧
      ∀ e ∈ bcOps, one 3 e.1 (rd.val * 2 ^ 17 + d.toNat) = some (e.2 u rd (.short d))) ∧
    (∀ (x : BitVec 28) (d : BitVec 4), let w : BDisp := .long (BitVec.ofNat 32 (x.toNat * 16 + d.toNat))
      two 3 0x00 d.toNat x = some (.br u w) ∧ ∀ e ∈ bcOps, two 3 e.1 (rd.val * 2 ^ 17 + d.toNat) x = some (e.2 u rd w)) ∧
    (one 3 0x10 (rd.val * 2 ^ 17) = some (.jr u rd)) ∧
    (∀ m : BitVec 16, one 3 0x1B m.toNat = some (.trap u m) ∧ one 3 0x12 (m.toNat * 2 ^ 6 + rd.val * 2) = some (.callr u m rd) ∧
      ∀ x, two 3 0x11 (m.toNat * 2 ^ 6) x = some (.call u m x)) ∧
    (∀ e ∈ bareOps, one e.1 e.2.1 0 = some (e.2.2 u)) ∧
    (∀ a : FArgs,
      (a.ext = none → (∀ e ∈ fOps, instrOf q ⟨n, fWord stop e.1 e.2.1 a, none⟩ = some (e.2.2 u a)) ∧
        instrOf q ⟨n, fWord stop 6 0 a, none⟩ = some (.fsync u) ∧ instrOf q ⟨n, fWord stop 6 4 a, none⟩ = some (.mtf u a.vd a.va a.ty) ∧
        instrOf q ⟨n, fWord stop 6 5 a, none⟩ = some (.mff u a.vd a.va a.ty)) ∧
      ∀ x, a.ext = some x → ∀ e ∈ fOps, instrOf q ⟨n, fWord false e.1 e.2.1 a, some (extWord stop x)⟩ = some (e.2.2 u a)) ∧
    one 5 0 (rd.val * 2 ^ 17 + ra.val * 2 ^ 12 + g.val * 2 ^ 8) = some (.strm u rd ra g) ∧
    one 5 1 (rd.val * 2 ^ 17 + ra.val * 2 ^ 12) = some (.stwait u rd ra) ∧
    one 5 2 (rd.val * 2 ^ 17 + ra.val * 2 ^ 12) = some (.sttest u rd ra) ∧
    bundleOf q [slotWord false 0 0x00 (rd.val * 2 ^ 17 + ra.val * 2 ^ 12 + rb.val * 2 ^ 7), slotWord true 5 0 (rd.val * 2 ^ 17 + g.val * 2 ^ 8)] =
      some [.add ⟨q, false, false⟩ rd ra rb, .strm ⟨q, true⟩ rd 0 g]

/-! ## The machine as a whole -/

/-- The queue is served first in, first out: with a command in front, step is its effect on the state with the rest of the
queue; with none, one microsecond passes, in which TICK moves on while the MG island is powered (R438; the model's choice,
log entry 1).
Rests also on log entry 1, the model's choice. -/
def Obligations.StepRunsTheCommandInFront : Prop :=
  (∀ (c : Instr) (s : State), step { s with pending := c :: s.pending } = exec c s) ∧
  ∀ s : State, s.pending = [] →
    step s = .next { s with evr := { s.evr with tick := if s.pwr.powered then s.evr.tick + 1 else s.evr.tick } }

/-- No command is refused, and every command answers a next state but one: a PWR_MEASUREMENT of more than 60 V with the core
rails on, for which the manual states no behaviour (R3, R448), stops with the fault surroundingsInput. -/
def Sys2Proof.Machine.OnlyAMeasurementStops : Prop :=
  ∀ (c : Instr) (s : State), (∃ t, exec c s = .next t) ∨
    ∃ m : Measurement, c = .pwrMeasurement m ∧ s.pwr.powered = true ∧ s.pwr.core = true ∧ 60000 < m.mv.toNat ∧
      exec c s = .fault .surroundingsInput

/-- A command changes neither the queue of commands nor the build of the module (R2), takes back nothing that the module has sent
to the outside, and never turns back the count of free values. -/
def Sys2Proof.Machine.CommandsKeepTheQueueAndWhatWasSent : Prop :=
  ∀ (c : Instr) (s t : State), exec c s = .next t →
    t.pending = s.pending ∧ t.ml = s.ml ∧ s.out <+: t.out ∧ s.free ≤ t.free

/-- No command is refused and all but one answer a next state; the queue, the build, what was sent and the count of free values.
Rests also on log entry 39, the model's choice. -/
def Obligations.WhatEveryCommandKeeps : Prop := OnlyAMeasurementStops ∧ CommandsKeepTheQueueAndWhatWasSent

/-- Every step keeps both memories and every sparse array of the state in their canonical form: addresses and keys rising, and no
entry equal to what an unlisted one holds.
Rests also on log entry 6, the model's choice. -/
def Obligations.EveryStepKeepsTheCanonicalForms : Prop :=
  ∀ s t : State, s.MemOk → s.TablesOk → step s = .next t → t.MemOk ∧ t.TablesOk

/-- The reset state has both memories and every sparse array in canonical form.
Rests also on log entry 6, the model's choice. -/
def Obligations.ResetIsCanonical : Prop := State.reset.MemOk ∧ State.reset.TablesOk

namespace Sys2Proof.Machine

/-- A command answers a next state, and the state has a property. -/
def Gives (c : Instr) (s : State) (P : State → Prop) : Prop := ∃ t, exec c s = .next t ∧ P t

end Sys2Proof.Machine

/-! ## The event concentrator -/

namespace Sys2Proof.Machine

/-- The state bits of every source become what f gives, but for the note that its MSI-X message was sent, which a source that is
no longer presentable loses (R397); nothing else changes. -/
structure SrcsBecome (s t : State) (f : Nat → SrcState → SrcState) : Prop where
  bits : ∀ n, { srcState t n with sent := (srcState s n).sent } = { f n (srcState s n) with sent := (srcState s n).sent }
  sent : ∀ n, (srcState t n).sent = true → (srcState s n).sent = true
  rest : { t with evc := { t.evc with src := s.evc.src } } = s

/-- Bit n of the bitmap that the words of the EVC form (R403): word w carries b, and source 0 has no bit. -/
def inWord (w : Fin 64) (b : Reg32) (n : Nat) : Bool := decide (n / 32 = w.val) && b.getLsbD (n % 32) && decide (n ≠ 0)

/-- The agent is firmware or the PF host. -/
def ownsTargets (ag : Agent) : Bool := decide (ag = .fw) || decide (ag = .host 0)

end Sys2Proof.Machine

/-- R384, R385, R387, R389: while the AS island runs, a level source's input follows its page's pending and unmasked conditions; a
pulse of a sequencer's LOCKED source, at an EVC page that is enabled and not held, sets PEND of the enabled source, and no other number
is pulsed; PEND_SET sets PEND of enabled pulse sources, and PEND_CLR clears it; MASK_SET and MASK_CLR write MASK. R401, R482: a pulse
that arrives while the island does not run, or QUIESCE holds the EVC, is held, one per source. R476: a disabled EVC takes none
(log entry 29). -/
def Sys2Proof.Machine.SourcesOfTheConcentrator : Prop :=
  ∀ s : State, s.TablesOk →
    (evcUp s = true →
      (∀ (n : Fin 2048) (pg : PageId), srcPage n.val = some pg → Gives (.evcLevelInputChange n) s (fun t => SrcsBecome s t (fun m x =>
        if m = n.val then { x with input := decide ((hdr s pg).pend &&& ~~~(hdr s pg).msk ≠ 0) } else x))) ∧
      (∀ n : Fin 2048, srcPage n.val = none → Gives (.evcLevelInputChange n) s (fun t => t = s)) ∧
      ((hdr s .evc).held = false → ∀ n : Fin 2048, Gives (.evcPulse n) s (fun t => SrcsBecome s t (fun m x =>
        if (hdr s .evc).en = true ∧ m = n.val ∧ 0x40 ≤ m ∧ m < 0x50 ∧ (srcCfg s m).en = true then { x with pend := true } else x))) ∧
      ∀ (w : Fin 64) (b : Reg32),
        Gives (.evcPendSet w b) s (fun t => SrcsBecome s t (fun m x =>
          if inWord w b m && srcPulse m && (srcCfg s m).en then { x with pend := true } else x)) ∧
        Gives (.evcPendClr w b) s (fun t => SrcsBecome s t (fun m x =>
          if inWord w b m && !srcLevel m then { x with pend := false } else x)) ∧
        Gives (.evcMaskSet w b) s (fun t => SrcsBecome s t (fun m x => if inWord w b m then { x with mask := true } else x)) ∧
        Gives (.evcMaskClr w b) s (fun t => SrcsBecome s t (fun m x => if inWord w b m then { x with mask := false } else x))) ∧
    (evcUp s = false ∨ (hdr s .evc).held = true → ∀ n : Fin 2048, Gives (.evcPulse n) s (fun t => n ∈ t.evc.held ∧
      (t.evc.held = s.evc.held ∨ t.evc.held = s.evc.held ++ [n]) ∧ { t with evc := { t.evc with held := s.evc.held } } = s))

/-- R391, R392, R396, R398, R403: a claim that finds a candidate takes the presentable source of the highest priority, the lowest
number among equals: its PEND is cleared, it is in service at the target, its group's hold-off starts where HOLDOFF is not 0, and
the reader receives its number and priority, where the EVC page is enabled and not held. A claim that finds none counts in TGT_SPUR and receives 0. R388, R393: a completion
ends the service of a source that its target has in service, and is otherwise an error that the EVC page counts. R398: the end of
a hold-off. -/
def Sys2Proof.Machine.ClaimsAndCompletions : Prop :=
  ∀ s : State, s.TablesOk →
    (evcUp s = true → (hdr s .evc).en = true → (hdr s .evc).held = false → ∀ (ag : Agent) (t : Fin 18),
      (claims ag t = true →
        (∀ n, candidate s t = some n →
          (srcCfg s n).tgt.toNat = t.val ∧ presentable s n = true ∧
          (∀ m, (srcCfg s m).tgt.toNat = t.val → presentable s m = true →
            (srcCfg s m).prio.toNat < (srcCfg s n).prio.toNat ∨ ((srcCfg s m).prio = (srcCfg s n).prio ∧ n ≤ m)) ∧
          Gives (.tgtClaim ag t) s (fun u => ∃ a : State,
            SrcsBecome s a (fun m x => if m = n then { x with pend := false, insvc := some t } else x) ∧
            u.evc.src = a.evc.src ∧ u.out = s.out ++ [.reg ag (BitVec.ofNat 32 (n + 2 ^ 12 * (srcCfg s n).prio.toNat))] ∧
            (∀ g, getGrp u g = if g = n / 16 ∧ (getGrp s g).holdoff ≠ 0 then { getGrp s g with hact := true } else getGrp s g) ∧
            { u with out := s.out, evc := { u.evc with src := s.evc.src, grp := s.evc.grp } } = s)) ∧
        (candidate s t = none →
          Gives (.tgtClaim ag t) s (fun u => u = { s with
            evc := { s.evc with spur := vmod s.evc.spur t satInc }, out := s.out ++ [.reg ag 0] }))) ∧
      (ownsTargets ag = true → 16 ≤ t.val → ∀ n : Fin 2048,
        Gives (.tgtComplete ag t n) s (fun u =>
          if (srcState s n.val).insvc = some t then SrcsBecome s u (fun m x => if m = n.val then { x with insvc := none } else x)
          else u = modHdr s .evc (fun h => { h with errcnt := satInc h.errcnt })))) ∧
    ∀ g : Fin 128, Gives (.evcHoldoffEnd g) s (fun u =>
      (∀ k, getGrp u k = if k = g.val then { getGrp s k with hact := false } else getGrp s k) ∧
      { u with evc := { u.evc with grp := s.evc.grp } } = s)

/-- R385 to R403: the sources of the concentrator, and its claims and completions.
Rests also on log entry 29, the model's choice. -/
def Obligations.SourcesClaimsAndCompletions : Prop := SourcesOfTheConcentrator ∧ ClaimsAndCompletions

/-! ## The event recorder -/

namespace Sys2Proof.Machine

/-- The recorder has no room for another record: 2,048 in the buffer, or 65,536 in the log and the buffer (R440, R443). -/
def logFull (s : State) : Bool := decide (65536 ≤ s.evr.log.length + s.evr.buf.length) || decide (2048 ≤ s.evr.buf.length)

/-- The 32 bytes of a record as R436 and R437 lay them out, with the count of records of its code that were suppressed. -/
structure RecordHolds (r : BitVec 256) (s : State) (o : RecordOffer) (sev : Nat) (n : BitVec 16) (sat : Bool) : Prop where
  code : r.toNat % 2 ^ 16 = o.code.toNat
  sev : r.toNat / 2 ^ 16 % 2 ^ 4 = sev
  src : r.toNat / 2 ^ 20 % 2 ^ 6 = o.src.val
  flags : r.toNat / 2 ^ 26 % 2 ^ 6 = (if sat then 1 else 0) + (if s.pwr.pfw then 2 else 0)
  pcc : r.toNat / 2 ^ 32 % 2 ^ 24 = s.evr.pcc.toNat
  opt : r.toNat / 2 ^ 56 % 2 ^ 40 = s.evr.opt.toNat
  tick : r.toNat / 2 ^ 96 % 2 ^ 32 = s.evr.tick.toNat
  p0 : r.toNat / 2 ^ 128 % 2 ^ 32 = o.p0.toNat
  p1 : r.toNat / 2 ^ 160 % 2 ^ 32 = o.p1.toNat
  p2 : r.toNat / 2 ^ 192 % 2 ^ 16 = o.p2.toNat
  supcnt : r.toNat / 2 ^ 208 % 2 ^ 16 = n.toNat
  chk : r.toNat / 2 ^ 224 = crc16 (bytesOf (r.toNat % 2 ^ 224) 28)

/-- The counts written to the copy that was not written last (R438). -/
def countsWritten (s : State) : State :=
  let p : Persist := { valid := true, pcc := s.evr.pcc, opt := s.evr.opt, dropped := s.evr.dropped }
  { s with evr := { s.evr with optSince := 0, newer := !s.evr.newer,
                               copy0 := if s.evr.newer then p else s.evr.copy0, copy1 := if s.evr.newer then s.evr.copy1 else p } }

/-- A 16-bit count that stays at its largest value. -/
def satInc16 (c : BitVec 16) : BitVec 16 := if c = 0xFFFF#16 then c else c + 1

end Sys2Proof.Machine

/-- R436, R437, R439, R440, R443, R444: a record that is offered while its code's bucket of 16 tokens is empty is suppressed and
counted; with a token and no room it is dropped and counted, the suppressed count stays in place, and the first drop raises bit 2 of
the page interrupt; otherwise it enters the buffer with every field of its layout, and a severity of FAULT or CRITICAL starts a flush and is what the crash
capability shows. R446: the severity is the one of the code, and of FM_DEVICE_EVENT that of the CXL event record; a code that the
module does not emit is not offered, nor is one while no firmware image runs (R454). -/
def Sys2Proof.Machine.OfferedRecords : Prop :=
  (∀ n : Nat, recordSev 0x217 n = some (if n = 0 then 0 else if n = 1 then 2 else if n = 2 then 3 else 4)) ∧
  (∀ (s : State) (o : RecordOffer), (fwRuns s = false ∨ recordSev o.code.toNat o.sev.val = none) →
    Gives (.evrRecordOffer o) s (fun t => t = s)) ∧
  ∀ (s : State) (o : RecordOffer) (v : Nat), s.TablesOk → fwRuns s = true → recordSev o.code.toNat o.sev.val = some v →
    let c := getCode s o.code.toNat
    (16 ≤ c.missing → Gives (.evrRecordOffer o) s (fun t =>
      t.evr.supp = satInc s.evr.supp ∧
      getCode t o.code.toNat = { c with supcnt := satInc16 c.supcnt, supsat := c.supsat || decide (c.supcnt = 0xFFFF#16) } ∧
      (∀ k, k ≠ o.code.toNat → getCode t k = getCode s k) ∧
      { t with evr := { t.evr with supp := s.evr.supp, codes := s.evr.codes } } = s)) ∧
    (c.missing < 16 → Gives (.evrRecordOffer o) s (fun t =>
      (getCode t o.code.toNat).missing = c.missing + 1 ∧ (c.missing = 0 → (getCode t o.code.toNat).base = s.evr.tick) ∧
      (∀ k, k ≠ o.code.toNat → getCode t k = getCode s k) ∧
      (logFull s = true → t.evr.dropped = satInc s.evr.dropped ∧ t.evr.dropSeen = true ∧ t.evr.buf = s.evr.buf ∧
        (getCode t o.code.toNat).supcnt = c.supcnt ∧ (getCode t o.code.toNat).supsat = c.supsat ∧
        hdr t .evr = { hdr s .evr with pend := if s.evr.dropSeen then (hdr s .evr).pend else (hdr s .evr).pend ||| 4 } ∧
        { t with pages := s.pages, evr := { t.evr with dropped := s.evr.dropped, dropSeen := s.evr.dropSeen, codes := s.evr.codes } } = s) ∧
      (logFull s = false →
        (getCode t o.code.toNat).supcnt = 0 ∧ (getCode t o.code.toNat).supsat = false ∧
        (∃ r, t.evr.buf = s.evr.buf ++ [r] ∧ RecordHolds r s o v c.supcnt c.supsat) ∧
        t.evr.flushing = (s.evr.flushing || decide (3 ≤ v) || decide (1024 ≤ s.evr.buf.length + 1) || s.pwr.pfw) ∧
        (t.evr.crashCode, t.evr.crashSev) =
          (if 3 ≤ v then (o.code, BitVec.ofNat 4 v) else (s.evr.crashCode, s.evr.crashSev)) ∧
        { t with evr := { t.evr with buf := s.evr.buf, flushing := s.evr.flushing, crashCode := s.evr.crashCode,
                                     crashSev := s.evr.crashSev, codes := s.evr.codes } } = s)))

/-- R438, R439, R441, R442, R443, R447: a bucket regains a token once per interval; a write of 1 to FLUSH starts the flush engine, whose pass over
an empty buffer writes the counts at once; the
operating time counts on; every 256 units, and at the end of a flush pass, the counts go to the copy that was not written last;
and the flush engine programs the oldest buffered record, raising HALF and FULL of the page interrupt at 32,768 and 65,536
records. -/
def Sys2Proof.Machine.TheRecorderWorksOn : Prop :=
  (∀ (s : State) (code : BitVec 16), s.TablesOk →
    let c := getCode s code.toNat
    0 < c.missing → tokenInterval s ≤ (s.evr.tick - c.base).toNat →
    Gives (.evrTokenRefill code) s (fun t => (getCode t code.toNat).missing = c.missing - 1 ∧
      (2 ≤ c.missing → (getCode t code.toNat) = { c with missing := c.missing - 1, base := c.base + BitVec.ofNat 32 (tokenInterval s) }) ∧
      (∀ k, k ≠ code.toNat → getCode t k = getCode s k) ∧ { t with evr := { t.evr with codes := s.evr.codes } } = s)) ∧
  (∀ (s : State) (ag : Agent), ownsTargets ag = true → (ag = .fw → fwRuns s = true) → Gives (.evrCtrlFlush ag) s (fun t =>
    t = if s.evr.buf = [] then countsWritten s else { s with evr := { s.evr with flushing := true } })) ∧
  (∀ s : State, s.pwr.powered = true → Gives .optTick s (fun t =>
    t.evr.opt.toNat = min (s.evr.opt.toNat + 1) (2 ^ 40 - 1) ∧ t.evr.optSince = s.evr.optSince + 1 ∧
    { t with evr := { t.evr with opt := s.evr.opt, optSince := s.evr.optSince } } = s)) ∧
  (∀ s : State, 256 ≤ s.evr.optSince → Gives .evrPersistCounts s (fun t => t = countsWritten s)) ∧
  (∀ (s : State) (r : BitVec 256) (rest : List (BitVec 256)), s.pwr.powered = true → s.pwr.pfw = false → s.pwr.resetPend = none →
    s.evr.flushing = true → s.evr.buf = r :: rest →
    Gives .evrRecordProgrammed s (fun t =>
      t.evr.log = s.evr.log ++ [r] ∧ t.evr.buf = rest ∧ t.evr.flushing = !rest.isEmpty ∧
      hdr t .evr = { hdr s .evr with pend := (hdr s .evr).pend ||| (if s.evr.log.length = 32767 then 1 else 0)
                                                              ||| (if s.evr.log.length = 65535 then 2 else 0) } ∧
      (rest = [] → (if s.evr.newer then t.evr.copy0 else t.evr.copy1) =
        { valid := true, pcc := s.evr.pcc, opt := s.evr.opt, dropped := s.evr.dropped }) ∧
      (rest ≠ [] → t.evr.copy0 = s.evr.copy0 ∧ t.evr.copy1 = s.evr.copy1) ∧
      { t with pages := s.pages, evr := { t.evr with log := s.evr.log, buf := s.evr.buf, flushing := s.evr.flushing, copy0 := s.evr.copy0,
                                                     copy1 := s.evr.copy1, newer := s.evr.newer, optSince := s.evr.optSince } } = s))

/-- R436 to R447: what becomes of an offered record, and what the recorder does on its own. -/
def Obligations.TheRecorder : Prop := OfferedRecords ∧ TheRecorderWorksOn

/-! ## Register pages -/

namespace Sys2Proof.Machine

/-- A relation holds of every staged value of a page (R475, R483), and the staged values are all that changes beside headers,
the record of a band change with the comparison of the input with the new floor (R187), and the pending sources that a commit
disables. -/
def CfgRel (R : (α : Type) → Staged α → Staged α → Prop) (s t : State) : PageId → Prop
  | .pwr => R _ s.pwr.cfg t.pwr.cfg ∧ { t with pages := s.pages, pwr := { t.pwr with cfg := s.pwr.cfg } } = s
  | .evr => R _ s.evr.rate t.evr.rate ∧ { t with pages := s.pages, evr := { t.evr with rate := s.evr.rate } } = s
  | .evc => R _ s.evc.cfg t.evc.cfg ∧ { t with pages := s.pages, evc := { t.evc with cfg := s.evc.cfg, src := s.evc.src } } = s
  | .hlk => R _ s.hl.cfg t.hl.cfg ∧ { t with pages := s.pages, hl := { t.hl with cfg := s.hl.cfg } } = s
  | .dau => R _ s.dau.cfg t.dau.cfg ∧ (t.dau.cfg.active.band = s.dau.cfg.active.band → t.pwr.floor = s.pwr.floor) ∧
      { t with pages := s.pages, evr := s.evr, pwr := { t.pwr with floor := s.pwr.floor }, dau := { t.dau with cfg := s.dau.cfg } } = s
  | .csc => R _ s.csc.beSlice t.csc.beSlice ∧ { t with pages := s.pages, csc := { t.csc with beSlice := s.csc.beSlice } } = s
  | .lmc n => R _ s.lmcs[n.val].scrub t.lmcs[n.val].scrub ∧
      { t with pages := s.pages, lmcs := vmod t.lmcs n (fun x => { x with scrub := s.lmcs[n.val].scrub }) } = s
  | .map => R _ s.map.sets t.map.sets ∧ { t with pages := s.pages, map := { t.map with sets := s.map.sets } } = s
  | .seq q => R _ s.seqs[q.val].wdog t.seqs[q.val].wdog ∧ R _ s.seqs[q.val].masklim t.seqs[q.val].masklim ∧
      { t with pages := s.pages, seqs := vmod t.seqs q (fun x => { x with wdog := s.seqs[q.val].wdog, masklim := s.seqs[q.val].masklim }) } = s
  | .lms => R _ s.lms.scrub t.lms.scrub ∧ { t with pages := s.pages, lms := { t.lms with scrub := s.lms.scrub } } = s
  | .fab => R _ s.fab.cfg t.fab.cfg ∧ { t with pages := s.pages, fab := { t.fab with cfg := s.fab.cfg } } = s
  | .glb | .rqe | .xpt _ | .pipe _ | .dir => { t with pages := s.pages } = s

/-- The active copy takes the staged value. -/
def activates (α : Type) (a b : Staged α) : Prop := b.stage = a.stage ∧ b.active = a.stage
/-- The staged value is sampled. -/
def samples (α : Type) (a b : Staged α) : Prop := b = { a with sampled := some a.stage }
/-- The sample becomes active. -/
def applies (α : Type) (a b : Staged α) : Prop := b.stage = a.stage ∧ ∀ x, a.sampled = some x → b.active = x
/-- The staging copy takes the active value. -/
def discards (α : Type) (a b : Staged α) : Prop := b.stage = a.active ∧ b.active = a.active

/-- What `CfgRel` leaves open, because active values that change may change it, is kept: the sources, the recorder but for its
staged field, and the comparison with the floor. -/
def DataKept (s t : State) : Prop :=
  t.evc.src = s.evc.src ∧ { t.evr with rate := s.evr.rate } = s.evr ∧ t.pwr.floor = s.pwr.floor

/-- The headers of all pages but one, and but that of the recorder. -/
def OtherPages (s t : State) (pg : PageId) : Prop := ∀ p, p ≠ pg → p ≠ .evr → hdr t p = hdr s p

/-- A check has refused (R478): the page's header and GLB hold the reason, GLB counts it and has its interrupt bit 1 set; the
staged and the active values stay. -/
structure CheckRefused (s t : State) (pg : PageId) (r : Refused) : Prop where
  page : hdr t pg = { hdr s pg with
    refused := true, reason := BitVec.ofNat 8 r.reason, refReason := BitVec.ofNat 8 r.reason, refOffset := BitVec.ofNat 12 r.off,
    refDetail := BitVec.ofNat 8 r.detail }
  glb : t.glb = { s.glb with
    refType := BitVec.ofNat 16 (pageType pg), refInst := BitVec.ofNat 8 (pageInst pg), refReason := BitVec.ofNat 8 r.reason,
    refcnt := satInc s.glb.refcnt }
  irq : hdr t .glb = { hdr s .glb with pend := (hdr s .glb).pend ||| 2 }
  others : ∀ p, p ≠ pg → p ≠ .glb → hdr t p = hdr s p
  rest : { t with pages := s.pages, glb := s.glb } = s

/-- Active values of the EVC and of the DAU have changed (R187, R387, R404, R446): a source that is no longer enabled is not pending;
a new power band is recorded, and an input below its floor, or withheld cycles, cross the floor that was crossed before. -/
def Applied (s t : State) (pg : PageId) : Prop :=
  (pg = .evc → ∀ n, (srcState t n).pend = ((srcState s n).pend && (srcCfg t n).en) ∧
    { srcState t n with pend := (srcState s n).pend, sent := (srcState s n).sent } = srcState s n) ∧
  (pg = .dau → t.evr = (if t.dau.cfg.active.band = s.dau.cfg.active.band then s.evr
    else (offer s 0x0103 1 33 s.dau.cfg.active.band.toNat t.dau.cfg.active.band.toNat s.pwr.mv.toNat).evr) ∧
    (t.dau.cfg.active.band ≠ s.dau.cfg.active.band → t.pwr.floor = (s.pwr.floor
      && (decide (s.pwr.mv.toNat < floorMv t.dau.cfg.active.band.toNat) || s.pwr.withhold))))

/-! ### The consistency checks -/

/-- Two ranges, each given by its first value and its size, meet. -/
def RangesMeet (x m y n : Nat) : Prop := x < y + n ∧ y < x + m

/-- The tests of R404. -/
def evcTests (s : State) : List (Prop × Nat) :=
  let c := fun (n : Nat) => tget SrcCfg.reset s.evc.cfg.stage n
  [(∃ n, 18 ≤ (c n).tgt.toNat, 2),
   (∃ n, (c n).en = true ∧ srcLevel n = false ∧ srcPulse n = false, 5),
   (∃ n, (c n).en = true ∧ (c n).tgt.toNat < 16 ∧
      (srcLevel n = true ∨ ∃ m, m ≠ n ∧ (c m).en = true ∧ (c m).tgt = (c n).tgt ∧ (c m).cls = (c n).cls), 3)]

/-- A VF owns a segment that starts in the memory from `lo` to `hi` and does not lie within a range of it, in GiB. -/
def OwnsOutside (s : State) (f lo hi base size : Nat) : Prop :=
  ∃ e ∈ s.objs.segs, ∃ o, e.2 = some o ∧ o.func.val = f ∧ lo ≤ dBase o.desc ∧ dBase o.desc < hi ∧
    (dBase o.desc < lo + 2 ^ 30 * base ∨ lo + 2 ^ 30 * (base + size) ≤ dBase o.desc + dLimit o.desc)

/-- The tests of R382. -/
def hlkTests (s : State) : List (Prop × Nat) :=
  let w := s.hl.cfg.stage.aper.toNat
  let r := fun (f : Nat) => tget FnRange.reset s.hl.cfg.stage.ranges f
  let old := fun (f : Nat) => tget FnRange.reset s.hl.cfg.active.ranges f
  let lm := fun (f : Nat) => ((r f).lmBase.toNat, (r f).lmSize.toNat)
  let fm := fun (f : Nat) => ((r f).fmBase.toNat, (r f).fmSize.toNat)
  let twice := fun (g : Nat → Nat × Nat) =>
    ∃ f < 64, ∃ h < 64, h ≠ f ∧ (g f).2 ≠ 0 ∧ (g h).2 ≠ 0 ∧ RangesMeet (g f).1 (g f).2 (g h).1 (g h).2
  [(w % bar4Size s ≠ 0, 8),
   (2 ^ 56 < w + bar4Size s ∨ ∃ f < 64, ((lm f).2 ≠ 0 ∧ ((lm f).1 < 8 ∨ lmTopG s < (lm f).1 + (lm f).2)) ∨
      ((fm f).2 ≠ 0 ∧ 192 * 1024 < (fm f).1 + (fm f).2), 1),
   (twice lm ∨ twice fm, 9),
   (∃ f < 64, (((old f).lmBase, (old f).lmSize) ≠ ((r f).lmBase, (r f).lmSize) ∧
        OwnsOutside s f 0 (2 ^ 30 * lmTopG s) (lm f).1 (lm f).2) ∨
      (((old f).fmBase, (old f).fmSize) ≠ ((r f).fmBase, (r f).fmSize) ∧
        OwnsOutside s f ilvBase (ilvBase + 2 ^ 30 * (192 * 1024)) (fm f).1 (fm f).2), 0xB)]

/-- The slots from now to an effective deadline, 0 once it has passed (R174). -/
def slotsLeft (s : State) (x : Ctx) : Nat :=
  if (x.dlslot - s.dau.slot).toNat < (x.eff - s.dau.slot).toNat then 0 else (x.eff - s.dau.slot).toNat

/-- The remaining demand of the accepted guaranteed jobs in a class that is due within t slots (R174). -/
def demandDue (s : State) (c : Fin 11) (t : Nat) : Nat :=
  (s.ctxs.map (fun e => if e.2.held ∧ slotsLeft s e.2 ≤ t then e.2.rem[c.val] else 0)).sum

/-- The ceiling of a class, and whether the band scales it (R44, R169). -/
def ceilingOf (s : State) (c : Fin 11) : Nat × Bool :=
  match c with
  | 0 => (153600, true) | 7 => (12800, true) | 8 => (51200, true) | 9 => (25600, true) | 10 => (1323, false)
  | 1 => (min 1312 (175 * s.xpts[0].step.toNat / 2), false) | 2 => (min 1312 (175 * s.xpts[1].step.toNat / 2), false)
  | 3 => (min 1312 (175 * s.xpts[2].step.toNat / 2), false) | 4 => (min 1312 (175 * s.xpts[3].step.toNat / 2), false)
  | 5 => (min 1312 (175 * s.xpts[4].step.toNat / 2), false) | 6 => (min 1312 (175 * s.xpts[5].step.toNat / 2), false)

/-- The tests of R191. -/
def dauTests (s : State) : List (Prop × Nat) :=
  let c := s.dau.cfg.stage
  let cap := fun (k : Fin 11) => c.caps[k.val].toNat
  [(5 ≤ c.band.toNat, 2),
   (c.setup.toNat < 2 ∨ ∃ k, (ceilingOf s k).1 < cap k, 1),
   (∃ k, (ceilingOf s k).2 = true ∧ (ceilingOf s k).1 * [100, 75, 50, 30, 20].getD c.band.toNat 0 < 100 * cap k, 7),
   (∃ p : Fin 6, c.caps[1 + p.val].toNat ≠ 0 ∧ (s.xpts[p.val]).qualified = false, 0xA),
   (∃ k, cap k < (s.dau.cfg.active.caps[k.val]).toNat ∧ ∃ t, 1 ≤ t ∧ t < 2 ^ 20 ∧ cap k * t < demandDue s k t, 0xB)]

/-- The tests of R58. -/
def mapTests (s : State) : List (Prop × Nat) :=
  let v := fun (n : Fin 4) => s.map.sets.stage[n.val]
  let old := fun (n : Fin 4) => s.map.sets.active[n.val]
  let ways := fun (x : Ilv) => [1, 2, 3, 6].getD x.ways.toNat 0
  let member := fun (x : Ilv) (j : Nat) => bits x.members.toNat (3 * j) 3
  let meet := fun (a b : Ilv) => RangesMeet a.baseG.toNat a.sizeG.toNat b.baseG.toNat b.sizeG.toNat ∨
    (∃ i < ways a, ∃ j < ways b, member a i = member b j) ∧
      RangesMeet a.pbaseG.toNat (a.sizeG.toNat / ways a) b.pbaseG.toNat (b.sizeG.toNat / ways b)
  [(∃ n, (v n).en = true ∧ (3 < (v n).ways.toNat ∨ 6 < (v n).gran.toNat ∨ ∃ j < 6, 5 < member (v n) j), 2),
   (∃ n, (v n).en = true ∧ (192 * 1024 < (v n).baseG.toNat + (v n).sizeG.toNat ∨
      32768 * ways (v n) < (v n).pbaseG.toNat * ways (v n) + (v n).sizeG.toNat), 1),
   (∃ n, (v n).en = true ∧ ((v n).sizeG = 0 ∨ (v n).sizeG.toNat % ways (v n) ≠ 0 ∨
      (∃ i < ways (v n), ∃ j < ways (v n), i ≠ j ∧ member (v n) i = member (v n) j) ∨
      ∃ j < 6, ways (v n) ≤ j ∧ member (v n) j ≠ 0), 3),
   (∃ n, (v n).en = true ∧ ∃ i < ways (v n), ∀ p : Fin 6, p.val = member (v n) i → s.map.portEn.getLsbD p.val = false ∨
      (s.xpts[p.val]).capG.toNat * ways (v n) < (v n).pbaseG.toNat * ways (v n) + (v n).sizeG.toNat, 5),
   (∃ n m, n ≠ m ∧ (v n).en = true ∧ (v m).en = true ∧ meet (v n) (v m), 9),
   (∃ n, v n ≠ old n ∧ ∃ x, (x = old n ∨ x = v n) ∧ x.en = true ∧ ∃ i < ways x, ∃ p : Fin 6, p.val = member x i ∧
      ∃ e ∈ s.ctxs, e.2.held = true ∧ e.2.rem[1 + p.val] ≠ 0, 0xB)]

/-- The tests of a page over its staged values and the fields that only EN = 0 lets change, with their reasons (R58, R105, R191, R294,
R321, R382, R404, R434, R435, R447). -/
def pageTests (s : State) : PageId → List (Prop × Nat)
  | .evc => evcTests s
  | .hlk => hlkTests s
  | .dau => dauTests s
  | .map => mapTests s
  | .evr => [(s.evr.rate.stage = 0, 1)]
  | .csc => [(s.csc.beSlice.stage = 0, 1)]
  | .lmc n => [((s.lmcs[n.val]).scrub.stage.period = 0, 1)]
  | .pipe n => [((s.pipes[n.val]).ra = 0, 1)]
  | .lms => [(s.lms.scrub.stage.period = 0, 1)]
  | .seq q =>
    let x := s.seqs[q.val]
    [(x.wdog.stage.toNat < 1 ∨ 16000 < x.wdog.stage.toNat ∨ x.masklim.stage.toNat < 1 ∨ 64 < x.masklim.stage.toNat, 1)]
  | .fab => [(s.fab.cfg.stage.age.toNat < 16 ∨ s.fab.cfg.stage.floor.toNat < 8, 1)]
  | .pwr | .glb | .rqe | .xpt _ | .dir => []

end Sys2Proof.Machine

/-- R58, R105, R191, R294, R321, R382, R404, R434, R435, R447, R478: the check of a page answers the reason of the first of its tests that
fails, and none where all pass. -/
def Sys2Proof.Machine.ConsistencyChecks : Prop :=
  ∀ (s : State) (pg : PageId), s.TablesOk → FirstOf ((pageCheck s pg).map (·.reason)) (pageTests s pg)

/-- R476, R478: a write of EN = 1 to a page that is off and can be off runs its check: a refusal is recorded and EN stays 0; on a pass
EN reads 1 and every staged value is active. A write of EN = 0 to a page that is on makes its block stop, and EN reads 0 once it has
stopped, no commit being in progress. -/
def Sys2Proof.Machine.PagesAreEnabledAndDisabled : Prop :=
  ∀ (s : State) (ag : Agent) (pg : PageId), s.TablesOk → pageFixed pg = false →
    (hdrWrites s ag pg 0x008 = true → (hdr s pg).en = false →
      (∀ r, pageCheck s pg = some r → Gives (.pageEnable ag pg) s (fun t => CheckRefused s t pg r)) ∧
      (pageCheck s pg = none → Gives (.pageEnable ag pg) s (fun t =>
        CfgRel activates s t pg ∧ Applied s t pg ∧ OtherPages s t pg ∧
        hdr t pg = { hdr s pg with en := true, refused := false, reason := 0 }))) ∧
    (hdrWrites s ag pg 0x008 = true → (hdr s pg).en = true →
      Gives (.pageDisable ag pg) s (fun t => t = modHdr s pg (fun h => { h with stopping := true }))) ∧
    ((hdr s pg).stopping = true → (hdr s pg).commit = false → serveIsl s (pageIsland pg) = .up →
      Gives (.blockStop pg) s (fun t => t = modHdr s pg (fun h => { h with en := false, stopping := false })))

/-- R475, R477, R478, R480: COMMIT of an enabled page with staged fields runs the check; on a pass the staged values are sampled, and
the samples become active together at the block's safe point, which clears COMMIT; a refusal leaves every value. COMMIT while one
is in progress only sets WWB. -/
def Sys2Proof.Machine.CommitsApplyTheSample : Prop :=
  ∀ (s : State) (ag : Agent) (pg : PageId), s.TablesOk →
    (hdrWrites s ag pg 0x008 = true →
      ((hdr s pg).commit = true → Gives (.pageCommit ag pg) s (fun t => t = modHdr s pg (fun h => { h with wwb := true }))) ∧
      ((hdr s pg).commit = false →
        (∀ r, pageCheck s pg = some r → Gives (.pageCommit ag pg) s (fun t => CheckRefused s t pg r)) ∧
        (pageCheck s pg = none → (hdr s pg).en = true → hasStaged pg = true → Gives (.pageCommit ag pg) s (fun t =>
          CfgRel samples s t pg ∧ DataKept s t ∧ OtherPages s t pg ∧ (pg ≠ .evr → hdr t .evr = hdr s .evr) ∧
          hdr t pg = { hdr s pg with commit := true, refused := false, reason := 0 })) ∧
        (pageCheck s pg = none → (hdr s pg).en = false ∨ hasStaged pg = false → Gives (.pageCommit ag pg) s (fun t =>
          t = modHdr s pg (fun h => { h with refused := false, reason := 0 }))))) ∧
    ((hdr s pg).commit = true → serveIsl s (pageIsland pg) = .up → Gives (.commitApply pg) s (fun t =>
      CfgRel applies s t pg ∧ Applied s t pg ∧ OtherPages s t pg ∧ hdr t pg = { hdr s pg with commit := false }))

/-- R475 to R480: enabling and disabling a page, COMMIT, and the consistency checks of both.
Rests also on log entry 29, the model's choice. -/
def Obligations.PagesEnableAndCommit : Prop := PagesAreEnabledAndDisabled ∧ CommitsApplyTheSample ∧ ConsistencyChecks

/-- R472, R480 to R482: a soft reset discards staged values and clears the refusal, the write flags, the error count and the pending
bits whose condition no longer holds, and nothing else of the page; it is a reset with a record (R419, R456). QUIESCE holds the
block and lets it go on, and with it the requests that waited for it. The page interrupt registers set, clear, mask and unmask conditions that the block defines.
Rests also on log entry 43, the model's choice. -/
def Obligations.SoftResetQuiesceAndPageInterrupts : Prop :=
  ∀ (s : State) (ag : Agent) (pg : PageId),
    (hdrWrites s ag pg 0x008 = true →
      Gives (.pageSoftReset ag pg) s (fun t => ∃ a : State,
        a = offer { s with pwr := { s.pwr with epoch := s.pwr.epoch + 1 } } 0x0105 1 33 7 (pageIsland pg).val 0 ∧
        CfgRel discards a t pg ∧ DataKept a t ∧ (∀ p, p ≠ pg → hdr t p = hdr a p) ∧
        hdr t pg = { hdr a pg with refused := false, reason := 0, wwb := false, wrsv := false, refDetail := 0, refOffset := 0,
                                   refReason := 0, errcnt := 0, pend := (hdr a pg).pend &&& irqHolds t pg }) ∧
      Gives (.quiesceSet ag pg) s (fun t => t = modHdr s pg (fun h => { h with quiesce := true, held := true })) ∧
      Gives (.quiesceClear ag pg) s (fun t => let a := modHdr s pg (fun h => { h with quiesce := false, held := false })
        t = resumeParked a ∧ (s.parked = [] → s.evc.held = [] → t = a))) ∧
    ∀ b : Reg32,
      (hdrWrites s ag pg 0x01C = true →
        Gives (.pgIrqSet ag pg b) s (fun t => t = modHdr s pg (fun h => { h with pend := h.pend ||| (b &&& pageIrqBits pg) }))) ∧
      (hdrWrites s ag pg 0x020 = true →
        Gives (.pgIrqClr ag pg b) s (fun t => t = modHdr s pg (fun h => { h with pend := (h.pend &&& ~~~b) ||| (h.pend &&& irqHolds s pg) }))) ∧
      (hdrWrites s ag pg 0x028 = true →
        Gives (.pgIrqMskSet ag pg b) s (fun t => t = modHdr s pg (fun h => { h with msk := h.msk ||| (b &&& pageIrqBits pg) }))) ∧
      (hdrWrites s ag pg 0x02C = true →
        Gives (.pgIrqMskClr ag pg b) s (fun t => t = modHdr s pg (fun h => { h with msk := h.msk &&& ~~~b })))

namespace Sys2Proof.Machine

/-- The BAR0 address of an offset of page 0 of an instance (R470, R483), as a register write or read names it. -/
def regAddr (pg : PageId) (o : Nat) : BitVec 26 := BitVec.ofNat 26 (pageBase pg + o)

/-- The registers whose fields are all staged and whose writer is firmware, with the bits of their fields (R57, R190, R294, R321,
R434, R435, R447, R469). -/
def stagedBits : PageId → Nat → Option Nat
  | .pwr, 0x04C => some 0x00FFFF00
  | .evr, 0x044 => some 0x000000FF
  | .csc, 0x044 => some 0xFFFF0000
  | .lmc _, 0x048 => some 0x000001FF
  | .seq _, 0x04C => some 0x0000007F
  | .lms, 0x044 => some 0x0000FFFF
  | .fab, 0x044 => some 0x0000FFFF
  | .dau, o => if o = 0x050 then some 7 else if 0x080 ≤ o ∧ o < 0x0AC ∧ o % 4 = 0 then some 0x0003FFFF else none
  | .map, o =>
    if 0x080 ≤ o ∧ o < 0x0C0 then
      (match o % 16 with
        | 0 => some 0x0003FFFF | 4 => some 0x0003FFFF | 8 => some 0x03FFFFFF | 12 => some 0x00007FFF | _ => none)
    else none
  | _, _ => none

/-- Only the staging copy has changed. -/
def stagesOnly (α : Type) (a b : Staged α) : Prop := b.active = a.active ∧ b.sampled = a.sampled

/-- The agent's accesses reach a page that its island serves. -/
def pageServed (s : State) (ag : Agent) (pg : PageId) : Prop := bar0Reaches s ag = true ∧ serveIsl s (pageIsland pg) = .up

/-- A field of a written value. -/
def wbits (v : Reg32) (lo w : Nat) : BitVec w := BitVec.ofNat w (v.toNat / 2 ^ lo)

/-- A write is dropped: HLK_ERR_CNT counts it, and AER's status has the bit of an unsupported request (R352). -/
def dropped (s : State) : State := { s with hl := { s.hl with errCnt := satInc s.hl.errCnt, aer := s.hl.aer ||| 0x100000#32 } }

/-- A read is answered Unsupported Request (R352). -/
def answeredUR (s : State) : State := send { s with hl := { s.hl with aer := s.hl.aer ||| 0x100000#32 } } .unsupported

/-- Where queue memory lies in the BAR2 of a function, and in the 16 MiB of it (R353). -/
def queuePart (f : Fin 64) (off : Nat) : Option Nat :=
  if f.val = 0 then (if 0x1000000 ≤ off ∧ off < 0x2000000 then some (off - 0x1000000) else none)
  else if 0x40000 ≤ off ∧ off < 0x80000 then some (0x40000 * f.val + (off - 0x40000)) else none

end Sys2Proof.Machine

/-- R57, R105, R190, R294, R321, R381, R434, R435, R447, R469, R473, R474: a firmware write to a register of staged fields is what the
register then reads as, and changes no active value; a frozen field takes the value while EN = 0, and sets WWB while EN = 1; a live
field takes the value at once, and a reserved encoding sets WRSV instead; writes by J9 do nothing, and a host write to no register
is dropped and counted, as one by a function in D3hot is (R350); a host function writes up to 512 bytes of its part of queue memory, within 4 KiB,
each with whether a Secure IDE stream carried it (R353, R355, R378), and a longer write is dropped and counted. A bit of AER's status is
the model's choice (log entry 147).
Rests also on log entries 36, 147, the model's choices. -/
def Obligations.FieldsAreWrittenByTheirType : Prop :=
  (∀ (s : State) (pg : PageId) (o m : Nat) (v : Reg32), pageServed s .fw pg → stagedBits pg o = some m →
    Gives (.registerWrite .fw (.bar0 (regAddr pg o)) v) s (fun t => pageReg t pg o = v.toNat &&& m ∧ CfgRel stagesOnly s t pg ∧ t.pages = s.pages)) ∧
  (∀ (s : State) (p : Fin 8) (v : Reg32), pageServed s .fw (.pipe p) →
    Gives (.registerWrite .fw (.bar0 (regAddr (.pipe p) 0x044)) v) s (fun t =>
      t = if (hdr s (.pipe p)).en then modHdr s (.pipe p) (fun h => { h with wwb := true })
          else modPipe s p (fun x => { x with ra := wbits v 4 4 }))) ∧
  (∀ (s : State) (q : Fin 16) (v : Reg32), pageServed s .fw (.seq q) →
    Gives (.registerWrite .fw (.bar0 (regAddr (.seq q) 0x048)) v) s (fun t =>
      t = modSeq s q (fun x => { x with wdogEn := v.getLsbD 0, wdog := { x.wdog with stage := wbits v 2 14 } }))) ∧
  (∀ (s : State) (v : Reg32), pageServed s .fw .pwr →
    Gives (.registerWrite .fw (.bar0 (regAddr .pwr 0x064)) v) s (fun t =>
      t = if (wbits v 0 6).toNat < 33 then { s with pwr := { s.pwr with islSel := wbits v 0 6 } }
          else modHdr s .pwr (fun h => { h with wrsv := true })) ∧
    Gives (.registerWrite .fw (.bar0 (regAddr .lms 0x048)) v) s (fun t =>
      t = if (wbits v 0 5).toNat < 27 then { s with lms := { s.lms with sel := wbits v 0 5 } }
          else modHdr s .lms (fun h => { h with wrsv := true })) ∧
    Gives (.registerWrite .fw (.bar0 (regAddr .fab 0x048)) v) s (fun t =>
      t = if (wbits v 0 6).toNat < 34 then { s with fab := { s.fab with sel := wbits v 0 6 } }
          else modHdr s .fab (fun h => { h with wrsv := true })) ∧
    Gives (.registerWrite .fw (.bar0 (regAddr .glb 0x060)) v) s (fun t => t = { s with glb := { s.glb with scratch0 := v } }) ∧
    Gives (.registerWrite .fw (.bar0 (regAddr .glb 0x064)) v) s (fun t => t = { s with glb := { s.glb with scratch1 := v } })) ∧
  (∀ (s : State) (v : Reg32), pageServed s (.host 0) .hlk →
    Gives (.registerWrite (.host 0) (.bar0 (regAddr .hlk 0x050)) v) s (fun t => t = { s with hl := { s.hl with fnSel := wbits v 0 6 } }) ∧
    Gives (.registerWrite (.host 0) (.bar0 (regAddr .hlk 0x04C)) v) s (fun t =>
      t.hl.cfg.stage.aper.toNat = s.hl.cfg.stage.aper.toNat % 2 ^ 32 + v.toNat % 2 ^ 25 * 2 ^ 32 ∧ CfgRel stagesOnly s t .hlk ∧ t.pages = s.pages) ∧
    Gives (.registerWrite .fw (.bar0 (regAddr .hlk 0x050)) v) s (fun t => t = s)) ∧
  (∀ (s : State) (off : BitVec 26) (v : Reg32), Gives (.registerWrite .j9 (.bar0 off) v) s (fun t => t = s)) ∧
  (∀ (s : State) (f : Fin 64) (off : BitVec 26) (v : Reg32), reaches s (.host f) = true →
    regFor (.host f) off.toNat = .undefined ∨ s.hl.d3.getLsbD f.val = true →
    Gives (.registerWrite (.host f) (.bar0 off) v) s (fun t => t = dropped s)) ∧
  ∀ (s : State) (f : Fin 64) (off : BitVec 25) (bs : List Byte) (ide : Option (Fin 9)) (v : Reg32) (o : Nat), s.MemOk → s.TablesOk →
    reaches s (.host f) = true → queuePart f off.toNat = some o →
    (s.hl.d3.getLsbD f.val = false → 1 ≤ bs.length → bs.length ≤ 512 → off.toNat % 4096 + bs.length ≤ 4096 →
      Gives (.registerWrite (.host f) (.bar2 off bs ide) v) s (fun t =>
      (∀ j, tget 0 t.qmem j = if o ≤ j ∧ j < o + bs.length then (bs[j - o]?).getD 0 else tget 0 s.qmem j) ∧
      (∀ j, tget false t.rqe.prot j = if o ≤ j ∧ j < o + bs.length then
        (match ide with | some i => s.hl.ide.getLsbD i.val | none => false) else tget false s.rqe.prot j) ∧
      { t with qmem := s.qmem, rqe := { t.rqe with prot := s.rqe.prot } } = s)) ∧
    (s.hl.d3.getLsbD f.val = true ∨ bs.length = 0 ∨ 512 < bs.length ∨ 4096 < off.toNat % 4096 + bs.length →
      Gives (.registerWrite (.host f) (.bar2 off bs ide) v) s (fun t => t = dropped s))

/-- R358, R368, R383, R403, R480: a register write that has the effect of another command has exactly that effect: PG_CTRL, in the
order of R480 (where a write of QUIESCE 0 lets no request go on that waited for it); the words of the EVC's bitmaps; TGT_COMPLETE; QP_CTRL of
an admin queue; a doorbell in BAR2; a vector's mask bit, beside its address and data; VF Enable. R350 to R352, R361, R362: a configuration
request is completed with Retry Status before the link is ready and while its function is being reset; otherwise a write of Memory Space
Enable, of the power state D0 or D3hot, of the payload and read request sizes and of the completion timeout range is taken. A function back
in D0 sends the messages that waited (the model's choice, log entry 147). -/
def Sys2Proof.Machine.RegisterWritesThatAreCommands : Prop :=
  (∀ (s : State) (ag : Agent) (pg : PageId) (v : Reg32), hdrWrites s ag pg 0x008 = true →
    v.getLsbD 3 = true ∨ (s.parked = [] ∧ s.evc.held = []) →
    ∃ t1 t2 t3 : State,
      (if v.getLsbD 2 then exec (.pageSoftReset ag pg) s else .next s) = .next t1 ∧
      exec (if v.getLsbD 3 then .quiesceSet ag pg else .quiesceClear ag pg) t1 = .next t2 ∧
      (if v.getLsbD 1 && !v.getLsbD 2 && !(v.getLsbD 0 && !(hdr t2 pg).en && !pageFixed pg) then exec (.pageCommit ag pg) t2 else .next t2) = .next t3 ∧
      exec (.registerWrite ag (.bar0 (regAddr pg 0x008)) v) s = exec (if v.getLsbD 0 then .pageEnable ag pg else .pageDisable ag pg) t3) ∧
  (∀ (s : State) (ag : Agent) (v : Reg32), ownsTargets ag = true → pageServed s ag .evc →
    (∀ w : Fin 64,
      exec (.registerWrite ag (.bar0 (regAddr .evc (0x200 + 4 * w.val))) v) s = exec (.evcPendSet w v) s ∧
      exec (.registerWrite ag (.bar0 (regAddr .evc (0x300 + 4 * w.val))) v) s = exec (.evcPendClr w v) s ∧
      exec (.registerWrite ag (.bar0 (regAddr .evc (0x500 + 4 * w.val))) v) s = exec (.evcMaskSet w v) s ∧
      exec (.registerWrite ag (.bar0 (regAddr .evc (0x600 + 4 * w.val))) v) s = exec (.evcMaskClr w v) s) ∧
    ∀ (t : Fin 18) (n : Fin 2048), v.toNat % 2048 = n.val →
      exec (.registerWrite ag (.bar0 (BitVec.ofNat 26 (0x40000 + 0x1000 * t.val + 4))) v) s = exec (.tgtComplete ag t n) s) ∧
  (∀ (s : State) (f : Fin 64) (off : BitVec 26) (g : Fin 4096) (v : Reg32), pageServed s (.host f) .rqe → g.val = 64 * f.val →
    regFor (.host f) off.toNat = .qp g 0 →
    exec (.registerWrite (.host f) (.bar0 off) v) s = exec (if v.getLsbD 0 then .adminQueueEnable f else .adminQueueDrain f) s) ∧
  (∀ (s : State) (f : Fin 64) (off : BitVec 25) (b0 b1 b2 b3 : Byte) (ide : Option (Fin 9)) (v : Reg32), s.TablesOk →
    memReaches s (.host f) = true → off.toNat % 4 = 0 →
    let i : Instr := .registerWrite (.host f) (.bar2 off [b0, b1, b2, b3] ide) v
    let w : BitVec 32 := b3 ++ b2 ++ b1 ++ b0
    (off.toNat < (if f.val = 0 then 65536 else 1024) → off.toNat % 16 = 0 → exec i s = exec (.sqTailDoorbell ⟨f, off⟩ (w.setWidth 64) []) s) ∧
    (off.toNat < (if f.val = 0 then 65536 else 1024) → off.toNat % 16 = 8 → exec i s = exec (.cqHeadDoorbell ⟨f, off⟩ (w.setWidth 64)) s) ∧
    ∀ (n : Fin 2048) (b : Nat), n.val < vecCount f → b < 16 → off.toNat = (if f.val = 0 then 0x100000 else 0x10000) + 16 * n.val + b →
      (b = 12 → b0.getLsbD 0 = false → exec i s = exec (.msixVectorUnmask f n) s) ∧
      (b ≠ 12 ∨ b0.getLsbD 0 = true → Gives i s (fun t =>
        let x := tget VecState.reset s.hl.msix (2048 * f.val + n.val)
        (∀ k, tget VecState.reset t.hl.msix k = if k = 2048 * f.val + n.val then
          (if b = 0 then { x with addr := x.addr.extractLsb' 32 32 ++ w } else if b = 4 then { x with addr := w ++ x.addr.extractLsb' 0 32 }
            else if b = 8 then { x with data := w } else { x with mask := true }) else tget VecState.reset s.hl.msix k) ∧
        { t with hl := { t.hl with msix := s.hl.msix } } = s))) ∧
  (∀ (s : State) (g f : Fin 64) (tg : RegTarget) (v : Reg32), cfgFn tg = some f → islandUp s islHL = true →
    (s.hl.up = false → s.hl.training = true → s.hl.l0 = true → Gives (.registerWrite (.host g) tg v) s (fun t => t = send s .retryStatus)) ∧
    (s.hl.up = true → (∃ r ∈ s.hl.flr, r.1 = f) → Gives (.registerWrite (.host g) tg v) s (fun t => t = send s .retryStatus))) ∧
  (∀ (s : State) (ag : Agent) (f : Fin 64) (v : Reg32), s.TablesOk → hostOf s ag f = true → (∀ r ∈ s.hl.flr, r.1 ≠ f) →
    Gives (.registerWrite ag (.memSpace f) v) s (fun t =>
      (∀ k < 64, t.hl.mse.getLsbD k = if k = f.val then v.getLsbD 1 else s.hl.mse.getLsbD k) ∧ { t with hl := { t.hl with mse := s.hl.mse } } = s) ∧
    (v.toNat % 4 = 0 ∨ v.toNat % 4 = 3 → Gives (.registerWrite ag (.power f) v) s (fun t =>
      let sends := fun k => decide (v.toNat % 4 = 0) && decide (k / 2048 = f.val) && (tget VecState.reset s.hl.msix k).pend
        && !(tget VecState.reset s.hl.msix k).mask
      (∀ k < 64, t.hl.d3.getLsbD k = if k = f.val then decide (v.toNat % 4 = 3) else s.hl.d3.getLsbD k) ∧
      (∀ k, tget VecState.reset t.hl.msix k = if sends k then { tget VecState.reset s.hl.msix k with pend := false }
        else tget VecState.reset s.hl.msix k) ∧
      t.out = s.out ++ ((s.hl.msix.map (·.1)).filter sends).map (fun k => .msix f (k % 2048)) ∧
      { t with out := s.out, hl := { t.hl with d3 := s.hl.d3, msix := s.hl.msix } } = s)) ∧
    (v.toNat / 2 ^ 5 % 8 ≤ 2 → v.toNat / 2 ^ 12 % 8 ≤ 5 → Gives (.registerWrite ag (.device f) v) s (fun t =>
      (∀ k, tget DevCtl.reset t.hl.devs k = if k = f.val then { tget DevCtl.reset s.hl.devs k with mps := wbits v 5 3, mrrs := wbits v 12 3 }
        else tget DevCtl.reset s.hl.devs k) ∧ { t with hl := { t.hl with devs := s.hl.devs } } = s)) ∧
    Gives (.registerWrite ag (.device2 f) v) s (fun t =>
      (∀ k, tget DevCtl.reset t.hl.devs k = if k = f.val then { tget DevCtl.reset s.hl.devs k with cto := wbits v 0 4 }
        else tget DevCtl.reset s.hl.devs k) ∧ { t with hl := { t.hl with devs := s.hl.devs } } = s)) ∧
  (∀ (s : State) (ag : Agent) (v : Reg32), hostOf s ag 0 = true → (∀ r ∈ s.hl.flr, r.1 ≠ 0) →
    (s.hl.vfe = false → Gives (.registerWrite ag .sriov v) s (fun t => t = { s with hl := { s.hl with vfe := v.getLsbD 31, numvf := wbits v 0 6 } })) ∧
    (s.hl.vfe = true → v.getLsbD 31 = false → exec (.registerWrite ag .sriov v) s = exec .vfDisable s))

/-- R190, R461, R478: firmware opens and closes admission. Opening what the lifecycle state forbids is refused with reason 6 on DAU_CTRL;
closing takes cause 1 and is recorded. -/
def Sys2Proof.Machine.FirmwareOpensAndClosesAdmission : Prop :=
  ∀ (s : State) (g b : Bool), pageServed s .fw .dau → Gives (.dauOpenWrite .fw g b) s (fun t =>
    t.dau = { s.dau with
      gopen := g && decide (s.pwr.lc ≠ 3) && decide (s.pwr.lc ≠ 4), bopen := b && decide (s.pwr.lc ≠ 4),
      cause := if s.dau.gopen ∧ g = false then 1 else s.dau.cause, bcause := if s.dau.bopen ∧ b = false then 1 else s.dau.bcause } ∧
    t.evr = (if (s.dau.gopen ∧ g = false) ∨ (s.dau.bopen ∧ b = false) then (offer s 0x0503 1 32 (closeCause t) (bcloseCause t) 0).evr else s.evr) ∧
    (let refused := (g = true ∧ (s.pwr.lc = 3 ∨ s.pwr.lc = 4)) ∨ (b = true ∧ s.pwr.lc = 4)
     (refused → hdr t .dau = { hdr s .dau with refused := true, reason := 6, refReason := 6, refOffset := 0x040, refDetail := 0 } ∧
       t.glb = { s.glb with refType := 0x20, refInst := 0, refReason := 6, refcnt := satInc s.glb.refcnt }) ∧
     (¬refused → hdr t .dau = hdr s .dau ∧ t.glb = s.glb)) ∧
    { t with dau := s.dau, evr := s.evr, pages := s.pages, glb := s.glb } = s)

/-- R187, R190, R471 to R476: register writes that act at once, and the admission gates.
Rests also on log entries 37, 38, 115, 132, 147, the model's choices. -/
def Obligations.RegisterWritesAndAdmission : Prop := RegisterWritesThatAreCommands ∧ FirmwareOpensAndClosesAdmission

/-- R14, R57, R353, R471: a read of a register whose island serves it answers its current value; a read of the LO half of a pair latches
the HI half for its agent, and the agent's reads of the HI half then answer the latched value, however the register has moved on. A
page whose island is off or in reset reads as zero but for its PG_ID, one whose island sleeps is not answered, and an offset with no
register is an error. R353, R355: a doorbell reads as zero, and a host function reads the bytes of its part of queue memory; a function in
D3hot answers no memory read (R350), and after a tamper event the registers answer the host none (R465). A read of TGT_CLAIM by an agent that
claims is that claim (R403, R473). A read of configuration space answers what R350, R351, R352, R358, R361 and R499 give it.
Rests also on log entries 35, 40, 132, 147, the model's choices. -/
def Obligations.RegisterReads : Prop :=
  (∀ (s : State) (f : Fin 64), reaches s (.host f) = true →
    (∀ off : BitVec 26, s.hl.d3.getLsbD f.val = true ∨ hlLocked s = true →
      Gives (.loRegisterRead (.host f) (.bar0 off)) s (fun t => t = answeredUR s)) ∧
    ∀ (off : BitVec 25) (n : Fin 513),
      (s.hl.d3.getLsbD f.val = true → Gives (.loRegisterRead (.host f) (.bar2 off n)) s (fun t => t = answeredUR s)) ∧
      (s.hl.d3.getLsbD f.val = false →
        (off.toNat < (if f.val = 0 then 65536 else 1024) → off.toNat % 8 = 0 → n.val = 4 ∨ n.val = 8 →
          Gives (.loRegisterRead (.host f) (.bar2 off n)) s (fun t => t = send s (.data (List.replicate n.val 0) false))) ∧
        ∀ o, queuePart f off.toNat = some o → Gives (.loRegisterRead (.host f) (.bar2 off n)) s (fun t =>
          t = if 1 ≤ n.val ∧ n.val ≤ 512 ∧ off.toNat % 4096 + n.val ≤ 4096
            then send s (.data ((List.range n.val).map (fun j => tget 0 s.qmem (o + j))) false) else answeredUR s))) ∧
  (∀ (s : State) (ag : Agent) (f : Fin 64) (w : CapWord), hostOf s ag f = true → (∀ r ∈ s.hl.flr, r.1 ≠ f) →
    Gives (.loRegisterRead ag (.config f w)) s (fun t => t = send s (.reg ag (BitVec.ofNat 32 (capValue s f w))))) ∧
  (∀ (s : State) (f : Fin 64), capValue s f .speed = 6 ∧ capValue s f .width = 16 ∧ capValue s f .payload = 2 ∧
    capValue s f .readRequest = 5 ∧ capValue s f .totalVfs = 63 ∧ capValue s f .resetTime = 1000 ∧ capValue s f .flrTime = 100 ∧
    capValue s f (.serial false) = pageReg s .glb 0x048 ∧ capValue s f (.serial true) = pageReg s .glb 0x04C) ∧
  ∀ (s : State) (ag : Agent) (off : BitVec 26), s.TablesOk → bar0Reaches s ag = true →
    let r := regFor ag off.toNat
    (∀ pg, r.pageId = some pg →
      (serveIsl s (pageIsland pg) = .up → ∀ t : Fin 18, r = .tgt t 0 → claims ag t = true →
        exec (.loRegisterRead ag (.bar0 off)) s = exec (.tgtClaim ag t) s) ∧
      (serveIsl s (pageIsland pg) = .up → (∀ t : Fin 18, r = .tgt t 0 → claims ag t = false) →
        (hasLatch ag = false ∨ tget none s.latch (latchKey (regOffset r) ag) = none →
          Gives (.loRegisterRead ag (.bar0 off)) s (fun t => t.out = s.out ++ [.reg ag (BitVec.ofNat 32 (regValue s r))] ∧
            { t with out := s.out, latch := s.latch } = s)) ∧
        (∀ h, hiOf r = some h → hasLatch ag = true → Gives (.loRegisterRead ag (.bar0 off)) s (fun t =>
          tget none t.latch (latchKey (regOffset h) ag) = some (BitVec.ofNat 32 (regValue s h)) ∧
          ∀ k, k ≠ latchKey (regOffset h) ag → tget none t.latch k = tget none s.latch k)) ∧
        (∀ v, hasLatch ag = true → tget none s.latch (latchKey (regOffset r) ag) = some v →
          Gives (.loRegisterRead ag (.bar0 off)) s (fun t => t.out = s.out ++ [.reg ag v]))) ∧
      (serveIsl s (pageIsland pg) = .gone → Gives (.loRegisterRead ag (.bar0 off)) s (fun t =>
        t = send s (.reg ag (if off.toNat = pageBase pg then BitVec.ofNat 32 (65536 * pageType pg + pageInst pg * 256) else 0)))) ∧
      (serveIsl s (pageIsland pg) = .asleep → Gives (.loRegisterRead ag (.bar0 off)) s (fun t =>
        t = if ag = .fw ∨ ag = .j9 then send s .fwError else answeredUR s))) ∧
    (r = .zero → Gives (.loRegisterRead ag (.bar0 off)) s (fun t => t = send s (.reg ag 0))) ∧
    (r = .undefined → Gives (.loRegisterRead ag (.bar0 off)) s (fun t => t = if ag = .fw ∨ ag = .j9 then send s .fwError else answeredUR s))

/-! ## Queue pairs and the commands of submission entries -/

namespace Sys2Proof.Machine

/-- Invalid entries behind a command leave the queue and complete with INVALID_COMMAND (R369, R371); nothing else changes. -/
structure Swept (s t : State) : Prop where
  inbox : t.rqe.inbox.Sublist s.rqe.inbox
  compl : ∃ l, t.rqe.compl = s.rqe.compl ++ l ∧ ∀ k ∈ l, k.status = 6
  rest : { t with rqe := { t.rqe with inbox := s.rqe.inbox, compl := s.rqe.compl } } = s

/-- The completion of a command that is no job (R370, R371). -/
def complOf (e : InEntry) (status detail res0 res1 : Nat) : Compl :=
  { q := e.q, cid := BitVec.ofNat 16 (e.entry.toNat / 2 ^ 16), res0 := BitVec.ofNat 64 res0, res1 := BitVec.ofNat 64 res1, cause := 0,
    status := BitVec.ofNat 8 status, detail := BitVec.ofNat 8 detail, ovr := false, late := false,
    cfg := isCfg (e.entry.toNat % 256), ctx := none }

/-- The state t is s with a completion that waits to be written. -/
def Posted (s t : State) (k : Compl) : Prop := t = { s with rqe := { s.rqe with compl := s.rqe.compl ++ [k] } }

/-- A command has ended: its completion waits to be written, and invalid entries behind it complete. -/
def Answered (s t : State) (e : InEntry) (status detail res0 res1 : Nat) : Prop :=
  ∃ a, Posted s a (complOf e status detail res0 res1) ∧ Swept a t

/-- The entry that a command of an operation code takes. -/
def Takes (s : State) (opc : Nat) (e : InEntry) : Prop := takeEntry s opc = some (e, dropEntry s e)

/-- Only one queue pair has changed. -/
def OnlyQp (s t : State) (g : Nat) (x : Qp) : Prop :=
  getQp t g = x ∧ (∀ h, h ≠ g → getQp t h = getQp s h) ∧ { t with rqe := { t.rqe with qps := s.rqe.qps } } = s

/-- A write is counted in HLK_ERR_CNT. -/
def counted (s : State) : State := { s with hl := { s.hl with errCnt := satInc s.hl.errCnt } }

/-- Queue pairs can be reached: the HL island runs and the link is ready. -/
def linkUp (s : State) : Bool := islandUp s islHL && s.hl.up

/-- A doorbell is in the BAR2 of a function: the tail at the multiples of 16, the head 8 bytes on, by the function's own queue (R353, R355). -/
def isBell (p : Bar2) (g : Fin 4096) (head : Bool) : Prop :=
  g.val = 64 * p.f.val + p.off.toNat / 16 ∧ p.off.toNat < (if p.f.val = 0 then 65536 else 1024) ∧ p.off.toNat % 16 = if head then 8 else 0

/-- What the HL island does not stop: the queue memory, and what is in it, of a function that is not in D3hot (R350), and a host memory that the
link, HLK and the function's power state let the queue engine reach (R363, R476, R482). -/
def queueReached (s : State) (f : Fin 64) (loc : Bool) : Bool :=
  loc || (s.hl.up && (hdr s .hlk).en && !(hdr s .hlk).held && !s.hl.d3.getLsbD f.val)

end Sys2Proof.Machine

/-- R50, R355, R356, R365: a doorbell that moves the tail or the head by what the queue can hold is taken; one beyond it puts the pair in
ERROR with a record; one to a pair that is OFF, or of a value beyond 16 bits, is dropped and counted, and so is one of a function in D3hot
(R350); an equal value does nothing, as does any value on a pair in ERROR. The host's earlier writes to queue memory and to its own memory have
been performed. -/
def Sys2Proof.Machine.Doorbells : Prop :=
  (∀ (s : State) (p : Bar2) (v : Word), linkUp s = true → s.hl.d3.getLsbD p.f.val = true →
    Gives (.sqTailDoorbell p v []) s (fun t => t = dropped s) ∧ Gives (.cqHeadDoorbell p v) s (fun t => t = dropped s)) ∧
  (∀ (s : State) (p : Bar2) (v : Word) (l : List Sys2Proof.Posted), linkUp s = true →
    exec (.sqTailDoorbell p v l) s = exec (.sqTailDoorbell p v []) (postedWrites s l)) ∧
  ∀ (s : State) (p h : Bar2) (g : Fin 4096) (v : Word), s.TablesOk → linkUp s = true → isBell p g false → isBell h g true →
    s.hl.d3.getLsbD p.f.val = false → s.hl.d3.getLsbD h.f.val = false →
    let x := getQp s g.val
    let n := x.sqm1.toNat + 1
    let m := x.cqm1.toNat + 1
    let d := (v.toNat + n - x.sqtail) % n
    let e := (v.toNat + m - x.cqhead) % m
    (x.st = .off ∨ 65536 ≤ v.toNat → Gives (.sqTailDoorbell p v []) s (fun t => t = counted s) ∧ Gives (.cqHeadDoorbell h v) s (fun t => t = counted s)) ∧
    (x.st = .err → v.toNat < 65536 → Gives (.sqTailDoorbell p v []) s (fun t => t = s) ∧ Gives (.cqHeadDoorbell h v) s (fun t => t = s)) ∧
    (x.st = .active ∨ x.st = .draining →
      (v.toNat < n → v.toNat < 65536 → v.toNat ≠ x.sqtail → x.sqPend + d ≤ n → Gives (.sqTailDoorbell p v []) s (fun t =>
        OnlyQp s t g.val { x with sqtail := v.toNat, sqPend := x.sqPend + d })) ∧
      (v.toNat < 65536 → v.toNat ≠ x.sqtail → n ≤ v.toNat ∨ n < x.sqPend + d → Gives (.sqTailDoorbell p v []) s (fun t =>
        ∃ a, OnlyQp s a g.val { x with st := .err } ∧ t = offer a 0x0701 2 0 g.val 1 0)) ∧
      (v.toNat = x.sqtail → v.toNat < 65536 → Gives (.sqTailDoorbell p v []) s (fun t => t = s)) ∧
      (v.toNat < m → v.toNat < 65536 → v.toNat ≠ x.cqhead → e ≤ x.cqUsed → Gives (.cqHeadDoorbell h v) s (fun t =>
        OnlyQp s t g.val { x with cqhead := v.toNat, cqUsed := x.cqUsed - e })) ∧
      (v.toNat < 65536 → v.toNat ≠ x.cqhead → m ≤ v.toNat ∨ x.cqUsed < e → Gives (.cqHeadDoorbell h v) s (fun t =>
        ∃ a, OnlyQp s a g.val { x with st := .err } ∧ t = offer a 0x0701 2 0 g.val 2 0)) ∧
      (v.toNat = x.cqhead → v.toNat < 65536 → Gives (.cqHeadDoorbell h v) s (fun t => t = s)))

/-- R19, R20, R366, R367: RQE_ENTRY_FETCH fetches from the pair whose turn has come in the round robin, among the ACTIVE pairs with a
pending entry and a free CQ slot, whose queue can be reached and whose function is not being reset: 128 bytes at the SQ head, and after a
tamper event only STATUS_READ and LOG_READ (R465). An entry that a command takes is the first of its SQ, is valid, and
follows no configuration command whose completion has not been written. -/
def Sys2Proof.Machine.EntriesAreFetchedInTurn : Prop :=
  (∀ (s : State) (g : Fin 4096), s.TablesOk → islandUp s islHL = true → s.pwr.pfw = false → (hdr s .rqe).held = false → s.rqe.rr < 4096 →
    nextQueue s = some g →
    let x := getQp s g.val
    x.st = .active ∧ 0 < x.sqPend ∧ x.cqUsed + x.outst < x.cqm1.toNat + 1 ∧ queueReached s (fnOf g) x.sqloc = true ∧
    (∀ r ∈ s.hl.flr, r.1 ≠ fnOf g) ∧
    (hlLocked s = true → ∃ b, natOf (queueRead s (fnOf g) x.sqloc x.sqBase.toNat (128 * x.sqhd) 128) = 256 * b + 0x20 ∨
      natOf (queueRead s (fnOf g) x.sqloc x.sqBase.toNat (128 * x.sqhd) 128) = 256 * b + 0x21) ∧
    (∀ h < 4096, fetchable s h = true → (g.val + 4096 - s.rqe.rr) % 4096 ≤ (h + 4096 - s.rqe.rr) % 4096) ∧
    Gives .rqeEntryFetch s (fun t => ∃ (a : State) (e : InEntry),
      e.q = g ∧ e.prot = entryProt s (fnOf g) x ∧
      e.entry.toNat = natOf (queueRead s (fnOf g) x.sqloc x.sqBase.toNat (128 * x.sqhd) 128) ∧
      a.rqe.inbox = s.rqe.inbox ++ [e] ∧ a.rqe.rr = (g.val + 1) % 4096 ∧
      getQp a g.val = { x with sqhd := (x.sqhd + 1) % (x.sqm1.toNat + 1), sqPend := x.sqPend - 1, outst := x.outst + 1 } ∧
      (∀ h, h ≠ g.val → getQp a h = getQp s h) ∧
      { a with rqe := { a.rqe with inbox := s.rqe.inbox, rr := s.rqe.rr, qps := s.rqe.qps } } = s ∧ Swept a t)) ∧
  ∀ (s : State) (opc : Nat) (e : InEntry) (s1 : State), takeEntry s opc = some (e, s1) →
    e.entry.toNat % 256 = opc ∧ entInvalid e.q e.entry = none ∧ cfgHeld s e.q = false ∧
    ∃ a b, s.rqe.inbox = a ++ e :: b ∧ (∀ y ∈ a, y.q ≠ e.q) ∧ s1 = { s with rqe := { s.rqe with inbox := a ++ b } }

/-- R364 to R367, R379: the doorbells, and the fetching of submission entries.
Rests also on log entries 95, 98, 117, the model's choices. -/
def Obligations.DoorbellsAndFetching : Prop := Doorbells ∧ EntriesAreFetchedInTurn

/-- R363, R368, R370, R379, R383: the admin queue of a function opens empty, in phase 1, when the tests pass, and reports the reason when
one fails; clearing EN drains it, and it goes OFF when nothing is outstanding; unmasking a vector sends the message that was held.
COMPLETION_ENTRY_WRITE writes the 32 bytes of the oldest completion that can be written to the CQ slot at the tail, in queue memory or in host
memory, which moves on and turns the phase at the end, and its message follows, unless the vector is masked or the function is in D3hot (R350);
the entry is no longer outstanding, and the context of a completed job becomes FREE (R320).
Rests also on log entry 96, the model's choice. -/
def Obligations.QueuePairsOpenCloseAndComplete : Prop :=
  (∀ (s : State) (f : Fin 64), s.TablesOk → linkUp s = true → s.hl.d3.getLsbD f.val = false → hlLocked s = false →
    let x := getQp s (64 * f.val)
    let ask : QpAsk := { rsvd := false, iv := x.iv.toNat, ien := x.ien, sqloc := x.sqloc, cqloc := x.cqloc,
                         sqm1 := x.sqm1.toNat, cqm1 := x.cqm1.toNat, sqBase := x.sqBase.toNat, cqBase := x.cqBase.toNat }
    (x.en = false → ∀ r, queueTest s f 0 true ask = some r →
      Gives (.adminQueueEnable f) s (fun t => OnlyQp s t (64 * f.val) { x with reason := BitVec.ofNat 8 r })) ∧
    (x.en = false → queueTest s f 0 true ask = none → s.hl.kept.getLsbD f.val = false →
      Gives (.adminQueueEnable f) s (fun t => OnlyQp s t (64 * f.val)
        { x with en := true, st := .active, sqhd := 0, sqtail := 0, sqPend := 0, cqtail := 0, cqhead := 0, cqUsed := 0,
                 phase := true, outst := 0, discard := false })) ∧
    (x.en = true → Gives (.adminQueueDrain f) s (fun t => OnlyQp s t (64 * f.val)
      { x with en := false, st := .draining, discard := decide (x.st = .err) })) ∧
    (x.st = .draining → x.outst = 0 → Gives (.queueDrainComplete f) s (fun t =>
      OnlyQp s t (64 * f.val) { x with en := false, st := .off, sqPend := 0, sqtail := x.sqhd })) ∧
    ∀ v : Fin 2048, v.val < vecCount f → Gives (.msixVectorUnmask f v) s (fun t =>
      let k := 2048 * f.val + v.val
      (∀ j, tget VecState.reset t.hl.msix j =
        if j = k then { tget VecState.reset s.hl.msix k with mask := false, pend := false } else tget VecState.reset s.hl.msix j) ∧
      t.out = s.out ++ (if (tget VecState.reset s.hl.msix k).pend then [.msix f v.val] else []) ∧
      { t with out := s.out, hl := { t.hl with msix := s.hl.msix } } = s)) ∧
  (∀ (k : Compl) (slot : BitVec 20) (hd : Nat) (p : Bool), hd < 65536 → k.res1.toNat + (if k.ctx.isSome then slot.toNat else 0) < 2 ^ 64 →
    (complBytes k slot hd p).length = 32 ∧
    natOf (complBytes k slot hd p) = k.res0.toNat + 2 ^ 64 * (k.res1.toNat + (if k.ctx.isSome then slot.toNat else 0)) + 2 ^ 128 * k.cid.toNat + 2 ^ 144 * k.cause.toNat
      + 2 ^ 160 * k.status.toNat + 2 ^ 168 * k.detail.toNat + (if k.ovr then 2 ^ 176 else 0) + (if k.late then 2 ^ 177 else 0)
      + 2 ^ 192 * hd + 2 ^ 208 * k.q.val + (if p then 2 ^ 224 else 0)) ∧
  ∀ (s : State) (k : Compl) (before rest : List Compl), s.MemOk → s.TablesOk → islandUp s islHL = true → s.pwr.stopped = false →
    s.pwr.tamperPend = false → s.pwr.lcPend = none → s.hl.flr = [] → s.rqe.compl = before ++ k :: rest →
    (∀ y ∈ before, complWaits s y = true) → (∀ c, k.ctx = some c → ∀ r ∈ s.rqe.running, r.kind ≠ .cancel c) →
    let x := getQp s k.q.val
    let f := fnOf k.q
    let last := decide (x.cqtail = x.cqm1.toNat)
    let at_ := x.cqBase.toNat + 32 * x.cqtail
    queueReached s f x.cqloc = true → x.cqBase.toNat % 4096 = 0 → at_ + 32 ≤ 2 ^ 56 →
    x.st = .active ∨ (x.st = .draining ∧ x.discard = false) →
    Gives .completionEntryWrite s (fun t => ∃ a : State, Swept a t ∧ a.rqe.compl = before ++ rest ∧
      getQp a k.q.val = { x with cqtail := if last then 0 else x.cqtail + 1, phase := if last then !x.phase else x.phase,
                                 cqUsed := x.cqUsed + 1, outst := x.outst - 1 } ∧
      (∀ h, h ≠ k.q.val → getQp a h = getQp s h) ∧
      (let bs := complBytes k s.dau.slot x.sqhd x.phase
       let put := fun (base j : Nat) (old : Byte) => if base ≤ j ∧ j < base + 32 then (bs[j - base]?).getD 0 else old
       (x.cqloc = true → (∀ j, tget 0 a.qmem j = put (0x40000 * f.val + at_) j (tget 0 s.qmem j)) ∧
         a.mem = s.mem ∧ a.poison = s.poison ∧ a.upset = s.upset) ∧
       (x.cqloc = false → a.qmem = s.qmem ∧ ∀ j, rdByte a j = put (hostBase + at_) j (rdByte s j))) ∧
      (let vec := 2048 * f.val + x.iv.toNat
       let msg := x.ien && !(tget VecState.reset s.hl.msix vec).mask && !s.hl.d3.getLsbD f.val
       a.out = s.out ++ (if msg && s.hl.up then [.msix f x.iv.toNat] else []) ∧
       (∀ j, tget VecState.reset a.hl.msix j =
         if j = vec ∧ x.ien = true ∧ msg = false then { tget VecState.reset s.hl.msix j with pend := true }
         else tget VecState.reset s.hl.msix j)) ∧
      (∀ d, getCtx a d = if k.ctx = some d then Ctx.free else getCtx s d) ∧
      (match k.ctx with
        | none => a.csc = s.csc ∧ a.dau = s.dau
        | some c => a.csc = { s.csc with poolRsv := s.csc.poolRsv - (getCtx s c).need, fifo := s.csc.fifo.erase c, cal := s.csc.cal.erase c } ∧
            a.dau = { s.dau with credits := s.dau.credits.filter (fun d => decide (d ≠ c)) }) ∧
      { a with mem := s.mem, poison := s.poison, upset := s.upset, qmem := s.qmem, out := s.out, hl := { a.hl with msix := s.hl.msix },
               rqe := { a.rqe with compl := s.rqe.compl, qps := s.rqe.qps }, ctxs := s.ctxs, csc := s.csc, dau := s.dau } = s)

namespace Sys2Proof.Machine

/-- A field of an entry: byte offset, low bit and width (R369). -/
def fieldOf (e : InEntry) (off lo w : Nat) : Nat := e.entry.toNat / 2 ^ (8 * off + lo) % 2 ^ w

/-- The lowest number from a first one on that a table does not hold. -/
def Lowest (free : Nat → Prop) (first h : Nat) : Prop := first ≤ h ∧ free h ∧ ∀ k, first ≤ k → k < h → ¬free k

/-- A command of an entry is refused (R371): CMD_REFUSED with a reason, and nothing else. -/
def RefusedWith (c : Instr) (s : State) (e : InEntry) (reason : Nat) : Prop :=
  Gives c s (fun t => Answered (dropEntry s e) t e 5 reason 0 0)

/-- A command of an entry ends with SUCCESS and a result word, and leaves a state that has a property, but for the completion. -/
def SucceedsWith (c : Instr) (s : State) (e : InEntry) (res0 : Nat) (P : State → Prop) : Prop :=
  Gives c s (fun t => ∃ a, P a ∧ Answered a t e 0 0 res0 0)

/-- The bytes of a directory's main area, overflow area and filter range (R29, R136, R137). -/
def inDirArea (x : Directory) (k : Nat) : Bool :=
  decide (0x100000000 + 64 * x.mainBase.toNat ≤ k ∧ k < 0x100000000 + 64 * (x.mainBase.toNat + 2 ^ x.mainLog2.toNat))
    || decide (0x100000000 + 64 * x.ovfBase.toNat ≤ k ∧ k < 0x100000000 + 64 * (x.ovfBase.toNat + x.ovfCount.toNat))
    || decide (x.filtLog2 ≠ 0 ∧ filterBase + x.filtBase.toNat / 8 ≤ k ∧ k < filterBase + (x.filtBase.toNat + 2 ^ x.filtLog2.toNat) / 8)

/-- The queue pair that QUEUE_CREATE asks for (R379). -/
def queueAsk (e : InEntry) : QpAsk :=
  { rsvd := entRsvd e.entry, iv := fieldOf e 8 0 11, ien := decide (fieldOf e 4 14 1 = 1), sqloc := decide (fieldOf e 4 12 1 = 1),
    cqloc := decide (fieldOf e 4 13 1 = 1), sqm1 := fieldOf e 0x0C 0 16, cqm1 := fieldOf e 0x0C 16 16,
    sqBase := fieldOf e 0x10 0 64, cqBase := fieldOf e 0x18 0 64 }

/-- The slot of the vault in which KEY_INSTALL puts its key: the lowest free one, or the one it names. -/
def KeySlot (s : State) (e : InEntry) (k : Nat) : Prop :=
  if fieldOf e 4 12 1 = 1 then Lowest (fun j => (getVault s j).valid = false) 0 k else k = fieldOf e 4 0 12

/-- The key of an entry is in its slot for a function (R378, R411). -/
def KeyIn (b a : State) (f : Fin 64) (e : InEntry) (k : Nat) : Prop :=
  (getVault a k).key.toNat = fieldOf e 0x20 0 256 ∧ (getVault a k).func = f ∧ (getVault a k).valid = true ∧
  (getVault a k).gen = (getVault b k).gen + 1 ∧ (getVault a k).kchk.toNat = crc16 (bytesOf (fieldOf e 0x20 0 256) 32) ∧ (∀ j, j ≠ k → getVault a j = getVault b j) ∧
  { a with poison := b.poison, objs := { a.objs with vault := b.objs.vault } } = b

/-- A key may be installed in a slot now (R378, R412, R413, R461). -/
def KeyFits (s : State) (f : Fin 64) (e : InEntry) (k : Nat) : Prop :=
  KeySlot s e k ∧ k < 4096 ∧ fieldOf e 4 13 1 = 0 ∧ s.pwr.lc ≠ 3 ∧ s.pwr.lc ≠ 4 ∧ s.objs.vaultFail = false ∧
  (fieldOf e 4 12 1 = 0 → (getVault s k).valid = true ∧ (getVault s k).func = f) ∧
  ∀ w ∈ s.objs.wipes, wipeCovers w k = false

/-- A KEY_INSTALL that waits for a wipe is done when it ends: an ERASE with the wipe of its slot, an install that a wipe refused with a wipe that
covered its slot, or with the last one (R378, R412, R413). -/
def endsWith (w : Wipe) (rest : List Wipe) (k : Fin 4096) (refused : Bool) : Bool :=
  if refused then wipeCovers w k.val || rest.isEmpty else decide (w = .slot k)

/-- A command of a queue that waits for the end of a wipe. -/
def runEnds (w : Wipe) (rest : List Wipe) (r : Running) : Bool :=
  match r.kind with | .erase k refused => endsWith w rest k refused | _ => false

/-- The completion that such a command then has: an ERASE reports its slot, a refused install RESOURCE_ABSENT. -/
def wipeCompl (r : Running) : Compl :=
  let z := match r.kind with | .erase k false => (0, k.val) | _ => (5, 0)
  { q := r.q, cid := r.cid, res0 := BitVec.ofNat 64 z.2, res1 := 0, cause := 0, status := BitVec.ofNat 8 z.1, detail := BitVec.ofNat 8 z.1,
    ovr := false, late := false, cfg := r.cfg, ctx := none }

end Sys2Proof.Machine

/-- R137, R138, R140, R375, R376, R379: segments, directories and queue pairs are made and taken away by their commands: a handle is the lowest free
one; the object holds what the entry says; a directory is filled with zeros before it is READY and its command completes; a handle
that is not the function's is refused.
Rests also on log entry 96, the model's choice. -/
def Obligations.ObjectsAreMadeAndTakenAway : Prop :=
  (∀ (s : State) (e : InEntry), s.TablesOk → asUp s = true → Takes s 0x11 e →
    let d : Desc256 := BitVec.ofNat 256 (fieldOf e 8 0 256)
    let b := dropEntry s e
    (descOk d = false → RefusedWith .segCreate s e 2) ∧
    (descOk d = true → dV d = false ∨ inRegion s (fnOf e.q) (dBase d) (dBase d + dLimit d) = false → RefusedWith .segCreate s e 1) ∧
    (descOk d = true → dV d = true → inRegion s (fnOf e.q) (dBase d) (dBase d + dLimit d) = true →
      ∀ h, Lowest (fun k => getSeg s k = none) 1 h →
        (16383 < h → RefusedWith .segCreate s e 5) ∧
        (h ≤ 16383 → SucceedsWith .segCreate s e h (fun a =>
          (∀ k, getSeg a k = if k = h then some ⟨d, fnOf e.q⟩ else getSeg s k) ∧ { a with objs := { a.objs with segs := b.objs.segs } } = b)))) ∧
  (∀ (s : State) (e : InEntry), s.TablesOk → asUp s = true → Takes s 0x12 e →
    let h := fieldOf e 4 0 14
    let b := dropEntry s e
    if ∃ o, getSeg s h = some o ∧ o.func = fnOf e.q ∧ h ≠ 0 then
      SucceedsWith .segDestroy s e 0 (fun a =>
        (∀ k, getSeg a k = if k = h then none else getSeg s k) ∧ { a with objs := { a.objs with segs := b.objs.segs } } = b)
    else RefusedWith .segDestroy s e 5) ∧
  (∀ (s : State) (e : InEntry), s.TablesOk → islandUp s islDR = true → Takes s 0x13 e →
    let b := dropEntry s e
    (∀ r, dirTest s (dirAsk e.entry) = some r → RefusedWith .dirCreate s e r) ∧
    (dirTest s (dirAsk e.entry) = none → ∀ h : Fin 1024, Lowest (fun k => getDir s k = Directory.free) 0 h.val →
      Gives .dirCreate s (fun t =>
        let x := getDir t h.val
        (x.st = .creating ∧ x.ktype.toNat = fieldOf e 4 0 4 ∧ x.mainLog2.toNat = fieldOf e 4 4 5 ∧ x.filtLog2.toNat = fieldOf e 4 9 5 ∧
          x.cache = decide (fieldOf e 4 14 1 = 1) ∧ x.seed.toNat = fieldOf e 8 0 64 ∧ x.miss.toNat = fieldOf e 0x10 0 64 ∧
          x.mainBase.toNat = fieldOf e 0x18 0 24 ∧ x.ovfBase.toNat = fieldOf e 0x1C 0 24 ∧ x.ovfCount.toNat = fieldOf e 0x20 0 25 ∧
          x.filtBase.toNat = fieldOf e 0x24 0 26 ∧ x.func = fnOf e.q) ∧
        (∀ k, k ≠ h.val → getDir t k = getDir s k) ∧
        t.rqe.running = s.rqe.running ++ [⟨e.q, BitVec.ofNat 16 (fieldOf e 0 16 16), true, .fill h⟩] ∧
        { t with dir := { t.dir with dirs := b.dir.dirs }, rqe := { t.rqe with running := b.rqe.running } } = b))) ∧
  (∀ (s : State) (h : Fin 1024) (r : Running), s.MemOk → s.TablesOk → islandUp s islDR = true →
    s.rqe.running.find? (fun y => decide (y.kind = .fill h)) = some r →
    let x := getDir s h.val
    Gives (.dirCreateFillDone h) s (fun t =>
      getDir t h.val = { x with st := .ready, seq := 0, ovfUsed := 0, depth := 0, entries := 0, fvalid := decide (x.filtLog2 ≠ 0) } ∧
      (∀ k, k ≠ h.val → getDir t k = getDir s k) ∧
      (∀ k, rdByte t k = if inDirArea x k then 0 else rdByte s k) ∧
      t.rqe = { s.rqe with
        running := s.rqe.running.erase r,
        compl := s.rqe.compl ++ [{ q := r.q, cid := r.cid, res0 := BitVec.ofNat 64 h.val, res1 := 0, cause := 0, status := 0,
                                   detail := 0, ovr := false, late := false, cfg := r.cfg, ctx := none }] } ∧
      { t with mem := s.mem, poison := s.poison, upset := s.upset, dir := { t.dir with dirs := s.dir.dirs }, ctxs := s.ctxs, csc := s.csc, rqe := s.rqe } = s)) ∧
  (∀ (s : State) (e : InEntry), s.TablesOk → islandUp s islDR = true → Takes s 0x14 e →
    let h := fieldOf e 4 0 10
    let b := dropEntry s e
    ((getDir s h).st = .free ∨ (getDir s h).func ≠ fnOf e.q → RefusedWith .dirDestroy s e 5) ∧
    ((getDir s h).st ≠ .free → (getDir s h).func = fnOf e.q →
      ((∃ c y, (c, y) ∈ s.ctxs ∧ ∃ d ∈ y.dirs, d.val = h) → RefusedWith .dirDestroy s e 0x0B) ∧
      (¬(∃ c y, (c, y) ∈ s.ctxs ∧ ∃ d ∈ y.dirs, d.val = h) → SucceedsWith .dirDestroy s e 0 (fun a =>
        (∀ k, getDir a k = if k = h then Directory.free else getDir s k) ∧
        { a with dir := { a.dir with dirs := b.dir.dirs, cache := b.dir.cache } } = b)))) ∧
  (∀ (s : State) (e : InEntry), s.TablesOk → Takes s 0x18 e →
    let f := fnOf e.q
    let g := 64 * f.val + fieldOf e 4 0 6
    let k := queueAsk e
    (∀ r, queueTest s f (fieldOf e 4 0 6) false k = some r → RefusedWith .queueCreate s e r) ∧
    (queueTest s f (fieldOf e 4 0 6) false k = none → SucceedsWith .queueCreate s e 0 (fun a => OnlyQp (dropEntry s e) a g
      { en := true, st := .active, sqm1 := BitVec.ofNat 16 k.sqm1, cqm1 := BitVec.ofNat 16 k.cqm1, ien := k.ien, sqloc := k.sqloc,
        cqloc := k.cqloc, iv := BitVec.ofNat 11 k.iv, sqBase := BitVec.ofNat 56 k.sqBase, cqBase := BitVec.ofNat 56 k.cqBase,
        sqhd := 0, sqtail := 0, sqPend := 0, cqtail := 0, cqhead := 0, cqUsed := 0, phase := true, outst := 0, discard := false,
        reason := (getQp s g).reason }))) ∧
  ∀ (s : State) (e : InEntry), s.TablesOk → Takes s 0x19 e →
    let idx := fieldOf e 4 0 6
    let g := 64 * (fnOf e.q).val + idx
    let x := getQp s g
    (idx = 0 → RefusedWith .queueDelete s e 1) ∧
    (idx ≠ 0 → x.st = .off → RefusedWith .queueDelete s e 5) ∧
    (idx ≠ 0 → x.st ≠ .off → x.outst ≠ 0 → RefusedWith .queueDelete s e 0x0B) ∧
    (idx ≠ 0 → x.st ≠ .off → x.outst = 0 → SucceedsWith .queueDelete s e 0 (fun a => OnlyQp (dropEntry s e) a g
      { x with en := false, st := .off, sqPend := 0, sqtail := x.sqhd }))

/-- R360, R378, R411 to R413: KEY_INSTALL that a Secure stream carried puts its key into the lowest free slot, or replaces the key of the
function's slot; one that it did not carry is denied and touches nothing; ERASE starts a wipe of the slot, and completes when the
wipe ends. The same entry in a secured session is answered there. A wipe that ends clears what it covers, the whole vault with every copy of a
key, and completes the commands that waited for it; where a word does not read back as zero the vault FAILs, with a record (R412). One that wiped
the last keys of a function being reset ends the reset, the function's queue pairs OFF (R362). The polynomial of KCHK is the model's choice (log
entry 101).
Rests also on log entries 98, 99, 101, 116, the model's choices. -/
def Obligations.KeysAreInstalledAndWiped : Prop :=
  (∀ (s : State) (e : InEntry), s.TablesOk → Takes s 0x15 e →
    let b := dropEntry s e
    (e.prot = false → Gives .keyInstall s (fun t => Answered b t e 8 1 0 0)) ∧
    (e.prot = true → ∀ k, KeyFits s (fnOf e.q) e k → SucceedsWith .keyInstall s e k (fun a => KeyIn b a (fnOf e.q) e k)) ∧
    (e.prot = true → fieldOf e 4 13 1 = 1 → fieldOf e 4 12 1 = 0 → fieldOf e 0x20 0 256 = 0 → s.pwr.lc ≠ 3 → s.pwr.lc ≠ 4 →
      s.objs.vaultFail = false → ∀ k : Fin 4096, k.val = fieldOf e 4 0 12 → (getVault s k.val).valid = true →
      (getVault s k.val).func = fnOf e.q → (∀ w ∈ s.objs.wipes, wipeCovers w k.val = false) → Gives .keyInstall s (fun t =>
        t = { b with objs := { b.objs with wipes := b.objs.wipes ++ [.slot k] },
                     rqe := { b.rqe with running := b.rqe.running ++ [⟨e.q, BitVec.ofNat 16 (fieldOf e 0 16 16), true, .erase k false⟩] } }))) ∧
  (∀ (s : State) (n : Nat) (f : Fin 64) (e : InEntry), s.TablesOk → linkUp s = true → sessionUp s n = true →
    e.entry.toNat % 256 = 0x15 → entRsvd e.entry = false → ∀ k, KeyFits s f e k →
    Gives (.doeKeyInstall n f e.entry) s (fun t => ∃ a r, KeyIn s a f e k ∧
      r.toNat = k + 2 ^ 128 * fieldOf e 0 16 16 ∧ t = { a with out := a.out ++ [.doeCompletion r] })) ∧
  (∀ (s : State) (f : Fin 64) (ks : List Nat) (keep : Bool), s.TablesOk → s.objs.wipes = [.function f ks] → s.pwr.locked = false →
    s.pwr.tamperPend = false → s.pwr.lcPend = none → s.pwr.lcWipe = none → s.hl.flr = [(f, keep)] →
    fnBusy s f keep = false → (∀ r ∈ s.rqe.running, ∀ k b, r.kind ≠ .erase k b) →
    (∀ k, (getVault s k).valid = true → (getVault s k).func = f → k ∈ ks) →
    Gives (.termiteWipeComplete none) s (fun t => t.objs.wipes = [] ∧ t.hl.flr = [] ∧
      (∀ k, getVault t k = if k ∈ ks then VaultSlot.empty else getVault s k) ∧
      ∀ g : Fin 4096, fnOf g = f → (getQp t g.val).st = .off)) ∧
  ∀ (s : State) (w : Wipe) (rest : List Wipe), s.MemOk → s.TablesOk → s.objs.wipes = w :: rest → s.pwr.locked = false →
    s.hl.flr = [] → s.pwr.tamperPend = false → s.pwr.lcPend = none → s.pwr.lcWipe = none →
    Gives (.termiteWipeComplete none) s (fun t =>
      (∀ k, Gives (.termiteWipeComplete (some k)) s (fun u =>
        u = offer { t with objs := { t.objs with vaultFail := true } } 0x010A 4 33 (if w = .scratchpads then 0 else k.val) 0 0)) ∧
      t.rqe = { s.rqe with running := s.rqe.running.filter (fun r => !runEnds w rest r),
                           compl := s.rqe.compl ++ (s.rqe.running.filter (runEnds w rest)).map wipeCompl } ∧
      t.hl.doe = s.hl.doe.filter (fun d => !endsWith w rest d.slot d.refused) ∧
      t.out.length = s.out.length + s.hl.doe.countP (fun d => endsWith w rest d.slot d.refused) ∧
      t.objs.wipes = rest ∧
      (w = .scratchpads → (∀ k, rdByte t k = if onDieBase ≤ k ∧ k < onDieBase + 0x1000000 then 0 else rdByte s k) ∧ t.objs.vault = s.objs.vault) ∧
      (w = .vault → (∀ k, getVault t k = VaultSlot.empty) ∧ ∀ p e x, getStream t p e = some x → x.keys = []) ∧
      (w ≠ .scratchpads → w ≠ .vault → (∀ k, getVault t k = if wipeCovers w k then VaultSlot.empty else getVault s k) ∧ t.mem = s.mem) ∧
      t.objs.vaultFail = s.objs.vaultFail ∧ t.objs.segs = s.objs.segs ∧ t.objs.progs = s.objs.progs ∧ t.ctxs = s.ctxs)

namespace Sys2Proof.Machine

/-- The deadline, the class and a budget entry of a JOB_SUBMIT (R372). -/
def jobDeadline (e : InEntry) : Nat := fieldOf e 8 0 32
def jobGuaranteed (e : InEntry) : Bool := decide (fieldOf e 4 16 2 = 0)
def jobBudget (e : InEntry) (c : Nat) : Nat := fieldOf e (0x10 + 4 * c) 0 32

/-- The demand that the DAU adds for a job in a class (R174): its budget, and 3,000 Q-cycles more in class 9. -/
def newDemand (e : InEntry) (c : Nat) : Nat := jobBudget e c + (if c = 9 then 3000 else 0)

/-- What the DAU's decision changes but for the job (R176): the count of free values, and the longest decision, of at most 120
A-cycles. -/
structure Decided (s a : State) : Prop where
  free : a.free = s.free + 1
  more : s.dau.decMax.toNat ≤ a.dau.decMax.toNat
  bound : a.dau.decMax.toNat ≤ max 120 s.dau.decMax.toNat

/-- The DAU can take an entry. -/
def dauTakes (s : State) (e : InEntry) : Prop := dauReady s = true ∧ Takes s 0x01 e

/-- A JOB_CANCEL that waits for the decision on the job of an entry (R22). -/
def awaits (e : InEntry) (r : Running) : Prop := ∃ n, r.kind = .cancelDue e.q (BitVec.ofNat 16 (fieldOf e 0 16 16)) n

/-- A completion of a running command. -/
def complRun (r : Running) (status detail res0 res1 : Nat) : Compl :=
  { q := r.q, cid := r.cid, res0 := BitVec.ofNat 64 res0, res1 := BitVec.ofNat 64 res1, cause := 0, status := BitVec.ofNat 8 status,
    detail := BitVec.ofNat 8 detail, ovr := false, late := false, cfg := r.cfg, ctx := none }

/-- No block holds its requests under QUIESCE (R482). -/
def noneHeld (s : State) : Prop := ∀ pg, (hdr s pg).held = false

/-- The segment that a job's initial table takes from a handle of its entry (R297, R372). -/
def entrySeg (s : State) (e : InEntry) (i : Nat) : Desc256 :=
  match ownSeg s (fnOf e.q) (fieldOf e (0x50 + 2 * (i - 2)) 0 14) with | some d => d | none => 0

/-- The bytes of a range that a master can read and write in place: each is mapped under its own address, its memory answers, it
is not poisoned, and its line has not been answered COLLIDED four times (R36, R52, R409). -/
def PlainFor (s : State) (m : Master) (ga n : Nat) : Prop :=
  ∀ i < n, ∃ r, place s m (ga + i) = some ⟨r, ga + i⟩ ∧ errorAt s ⟨r, ga + i⟩ = false ∧ poisoned s ⟨r, ga + i⟩ = false ∧
    r ≠ .hcache ∧ r ≠ .filter ∧ fourthAnswer s ((ga + i) / 64) = false

/-- Such a range for the host DMA (R375). -/
def Plain (s : State) (ga n : Nat) : Prop := PlainFor s .dma ga n

end Sys2Proof.Machine

/-- R173 to R175: a guaranteed job that the DAU accepts asks for a deadline below 2^20 and beyond the setup allowance, meets the per-job
cap of every class, and leaves, at every slot from its effective deadline on, no more demand due than the capacity up to that slot. -/
def Sys2Proof.Machine.AcceptedDemandFitsTheCapacity : Prop :=
  ∀ (s : State) (e : InEntry), jobGuaranteed e = true → admitJob s (fnOf e.q) e.entry = none →
    s.dau.gopen = true ∧ jobDeadline e < 2 ^ 20 ∧ s.dau.cfg.active.setup.toNat < jobDeadline e ∧
    (∀ p : Fin 6, jobBudget e (1 + p.val) ≠ 0 → (s.xpts[p.val]).qualified = true) ∧
    ∀ c : Fin 11,
      (jcap c.val ≠ 0 → newDemand e c.val ≤ jcap c.val * (jobDeadline e - s.dau.cfg.active.setup.toNat)) ∧
      ∀ t, jobDeadline e - s.dau.cfg.active.setup.toNat ≤ t →
        demandDue s c t + newDemand e c.val ≤ (s.dau.cfg.active.caps[c.val]).toNat * t

/-- R18, R171 to R174, R297, R318, R373: JOB_SUBMIT is refused with the code and detail of the first failing check and the slot of the
decision, or takes the lowest free context, whose record holds what the entry says and whose demand is added; it is READY, unless a
release slot or a directory that is being filled makes it wait. A DAU with EN = 0 answers with an error (R476; DATA_ERROR with detail 2 is
the model's choice, log entry 29). -/
def Sys2Proof.Machine.JobsAreDecided : Prop :=
  (∀ (s : State) (e : InEntry), dauTakes s e → (∀ r ∈ s.rqe.running, ¬awaits e r) → (hdr s .dau).en = false →
    Gives .jobSubmit s (fun t => Answered (dropEntry s e) t e 7 2 0 0)) ∧
  ∀ (s : State) (e : InEntry), s.TablesOk → dauTakes s e → (∀ r ∈ s.rqe.running, ¬awaits e r) → (hdr s .dau).en = true →
    let n := s.dau.slot
    (∀ code detail, admitJob s (fnOf e.q) e.entry = some (code, detail) → Gives .jobSubmit s (fun t => ∃ a, Decided s a ∧
      a = { dropEntry s e with
        free := a.free,
        dau := { s.dau with ref := satInc s.dau.ref, lastQueue := BitVec.ofNat 12 e.q.val, lastCode := BitVec.ofNat 8 code,
                            lastDetail := BitVec.ofNat 8 detail, decMax := a.dau.decMax } } ∧
      Answered a t e code detail (2 ^ 32 * n.toNat) (n.toNat + 15 * 2 ^ 32))) ∧
    (admitJob s (fnOf e.q) e.entry = none → ∀ c, Lowest (fun k => getCtx s k = Ctx.free) 0 c → Gives .jobSubmit s (fun t =>
      ∃ a, Decided s a ∧ Swept a t ∧
        { a with free := s.free, dau := s.dau, csc := s.csc, ctxs := s.ctxs } = dropEntry s e ∧
        a.dau = { s.dau with acc := satInc s.dau.acc, order := s.dau.order + 1, decMax := a.dau.decMax } ∧
        (∀ k, k ≠ c → getCtx a k = getCtx s k) ∧
        a.csc.poolRsv = s.csc.poolRsv + (if jobGuaranteed e then (if fieldOf e 4 22 1 = 1 then 1 else 10) else 0) ∧
        let x := getCtx a c
        let reldelay := fieldOf e 0x0C 0 20
        (x.queue = e.q ∧ x.cid = BitVec.ofNat 16 (fieldOf e 0 16 16) ∧ x.func = fnOf e.q ∧ x.be = !(jobGuaranteed e) ∧
          x.novec = decide (fieldOf e 4 22 1 = 1) ∧ x.arrslot = n ∧ x.prog.toNat = fieldOf e 4 0 16 ∧
          (∀ j : Fin 8, (x.dirSlots[j.val]).map (·.val) =
            if fieldOf e (0x40 + 2 * j.val) 15 1 = 1 then some (fieldOf e (0x40 + 2 * j.val) 0 10) else none) ∧
          x.depth.toNat = fieldOf e 4 18 4 ∧ x.aff.toNat = fieldOf e 4 23 2 ∧ x.affseq.val = fieldOf e 4 25 4 ∧ x.order = s.dau.order ∧
          (∀ p, ownProg s (fnOf e.q) (fieldOf e 4 0 16) = some p → x.initseg[1] = p.desc) ∧
          (∀ i : Fin 16, 2 ≤ i.val → x.initseg[i.val] = entrySeg s e i.val) ∧
          (∀ k : Fin 11, (x.budget[k.val]).toNat = jobBudget e k.val) ∧ x.meter = Vector.replicate 11 0 ∧
          x.void = false ∧ x.cancel = false ∧ x.ovr = false ∧ x.late = false ∧ x.started = false ∧ x.res = false) ∧
        (jobGuaranteed e = true →
          x.dlslot = n + BitVec.ofNat 20 (jobDeadline e) ∧ x.eff = x.dlslot - BitVec.ofNat 20 s.dau.cfg.active.setup.toNat ∧ x.held = true ∧
          (∀ k : Fin 11, x.rem[k.val] = newDemand e k.val) ∧ x.st = .ready ∧ a.csc.cal = s.csc.cal.erase c ++ [c]) ∧
        (jobGuaranteed e = false → x.held = false ∧ (∀ k : Fin 11, x.rem[k.val] = 0) ∧
          (reldelay ≠ 0 → x.st = .wait ∧ x.waiton = 5 ∧ x.relslot = n + BitVec.ofNat 20 reldelay) ∧
          (reldelay = 0 → dirsCreating s x = true → x.st = .wait ∧ x.waiton = 4) ∧
          (reldelay = 0 → dirsCreating s x = false → x.st = .ready ∧ a.csc.fifo = s.csc.fifo.erase c ++ [c]))))

/-- R18, R171 to R176, R297, R318, R373: what the DAU accepts, and how it decides a job.
Rests also on log entries 29, 70, the model's choices. -/
def Obligations.JobsAreAdmittedWithinCapacity : Prop := AcceptedDemandFitsTheCapacity ∧ JobsAreDecided

/-- R22, R168, R178, R320, R374: JOB_CANCEL cancels the earliest accepted job that it names and waits for its completion, and answers NOT_FOUND
where none matches; where a matching job of another SQ still waits for the DAU, it waits for that decision, and then cancels the job, or,
after the last one is refused, completes with NOT_FOUND; a context that must end and has nothing outstanding is ENDING: its demand and its bank are gone, and its
completion, with the status by precedence, waits to be written. -/
def Obligations.JobsEnd : Prop :=
  (∀ (s : State) (e : InEntry), s.TablesOk → asUp s = true → Takes s 0x02 e →
    let named := fun (y : Ctx) => y.queue.val = 64 * (fnOf e.q).val + fieldOf e 4 0 6 ∧ y.cid.toNat = fieldOf e 8 0 16 ∧ y.st ≠ .ending
    (∀ c x, (c, x) ∈ s.ctxs → named x → x.st ≠ .free → (∀ d y, (d, y) ∈ s.ctxs → named y → d ≠ c → x.order < y.order) →
      Gives .jobCancel s (fun t => ∃ a, Swept a t ∧ (getCtx a c).cancel = true ∧ (getCtx a c).dying = true ∧
        (∀ d, d ≠ c → getCtx a d = getCtx s d) ∧ a.mem = s.mem ∧ a.objs = s.objs ∧ a.out = s.out ∧
        a.rqe = { (dropEntry s e).rqe with
          running := s.rqe.running ++ [⟨e.q, BitVec.ofNat 16 (fieldOf e 0 16 16), false, .cancel c⟩] })) ∧
    ((∀ d y, (d, y) ∈ s.ctxs → ¬named y) → cancelEarly s e.q (64 * (fnOf e.q).val + fieldOf e 4 0 6) (fieldOf e 8 0 16) = 0 →
      Gives .jobCancel s (fun t => Answered (dropEntry s e) t e 4 0 0 0)) ∧
    (∀ q : Fin 4096, q.val = 64 * (fnOf e.q).val + fieldOf e 4 0 6 → (∀ d y, (d, y) ∈ s.ctxs → ¬named y) →
      ∀ n, 0 < n → n = s.rqe.inbox.countP (fun w => decide (w.q ≠ e.q) && decide (w.q = q) && decide (fieldOf w 0 0 8 = 1)
        && decide (fieldOf w 0 16 16 = fieldOf e 8 0 16)) →
      Gives .jobCancel s (fun t => ∃ a, Swept a t ∧ a = { dropEntry s e with rqe := { (dropEntry s e).rqe with
        running := s.rqe.running ++ [⟨e.q, BitVec.ofNat 16 (fieldOf e 0 16 16), false, .cancelDue q (BitVec.ofNat 16 (fieldOf e 8 0 16)) n⟩] } }))) ∧
  (∀ (s : State) (e : InEntry) (r : Running) (n : Nat), s.TablesOk → dauTakes s e → (hdr s .dau).en = true → s.rqe.running = [r] →
    r.kind = .cancelDue e.q (BitVec.ofNat 16 (fieldOf e 0 16 16)) n →
    (∀ p, admitJob s (fnOf e.q) e.entry = some p → Gives .jobSubmit s (fun t =>
      if n ≤ 1 then t.rqe.running = [] ∧ ∃ l, t.rqe.compl = l ++ [complRun r 4 0 0 0]
      else t.rqe.running = [{ r with kind := .cancelDue e.q (BitVec.ofNat 16 (fieldOf e 0 16 16)) (n - 1) }])) ∧
    (admitJob s (fnOf e.q) e.entry = none → ∀ c, Lowest (fun k => getCtx s k = Ctx.free) 0 c → Gives .jobSubmit s (fun t =>
      t.rqe.running = [{ r with kind := .cancel c }] ∧ (getCtx t c).cancel = true ∧ (getCtx t c).dying = true))) ∧
  ∀ (s : State) (c : Fin 4194304), s.TablesOk → asUp s = true → s.pwr.stopped = false → s.pwr.tamperPend = false → s.pwr.lcPend = none →
    s.hl.flr = [] → canEnd s c.val = true →
    let x := getCtx s c.val
    x.dying = true → x.silent = false → Gives (.contextEnding c) s (fun t =>
      let y := getCtx t c.val
      y.st = .ending ∧ y.dying = false ∧ y.res = false ∧ y.held = false ∧ y.rem = Vector.replicate 11 0 ∧ y.frameSrc = Vector.replicate 5 none ∧
      (∀ d, d ≠ c.val → getCtx t d = getCtx s d) ∧
      (x.res = true → ((t.seqs[x.seq.val]).banks[x.bank.val]).occ = none) ∧
      (∃ k : Compl, t.rqe.compl = s.rqe.compl ++ [k] ∧ k.q = x.queue ∧ k.cid = x.cid ∧ k.ctx = some c.val ∧ k.ovr = x.ovr ∧ k.late = x.late ∧
        k.res0.toNat = (c.val + 2 ^ 32 * x.arrslot.toNat) % 2 ^ 64 ∧
        k.status = (if x.void then 2 else if x.cancel then 3 else if x.ovr then 1 else if x.late then 2 else 0) ∧
        k.cause = (if x.void then x.vcause else if x.cancel ∨ x.ovr then 0 else if x.late then 0x0501 else 0)) ∧
      t.mem = s.mem ∧ t.qmem = s.qmem ∧ t.objs = s.objs ∧ t.out = s.out ∧ t.pipes = s.pipes)

namespace Sys2Proof.Machine

/-- The host DMA has written n bytes at dst; every other byte of memory is as before, and no COLLIDED answer has come (R409); the
write-back of a corrected word that it overwrote is dropped (R414). -/
def DmaWrote (b a : State) (dst n : Nat) (f : Nat → Byte) : Prop :=
  (∀ k, rdByte a k = if dst ≤ k ∧ k < dst + n then f (k - dst) else rdByte b k) ∧ a.lms.answers.Sublist b.lms.answers ∧
  { a with mem := b.mem, poison := b.poison, free := b.free, lms := { a.lms with answers := b.lms.answers, mems := b.lms.mems } } = b

/-- A segment of a function that allows an access of len bytes at an offset (R375): its first GA. -/
def SegAllows (s : State) (f : Fin 64) (h : Nat) (r : Right) (off len ga : Nat) : Prop :=
  ∃ d, ownSeg s f h = some d ∧ hasRight d r = true ∧ dSE d = false ∧ off + len - 1 ≤ dLimit d ∧ ga = dBase d + off

/-- A move now runs for an entry. -/
def running1 (a : State) (e : InEntry) (k : RunKind) : State :=
  { a with rqe := { a.rqe with running := a.rqe.running ++ [⟨e.q, BitVec.ofNat 16 (fieldOf e 0 16 16), isCfg (fieldOf e 0 0 8), k⟩] } }

/-- The running copy or fill, or load of a program, that stands first. -/
def firstMoves (s : State) (r : Running) : Prop :=
  s.rqe.running.find? (fun y => match y.kind with | .dma _ => true | .load .. => true | _ => false) = some r

/-- The words of the status block and the registers that they copy (R380). -/
def statusSource (i : Nat) : Option (PageId × Nat) :=
  if i < 5 then some (.dau, 0x040 + 4 * i)
  else if i = 5 then some (.map, 0x048)
  else if h : 6 ≤ i ∧ i < 12 then some (.xpt ⟨i - 6, by omega⟩, 0x050)
  else if h : 12 ≤ i ∧ i < 18 then some (.xpt ⟨i - 12, by omega⟩, 0x054)
  else if i = 18 then some (.csc, 0x054) else if i = 19 then some (.csc, 0x058)
  else if i = 20 then some (.dir, 0x048) else if i = 21 then some (.dir, 0x04C)
  else if 32 ≤ i ∧ i < 43 then some (.dau, 0x080 + 4 * (i - 32))
  else if 48 ≤ i ∧ i < 59 then some (.dau, 0x100 + 4 * (i - 48))
  else none

end Sys2Proof.Machine

/-- R36, R52, R375, R380, R445: MEM_FILL and MEM_COPY whose segments allow them start a move, as one that does not refuses them. Over memory that
answers and is not poisoned, a fill writes its pattern and a copy the bytes of a source that does not overlap, STATUS_READ the copies of its
registers, and LOG_READ the records that exist, after a flush pass, at the destination, and no other byte. A request of a move that was answered
with an error stops it there (R375). -/
def Sys2Proof.Machine.TheHostDmaMovesBytes : Prop :=
  (∀ (s : State) (e : InEntry) (dst n : Nat), n = fieldOf e 0x18 0 64 → 1 ≤ n → n ≤ 2 ^ 40 → Takes s 0x04 e →
    SegAllows s (fnOf e.q) (fieldOf e 4 16 14) .write (fieldOf e 0x10 0 64) n dst →
    Gives .memFill s (fun t => Swept (running1 (dropEntry s e) e (.dma ⟨none, BitVec.ofNat 64 (fieldOf e 0x20 0 64), dst, n, []⟩)) t)) ∧
  (∀ (s : State) (e : InEntry) (src dst n : Nat), n = fieldOf e 0x18 0 64 → 1 ≤ n → n ≤ 2 ^ 40 → Takes s 0x03 e →
    SegAllows s (fnOf e.q) (fieldOf e 4 0 14) .read (fieldOf e 8 0 64) n src →
    SegAllows s (fnOf e.q) (fieldOf e 4 16 14) .write (fieldOf e 0x10 0 64) n dst →
    Gives .memCopy s (fun t => Swept (running1 (dropEntry s e) e (.dma ⟨some src, 0, dst, n, []⟩)) t)) ∧
  (∀ (s : State) (j : DmaJob), s.MemOk → s.upset = [] → Plain s j.dst j.len →
    let d := j.run s
    (j.lost = [] → j.src = none → DmaWrote s d.st j.dst j.len (fun i => BitVec.ofNat 8 (j.pattern.toNat / 2 ^ (8 * (i % 8)))) ∧
      d.moved = j.len ∧ d.poison = false ∧ d.error = false) ∧
    (∀ src, j.lost = [] → j.src = some src → Plain s src j.len → src + j.len ≤ j.dst ∨ j.dst + j.len ≤ src →
      DmaWrote s d.st j.dst j.len (fun i => rdByte s (src + i)) ∧ d.moved = j.len ∧ d.poison = false ∧ d.error = false) ∧
    ∀ src g, j.src = some src → g ∈ j.lost → src ≤ g → g < src + j.len →
      d.error = true ∧ d.moved ≤ g - src ∧ ∀ k, j.dst + (g - src) ≤ k → rdByte d.st k = rdByte s k) ∧
  (∀ (s : State) (e : InEntry) (dst : Nat), s.MemOk → s.upset = [] → noneHeld s → Takes s 0x20 e →
    SegAllows s (fnOf e.q) (fieldOf e 4 0 14) .write (fieldOf e 8 0 64) 256 dst → Plain s dst 256 →
    Gives .statusRead s (fun t => ∃ a, DmaWrote (dropEntry s e) a dst 256 (fun j => BitVec.ofNat 8
        ((match statusSource (j / 4) with
          | some (pg, o) => if serveIsl s (pageIsland pg) = .gone then 0 else pageReg (dropEntry s e) pg o
          | none => 0) / 2 ^ (8 * (j % 4)))) ∧
      Answered a t e 0 0 0 0)) ∧
  (∀ (s : State) (e : InEntry) (dst n : Nat), s.MemOk → s.upset = [] → noneHeld s → n = fieldOf e 0x14 0 17 → 1 ≤ n → n ≤ 65536 →
    fieldOf e 4 16 1 = 0 → Takes s 0x21 e →
    SegAllows s (fnOf e.q) (fieldOf e 4 0 14) .write (fieldOf e 8 0 64) (32 * n) dst → Plain s dst (32 * n) →
    Gives .logRead s (fun t => ∃ b a l, l = ((s.evr.log ++ s.evr.buf).drop (fieldOf e 0x10 0 16)).take n ∧
      b.evr.log = s.evr.log ++ s.evr.buf ∧ b.evr.buf = [] ∧ b.evr.flushing = false ∧ { b with evr := s.evr, pages := s.pages } = dropEntry s e ∧
      DmaWrote b a dst (32 * l.length) (fun j => BitVec.ofNat 8 (((l[j / 32]?).getD 0).toNat / 2 ^ (8 * (j % 32)))) ∧
      Answered a t e 0 0 l.length 0)) ∧
  (∀ (s : State) (e : InEntry), 1 ≤ fieldOf e 0x18 0 64 → fieldOf e 0x18 0 64 ≤ 2 ^ 40 → Takes s 0x04 e →
    (ownSeg s (fnOf e.q) (fieldOf e 4 16 14) = none → RefusedWith .memFill s e 5) ∧
    ∀ d, ownSeg s (fnOf e.q) (fieldOf e 4 16 14) = some d →
      (hasRight d .write = false ∨ dSE d = true → RefusedWith .memFill s e 3) ∧
      (hasRight d .write = true → dSE d = false → dLimit d < fieldOf e 0x10 0 64 + fieldOf e 0x18 0 64 - 1 → RefusedWith .memFill s e 1))

/-- R376, R377: PROGRAM_LOAD whose tests pass starts a copy of its bytes to the start of the code segment, and at the end of the copy the program is
recorded under the lowest free handle; a copy that met poison or an error records none and completes with DATA_ERROR, as a MEM_COPY or a
MEM_FILL does; UNLOAD frees the handle unless an accepted job names the program. -/
def Sys2Proof.Machine.ProgramsAreLoaded : Prop :=
  (∀ (s : State) (e : InEntry) (d : Desc256) (src : Nat), asUp s = true → Takes s 0x10 e → entRsvd e.entry = false →
    fieldOf e 4 16 1 = 0 → loadTest s (fnOf e.q) e.entry = .ok (d, src) →
    let n := fieldOf e 0x18 0 64
    ownSeg s (fnOf e.q) (fieldOf e 4 0 14) = some d ∧ dX d = true ∧ n ≤ dLimit d + 1 ∧ fieldOf e 0x20 0 64 ≤ dLimit d ∧
      fieldOf e 0x20 0 64 % 4 = 0 ∧ fieldOf e 0x28 0 64 % 64 = 0 ∧ fieldOf e 0x30 0 64 % 64 = 0 ∧
    Gives .programLoad s (fun t => t = running1 (dropEntry s e) e (.load (BitVec.ofNat 64 (fieldOf e 0x20 0 64))
      (BitVec.ofNat 64 (fieldOf e 0x28 0 64)) (BitVec.ofNat 64 (fieldOf e 0x30 0 64)) d ⟨some src, 0, dBase d, n, []⟩))) ∧
  (∀ (s : State) (e : InEntry), s.TablesOk → asUp s = true → Takes s 0x10 e → entRsvd e.entry = false → fieldOf e 4 16 1 = 1 →
    let h := fieldOf e 8 0 14
    ((ownProg s (fnOf e.q) h).isNone = true → RefusedWith .programLoad s e 5) ∧
    ((ownProg s (fnOf e.q) h).isSome = true → (∃ c y, (c, y) ∈ s.ctxs ∧ y.prog.toNat = h) → RefusedWith .programLoad s e 0x0B) ∧
    ((ownProg s (fnOf e.q) h).isSome = true → (¬∃ c y, (c, y) ∈ s.ctxs ∧ y.prog.toNat = h) → SucceedsWith .programLoad s e 0 (fun a =>
      (∀ k, getProg a k = if k = h then none else getProg s k) ∧
      { a with objs := { a.objs with progs := s.objs.progs } } = dropEntry s e))) ∧
  ∀ (s : State) (r : Running), s.TablesOk → islandUp s islHL = true → noneHeld s → firstMoves s r →
    let b : State := { s with rqe := { s.rqe with running := s.rqe.running.erase r } }
    (∀ j, r.kind = .dma j → let d := j.run b
      Gives .hostDmaComplete s (fun t =>
        Posted d.st t (complRun r (if d.error || d.poison then 7 else 0) (if d.error then 2 else if d.poison then 1 else 0) d.moved d.poisonGa))) ∧
    ∀ en ts ed desc j, r.kind = .load en ts ed desc j → let d := j.run b
      ((d.error || d.poison) = true → Gives .hostDmaComplete s (fun t => Posted d.st t (complRun r 7 (if d.error then 2 else 1) 0 0))) ∧
      (d.error = false → d.poison = false → ∀ h, Lowest (fun k => getProg s k = none) 1 h → h ≤ 4095 → Gives .hostDmaComplete s (fun t => ∃ a,
        (∀ k, getProg a k = if k = h then some { entry := en, tsbp := ts, edtb := ed, desc := desc, func := fnOf r.q } else getProg s k) ∧
        { a with objs := { a.objs with progs := s.objs.progs } } = d.st ∧ Posted a t (complRun r 0 0 h 0)))

/-- R375, R376, R380, R445: host DMA, PROGRAM_LOAD, STATUS_READ and LOG_READ.
Rests also on log entries 104, 145, the model's choices. -/
def Obligations.TheHostDmaAndPrograms : Prop := TheHostDmaMovesBytes ∧ ProgramsAreLoaded

/-! ## The host link -/

namespace Sys2Proof.Machine

/-- Presentable sources of the host target that had not sent their message have sent it, where the EVC works and the link is in L0
(R397, R482); a masked vector holds it (R368). -/
structure HostSourcesSent (a t : State) : Prop where
  rest : { t with out := a.out, hl := { t.hl with msix := a.hl.msix }, evc := { t.evc with src := a.evc.src } } = a
  out : a.out <+: t.out
  off : (hdr a .evc).en = false ∨ (hdr a .evc).held = true ∨ evcUp a = false ∨ a.hl.l0 = false → t = a
  on : (hdr a .evc).en = true → (hdr a .evc).held = false → evcUp a = true → a.hl.l0 = true →
    ∀ n, presentable a n = true → (srcCfg a n).tgt = 17 → (srcState t n).sent = true
  bits : ∀ n, { srcState t n with sent := (srcState a n).sent } = srcState a n

/-- The job must end with a void guarantee (R167, R320); an earlier cause stands. -/
def Voided (x y : Ctx) (cause : BitVec 16) : Prop := y.dying = true ∧ y.void = true ∧ y.vcause = if x.void then x.vcause else cause

end Sys2Proof.Machine

/-- R352, R354: a BAR4 read of memory that answers returns its bytes, and a write stores them and nothing else; a request to a GA that is not
mapped, or while the window is closed, completes as unsupported or is dropped and counted; a request waits while QUIESCE holds HLK (R482); a
resize takes effect while Memory Space Enable is 0, and is answered Retry Status while the PF is being reset (R362). -/
def Sys2Proof.Machine.BarRequests : Prop :=
  ∀ s : State, s.MemOk → linkUp s = true →
    (∀ a : BarAccess, bar4Open s = true → (hdr s .hlk).held = true →
      Gives (.bar4Access a) s (fun t => t = { s with parked := s.parked ++ [.bar4 a] })) ∧
    (∀ off : BitVec 57, noneHeld s → (∀ a, Parked.bar4 a ∉ s.parked) → s.upset = [] →
      let ga := s.hl.cfg.active.aper.toNat + off.toNat
      (∀ n : Fin 513, bar4Open s = true → bar4Mapped s off.toNat n.val = true → PlainFor s .bar4 ga n.val →
        Gives (.bar4Access (.read off n)) s (fun t =>
          t = { s with out := s.out ++ [.data ((List.range n.val).map (fun i => rdByte s (ga + i))) false] })) ∧
      (∀ n : Fin 513, bar4Open s = false ∨ bar4Mapped s off.toNat n.val = false →
        Gives (.bar4Access (.read off n)) s (fun t => t = answeredUR s)) ∧
      (∀ bs : List Byte, bar4Open s = true → bar4Mapped s off.toNat bs.length = true → PlainFor s .bar4 ga bs.length →
        Gives (.bar4Access (.write off bs)) s (fun t => DmaWrote s t ga bs.length (fun j => (bs[j]?).getD 0) ∧ t.free = s.free)) ∧
      (∀ bs : List Byte, bar4Open s = false ∨ bar4Mapped s off.toNat bs.length = false →
        Gives (.bar4Access (.write off bs)) s (fun t => t = dropped s))) ∧
    (∀ k : Fin 7, Gives (.bar4Resize k) s (fun t =>
      t = if ∃ r ∈ s.hl.flr, r.1 = 0 then send s .retryStatus else if s.hl.mse.getLsbD 0 then s else { s with hl := { s.hl with bar4 := k } })) ∧
    (∀ f : Fin 64, Gives (.undefinedBarRequest (.nonPosted f)) s (fun t => t = answeredUR s)) ∧
    Gives (.undefinedBarRequest .postedUndefined) s (fun t => t = dropped s) ∧
    Gives (.undefinedBarRequest .postedPoisoned) s (fun t =>
      t = { s with hl := { s.hl with errCnt := satInc s.hl.errCnt, aer := s.hl.aer ||| 0x1000#32 } })

/-- R30, R41, R42, R352, R446: a host read that is answered Unsupported Request or Completer Abort, not at all, or with poison, or an
FM request that is not answered, ends the move of the host DMA that waits for
it with an error at that GA, goes with a stream back to its first element not committed, where the request is answered with an error when the
element's data is read again, or raises Memory Uncorrectable for a long load, and voids the guarantee of the job that made it; it is recorded,
and a host timeout counted. How a stream comes to its element is the model's choice (log entry 130). -/
def Sys2Proof.Machine.RequestsThatAreNotAnswered : Prop :=
  ∀ (s : State) (ga : BitVec 57), s.TablesOk →
    (∀ (w : Waiter) (s1 : State) (o : Option Nat) (r : Region) (k : Nat), place s .dma ga.toNat = some ⟨r, k⟩ →
      (r = .host → islandUp s islHL = true → (∀ q, w ≠ .store q) → waitFails s w ga.toNat 0x0218 = some (s1, o) →
        let failed := fun (a : State) (kind : Nat) => offer a 0x0218 3 0 (ga.toNat % 2 ^ 32) (ga.toNat % 2 ^ 56 / 2 ^ 32) kind
        Gives (.hostWindowCompletionTimeout ⟨.unsupported, w⟩ ga) s (fun t => t = failed s1 1) ∧
        Gives (.hostWindowCompletionTimeout ⟨.abort, w⟩ ga) s (fun t => t = failed s1 2) ∧
        Gives (.hostWindowCompletionTimeout ⟨.timeout, w⟩ ga) s (fun t =>
          t = failed { s1 with hl := { s1.hl with ctoCnt := satInc s1.hl.ctoCnt, aer := s1.hl.aer ||| 0x4000#32 } } 3) ∧
        (s.hl.up = true → Gives (.undefinedBarRequest (.completionPoisoned w ga)) s (fun t =>
          t = failed { s1 with hl := { s1.hl with aer := s1.hl.aer ||| 0x1000#32 } } 4))) ∧
      (∀ p : Fin 6, r = .fm p → islandUp s (islXP p) = true → waitFails s w ga.toNat 0x0212 = some (s1, o) →
        Gives (.fmResponseLimitExpiry p w ga) s (fun t => t = offer s1 0x0212 3 (1 + p.val) (ga.toNat % 2 ^ 32) (ga.toNat / 2 ^ 32)
          (p.val + if ∃ c, o = some c ∧ (getCtx s c).be = false then 256 else 0)))) ∧
    (∀ cause i j, s.rqe.running.findIdx? (fun r => match r.kind with
        | .dma j => j.names ga.toNat | .load _ _ _ _ j => j.names ga.toNat | _ => false) = some i →
      (s.rqe.running[i]?).map (·.kind) = some (.dma j) → ∃ s1, waitFails s .dma ga.toNat cause = some (s1, none) ∧
        (s1.rqe.running[i]?).map (·.kind) = some (.dma { j with lost := j.lost ++ [ga.toNat] }) ∧
        { s1 with rqe := { s1.rqe with running := s.rqe.running } } = s) ∧
    ∀ (p : Fin 8) (e : Fin 64) (t : Stream) (cause : Nat), getStream s p e = some t → isActive t = true → Live (getCtx s t.ctx) →
      ∃ s1 u, waitFails s (.stream p e) ga.toNat cause = some (s1, some t.ctx) ∧ getStream s1 p e = some u ∧
        u.lost = t.lost ++ [ga.toNat] ∧ u.next = t.com ∧ u.recs = [] ∧ u.els = [] ∧ u.dirRec = t.dirRec ∧
        (getCtx s1 t.ctx).void = true

/-- R30, R41, R42, R352, R354: requests through BAR4, and requests that are not answered.
Rests also on log entries 44, 130, 132, 145, the model's choices. -/
def Obligations.HostRequestsAndFailures : Prop := BarRequests ∧ RequestsThatAreNotAnswered

/-- R21, R350, R361, R363, R397, R484, R488: the loss of the host link closes admission with cause 5, ends every accepted job with a void
guarantee, abandons the commands that run and those not yet passed on, but for a job that is not yet decided and whose completion
queue lies in queue memory, and keeps memory and queue memory; PERST# does the same and takes the module out of
readiness, and its end lets the link train, which reaches L0 at a speed and width that the manual does not state; the link is ready when LM is trained and FM enumerated, at 64 GT/s in FLIT mode only; the host's waiting interrupts are
then sent. That the cause of a gate that was closed already is written is the model's choice (log entry 18).
Rests also on log entries 18, 107, 108, 118, 148, the model's choices. -/
def Obligations.TheLinkGoesDownAndComesUp : Prop :=
  (∀ (s : State) (cause : Fin 3), s.TablesOk → s.pwr.core = true → s.hl.up = true → s.pwr.tamperPend = false → s.pwr.lcPend = none →
    Gives (.hostLinkLoss cause) s (fun t =>
    t.hl.up = false ∧ t.dau.gopen = false ∧ t.dau.bopen = false ∧ t.dau.cause = 5 ∧ t.dau.bcause = 5 ∧
    (∀ c, Live (getCtx s c) → Voided (getCtx s c) (getCtx t c) 0x0502) ∧ t.rqe.running = [] ∧
    t.rqe.inbox = s.rqe.inbox.filter (fun e => decide (fieldOf e 0 0 8 = 1) && (getQp s e.q.val).cqloc) ∧
    (s.ctxs = [] → s.rqe.inbox = [] → s.rqe.compl = [] → (∀ k, (getVault s k).valid = false) → ∀ g, (getQp s g).st ≠ .off → g < 4096 → (getQp t g).st = .off) ∧
    t.mem = s.mem ∧ t.qmem = s.qmem ∧ t.hl.cfg = s.hl.cfg ∧ t.pwr = s.pwr ∧ t.glb = s.glb)) ∧
  (∀ s : State, s.TablesOk → s.pwr.perst = false →
    (s.pwr.powered = false → Gives .perstAssert s (fun t => t = { s with pwr := { s.pwr with perst := true } })) ∧
    (s.pwr.core = false → s.pwr.powered = true → Gives .perstAssert s (fun t => ∃ a : State,
      a = offer { s with pwr := { s.pwr with perst := true, clkreq := true, epoch := s.pwr.epoch + 1 } } 0x0105 1 33 2 0 0 ∧
      t = { a with glb := { a.glb with last := 2 } })) ∧
    (s.pwr.core = true → s.pwr.powered = true → s.pwr.tamperPend = false → s.pwr.lcPend = none → Gives .perstAssert s (fun t =>
      t.pwr.perst = true ∧ t.pwr.epoch = s.pwr.epoch + 1 ∧ t.glb = { s.glb with ready := false, last := 2 } ∧ t.hl.up = false ∧
      t.hl.cfg = Hl.reset.cfg ∧ (∀ pg, pg = .hlk ∨ pg = .rqe ∨ pg = .map → hdr t pg = Hdr.reset t.pwr.epoch pg) ∧
      (s.hl.up = true → t.dau.gopen = false ∧ t.dau.bopen = false ∧ ∀ c, Live (getCtx s c) → Voided (getCtx s c) (getCtx t c) 0x0502) ∧
      t.mem = s.mem ∧ t.qmem = s.qmem))) ∧
  (∀ s : State, Gives .perstDeassert s (fun t => t = { s with
    pwr := { s.pwr with perst := false }, hl := { s.hl with training := s.hl.training || (s.pwr.core && s.pwr.perst) } })) ∧
  (∀ (s : State) (sp : Fin 7) (w : Fin 17) (fl : Bool), s.TablesOk → s.hl.training = true → islandUp s islHL = true → s.hl.up = false →
    (∀ n : Fin 12, (s.lmcs[n.val]).trained = true) → s.glb.fmenum = true →
    (sp.val = 6 → fl = false → Gives (.hostLinkReady sp w fl) s (fun t => t = s)) ∧
    (sp.val ≤ 5 ∨ fl = true → Gives (.hostLinkReady sp w fl) s (fun t => ∃ a : State,
      a.hl = { s.hl with up := true, l0 := true, training := false, flit := fl, speed := BitVec.ofNat 3 sp.val, width := BitVec.ofNat 5 w.val } ∧
      a.glb = { s.glb with ready := true } ∧
      hdr a .glb = { hdr s .glb with pend := if s.glb.ready then (hdr s .glb).pend else (hdr s .glb).pend ||| 1 } ∧
      (∀ pg, pg ≠ .glb → hdr a pg = hdr s pg) ∧ { a with hl := s.hl, glb := s.glb, pages := s.pages } = s ∧ HostSourcesSent a t))) ∧
  ∀ s : State, s.TablesOk → islandUp s islHL = true → s.hl.up = true ∨ s.hl.training = true → Gives .hostLinkL0Entry s (fun t =>
    (s.hl.up = true ∨ s.hl.l0 = true → HostSourcesSent { s with hl := { s.hl with l0 := true } } t) ∧
    (s.hl.up = false → s.hl.l0 = false → ∃ (sp : BitVec 3) (w : BitVec 5) (fl : Bool), 1 ≤ sp.toNat ∧ sp.toNat ≤ 6 ∧ w.toNat ∈ [1, 2, 4, 8, 16] ∧
      (sp = 6 → fl = true) ∧ HostSourcesSent { s with free := s.free + 1, hl := { s.hl with l0 := true, speed := sp, width := w, flit := fl } } t))

/-- R4, R358, R360, R362, R446: an FLR of a function whose jobs have all ended destroys its segments, programs and directories, closes
its queue pairs and zeroes its queue memory, and touches nothing of another function; where it holds vault keys, the Termite engine
wipes those first, and the reset goes on until they are wiped; jobs of the function that still run are
cancelled and complete with no entry, or are lost with an AS island that is held in reset, which the FLR does not wait for (R467). Disabling VFs does it to every VF. An integrity failure makes an IDE stream Insecure.
Rests also on log entry 45, the model's choice. -/
def Obligations.FunctionsAreReset : Prop :=
  (∀ (s : State) (f : Fin 64), s.TablesOk → s.MemOk → linkUp s = true → fnExists s f = true → s.hl.flr = [] →
    (∀ k ∈ s.rqe.compl, fnOf k.q = f → k.ctx = none) →
    ((∀ c, getCtx s c ≠ Ctx.free → (getCtx s c).func ≠ f) → Gives (.flr f) s (fun t =>
      t.pwr.epoch = s.pwr.epoch + 1 ∧
      (∀ k, getSeg t k = match getSeg s k with | some o => if o.func = f then none else some o | none => none) ∧
      (∀ k, getProg t k = match getProg s k with | some o => if o.func = f then none else some o | none => none) ∧
      (∀ k, getDir t k = if (getDir s k).func = f then Directory.free else getDir s k) ∧
      t.ctxs = s.ctxs ∧ t.mem = s.mem ∧
      ((∀ k, (getVault s k).valid = true → (getVault s k).func ≠ f) →
        (∀ g < 4096, if g / 64 = f.val then (getQp t g).st = .off else getQp t g = getQp s g) ∧
        (∀ k, tget 0 t.qmem k = if k / 0x40000 = f.val then 0 else tget 0 s.qmem k) ∧ t.objs.wipes = s.objs.wipes ∧ t.hl = s.hl) ∧
      ((∃ k, (getVault s k).valid = true ∧ (getVault s k).func = f) → s.objs.wipes = [] →
        t.qmem = s.qmem ∧ t.hl = { s.hl with flr := [(f, false)] } ∧ ∃ ks, t.objs.wipes = [.function f ks] ∧
          ∀ k, k ∈ ks ↔ (getVault s k).valid = true ∧ (getVault s k).func = f))) ∧
    ((s.pwr.islands[islAS.val]).inrst = false → Gives (.flr f) s (fun t => ∀ c, Live (getCtx s c) → (getCtx s c).func = f →
      (getCtx t c).cancel = true ∧ (getCtx t c).silent = true ∧ (getCtx t c).dying = true)) ∧
    ((s.pwr.islands[islAS.val]).inrst = true → Gives (.flr f) s (fun t => ∀ c, (getCtx s c).func = f → getCtx t c = Ctx.free))) ∧
  (∀ s : State, s.TablesOk → linkUp s = true → s.hl.vfe = true → (∀ r ∈ s.hl.flr, r.1 ≠ 0) → Gives .vfDisable s (fun t => t.hl.vfe = false ∧
    (s.ctxs = [] → s.rqe.compl = [] → s.hl.flr = [] → ∀ k o, getSeg s k = some o →
      getSeg t k = if o.func ≠ 0 ∧ o.func.val ≤ s.hl.numvf.toNat then none else some o))) ∧
  ∀ (s : State) (n : Fin 9), s.hl.ide.getLsbD n.val = true → Gives (.ideIntegrityFail n) s (fun t => ∃ a : State,
    (∀ k < 9, a.hl.ide.getLsbD k = (s.hl.ide.getLsbD k && decide (k ≠ n.val)) ∧ a.hl.ideKeyed.getLsbD k = (s.hl.ideKeyed.getLsbD k && decide (k ≠ n.val))) ∧
    { a with hl := { a.hl with ide := s.hl.ide, ideKeyed := s.hl.ideKeyed } } = s ∧ t = offer a 0x0702 2 0 n.val 0 0)

/-- R359, R360 and, for codes and order, log entry 24: the responder answers SPDM requests in the order that the connection needs, an error otherwise;
KEY_EXCHANGE opens one of at most four sessions and FINISH completes it; inside an established session keys are updated, a heartbeat
is answered, the session ends, and IDE streams are keyed and started.
Rests also on log entry 24, the model's choice. -/
def Obligations.TheSpdmResponderAnswers : Prop :=
  ∀ s : State, doeUp s = true →
    let ready := s.hl.spdmVersion = true ∧ s.hl.spdmCaps = true ∧ s.hl.spdmAlgs = true
    Gives .getVersion s (fun t => t = { s with
      hl := { s.hl with spdmVersion := true, spdmCaps := false, spdmAlgs := false, sessions := [] }, out := s.out ++ [.spdm 4 0x12 0] }) ∧
    (s.hl.spdmVersion = true → Gives .getCapabilities s (fun t => t = { s with
      hl := { s.hl with spdmCaps := true }, out := s.out ++ [.spdm 0x61 0 (Config.spdmPayload 0x61)] })) ∧
    (s.hl.spdmVersion = true → s.hl.spdmCaps = true → Gives (.negotiateAlgorithms true) s (fun t => t = { s with
      hl := { s.hl with spdmAlgs := true }, out := s.out ++ [.spdm 0x63 0 (Config.spdmPayload 0x63)] })) ∧
    (ready →
      Gives .getDigests s (fun t => t = { s with out := s.out ++ [.spdm 1 0 (Config.spdmPayload 1)] }) ∧
      Gives (.getCertificate 0) s (fun t => t = { s with out := s.out ++ [.spdm 2 0 (Config.spdmPayload 2)] }) ∧
      Gives (.challenge 0) s (fun t => t = { s with out := s.out ++ [.spdm 3 0 (Config.spdmPayload 3)] }) ∧
      Gives .getMeasurements s (fun t => t = { s with out := s.out ++ [.spdm 0x60 0 (Config.spdmPayload 0x60)] }) ∧
      (s.hl.sessions.length < 4 → Gives .keyExchange s (fun t =>
        t.hl.sessions = s.hl.sessions ++ [⟨s.hl.nextSession, false⟩] ∧ t.hl.nextSession = s.hl.nextSession + 1 ∧
        t.out = s.out ++ [.spdm 0x64 s.hl.nextSession (Config.spdmPayload 0x64)] ∧
        { t with out := s.out, hl := { t.hl with sessions := s.hl.sessions, nextSession := s.hl.nextSession } } = s)) ∧
      (4 ≤ s.hl.sessions.length → Gives .keyExchange s (fun t => t = { s with out := s.out ++ [.spdmError 10] }))) ∧
    (¬ready → Gives .getMeasurements s (fun t => t = { s with out := s.out ++ [.spdmError 4] })) ∧
    (∀ n, s.hl.sessions.find? (fun x => decide (x.id = n)) = some ⟨n, false⟩ → Gives (.finish n) s (fun t =>
      sessionUp t n = true ∧ t.hl.sessions.length = s.hl.sessions.length ∧ t.out = s.out ++ [.spdm 0x65 n 0] ∧
      { t with out := s.out, hl := { t.hl with sessions := s.hl.sessions } } = s)) ∧
    (∀ n, sessionUp s n = true →
      Gives (.keyUpdate n) s (fun t => t = { s with out := s.out ++ [.spdm 0x69 n 0] }) ∧
      Gives (.heartbeat n) s (fun t => t = { s with out := s.out ++ [.spdm 0x68 n 0] }) ∧
      Gives (.endSession n) s (fun t => sessionUp t n = false ∧ (∀ m, m ≠ n → sessionUp t m = sessionUp s m) ∧
        t.out = s.out ++ [.spdm 0x6C n 0] ∧ { t with out := s.out, hl := { t.hl with sessions := s.hl.sessions } } = s) ∧
      ∀ k : Fin 9,
        Gives (.ideKmRequest n k false) s (fun t => (∀ j < 9, t.hl.ideKeyed.getLsbD j = (s.hl.ideKeyed.getLsbD j || decide (j = k.val))) ∧
          { t with out := s.out, hl := { t.hl with ideKeyed := s.hl.ideKeyed } } = s) ∧
        (s.hl.ideKeyed.getLsbD k.val = true → Gives (.ideKmRequest n k true) s (fun t =>
          (∀ j < 9, t.hl.ide.getLsbD j = (s.hl.ide.getLsbD j || decide (j = k.val))) ∧
          { t with out := s.out, hl := { t.hl with ide := s.hl.ide } } = s))) ∧
    (∀ n, sessionUp s n = false → Gives (.keyUpdate n) s (fun t => t = { s with out := s.out ++ [.spdmError 2] })) ∧
    ∀ i : BitVec 8, Gives (.doeDiscovery i) s (fun t => t = { s with out := s.out ++
      [.spdm 0x100 (if i.toNat < 3 then i.toNat + 256 * ((i.toNat + 1) % 3) else 0xFFFF) 0] })

/-! ## Power and resets -/

namespace Sys2Proof.Machine

/-- Two states agree but for the event recorder and the header of its page. -/
def AsideRecords (s t : State) : Prop := { modHdr t .evr (fun _ => hdr s .evr) with evr := s.evr } = s

/-- A request that an island's input ports hold, that a barrier of its own keeps back, or whose write is not yet visible. -/
def HeldAt (s : State) (i : Fin 34) (r : FabReq) : Prop :=
  (∃ e ∈ s.fab.ports, e.1 / 64 = i.val ∧ r ∈ e.2) ∨ r ∈ tget [] s.fab.held i.val ∨ r ∈ tget [] s.fab.unacked i.val

/-- Every request that an island holds is answered with an error, and so are those that waited for a held block at the debug path and at firmware's
claim register; responses that waited for a credit go out; nothing else is sent (R13, R430, R431, R482). -/
def AllAnswered (a t : State) : Prop := ∃ l, t.out = a.out ++ l ∧
  ∀ m, m ∈ l ↔ (∃ i r, HeldAt a i r ∧ m = Msg.rsp (srcIsl r.t) (xTag r.t) 1 false []) ∨
    (∃ r ∈ a.fab.rsps, m = .rsp (srcIsl r.t) (xTag r.t) r.rstat r.poisoned r.bytes) ∨
    ((∃ x, Parked.j9 x ∈ a.parked) ∧ m = .rsp islMG 0 1 false []) ∨ ((∃ x, Parked.claim .fw x ∈ a.parked) ∧ m = .reg .fw 0)

/-- No lifecycle transition and no tamper event waits for jobs to end (R463, R465). -/
def NothingPends (s : State) : Prop := s.pwr.lcPend = none ∧ s.pwr.tamperPend = false

/-- What is lost when the core rails go off (R13, R412, R451 to R453): LM and the on-die memories, queue memory, the jobs, the objects, and
the registers and pages of every core island; what the host, the expanders, the flash, the fuses and the MG island hold stays. -/
structure CoreLost (a t : State) : Prop where
  mem : ∀ k, rdByte t k = if k < fmBase 0 then 0 else rdByte a k
  qmem : t.qmem = []
  jobs : t.ctxs = []
  objs : t.objs = { a.objs with segs := [], progs := [] }
  pages : ∀ pg, hdr t pg = if pageIsland pg = islMG then hdr a pg else Hdr.reset a.pwr.epoch pg
  pwr : { t.pwr with islands := a.pwr.islands } = { a.pwr with core := false, clkreq := a.pwr.perst, level := 0, perstXp := 0 }
  isl : ∀ i : Fin 34, t.pwr.islands[i.val] = if i = islMG then a.pwr.islands[i.val] else Island.reset false
  glb : t.glb = { a.glb with ready := false, fmenum := false, qual := false }
  link : t.hl = { Hl.reset with nextSession := a.hl.nextSession }
  rqe : t.rqe = Rqe.reset
  dau : t.dau = { Dau.reset with order := a.dau.order }
  csc : t.csc = Csc.reset
  evc : t.evc = Evc.reset
  dir : t.dir = Dir.reset
  seqs : ∀ q : Fin 16, t.seqs[q.val] = Seq.reset
  pipes : ∀ p : Fin 8, t.pipes[p.val] = Pipe.reset
  lmcs : ∀ n : Fin 12, t.lmcs[n.val] = { Lmc.reset with repairs := a.lmcs[n.val].repairs }
  xpts : ∀ p : Fin 6, t.xpts[p.val] = Xpt.reset
  map : t.map.portEn = 0
  answered : AllAnswered a t
  lms : t.lms = { a.lms with mems := t.lms.mems, resend := [], answers := [] } ∧ ∀ m, getMem t m = { getMem a m with correct := [] }
  fab : t.fab = { Fab.reset with cfg := a.fab.cfg, sel := a.fab.sel, ce := a.fab.ce, ue := a.fab.ue, hold := a.fab.hold,
                                 floorCnt := a.fab.floorCnt }
  rest : t.evr = a.evr ∧ t.free = a.free ∧ t.parked = []

/-- Only the counts of the vault and of the MG island's links stay (R434, R435, R456). -/
structure CountsLost (b t : State) : Prop where
  mems : ∀ m, getMem t m = if m = 26 then getMem b m else MemErr.reset
  coll : t.lms.coll = []
  links : ∀ i, tget 0 t.fab.ce i = (if i = 33 then tget 0 b.fab.ce i else 0) ∧ tget 0 t.fab.ue i = (if i = 33 then tget 0 b.fab.ue i else 0) ∧
    tget 0 t.fab.hold i = (if i = 33 then tget 0 b.fab.hold i else 0) ∧
    tget 0 t.fab.floorCnt i = (if i = 33 then tget 0 b.fab.floorCnt i else 0)

/-- A warm reset (R412, R456): the vault is being wiped, the core islands are lost, and GLB tells of it. -/
def WarmReset (s t : State) : Prop := ∃ a b : State,
  AsideRecords { s with pwr := { s.pwr with epoch := s.pwr.epoch + 1 }, objs := { s.objs with wipes := s.objs.wipes ++ [.vault] } } a ∧
  CoreLost a b ∧ CountsLost b t ∧
  t = { b with
    lms := { b.lms with mems := t.lms.mems, coll := t.lms.coll },
    fab := { b.fab with ce := t.fab.ce, ue := t.fab.ue, hold := t.fab.hold, floorCnt := t.fab.floorCnt },
    glb := { b.glb with warm := satInc16 b.glb.warm, last := 1 },
    pwr := { b.pwr with floor := false, withhold := false, pfw := false, holdup := false, grace := false, stopped := false,
                        resetPend := none, tamperPend := false, clkreq := true } }

/-- A cold reset of a module that keeps its MG power (R412, R419, R442, R456): every register takes its reset value, the epoch starts
from a new value, the vault is being wiped; the log, the fuses, LOCKED and PWR_TAMPER stay. -/
structure ColdReset (s t : State) : Prop where
  mem : ∀ k, rdByte t k = if k < fmBase 0 then 0 else rdByte s k
  lost : t.qmem = [] ∧ t.ctxs = [] ∧ t.objs = { s.objs with segs := [], progs := [], wipes := s.objs.wipes ++ [.vault], vaultFail := false }
  free : t.free = s.free + 1
  epoch : t.pwr.epoch = Config.entropy s.free
  pages : ∀ pg, pg ≠ .evr → hdr t pg = Hdr.reset t.pwr.epoch pg
  regs : t.glb = Glb.reset ∧ t.dau = { Dau.reset with order := s.dau.order } ∧ t.csc = Csc.reset ∧ t.evc = Evc.reset ∧
    t.rqe = Rqe.reset ∧ t.dir = Dir.reset ∧ t.lms = Lms.reset ∧ t.fab = Fab.reset ∧ t.hl = { Hl.reset with nextSession := s.hl.nextSession }
  rails : t.pwr.core = false ∧ t.pwr.pfw = false ∧ t.pwr.resetPend = none ∧ t.pwr.fwUp = false
  kept : t.pwr.lc = s.pwr.lc ∧ t.pwr.diagUsed = s.pwr.diagUsed ∧ t.pwr.locked = s.pwr.locked ∧ t.pwr.tamper = s.pwr.tamper ∧
    t.pwr.image = s.pwr.active ∧ t.pwr.active = s.pwr.active ∧ t.evr.log = s.evr.log ∧ t.evr.pcc = s.evr.pcc ∧ t.evr.opt = s.evr.opt ∧ t.evr.tick = s.evr.tick
  answered : AllAnswered s t

/-- A reset that the running flush pass holds back (R466). -/
def ResetWaits (s t : State) (cold mgmt : Bool) : Prop :=
  t = { s with pwr := { s.pwr with resetPend := some (cold || (s.pwr.resetPend.getD (false, false)).1,
                                                      mgmt || (s.pwr.resetPend.getD (false, false)).2) } }

end Sys2Proof.Machine

/-- R186, R187, R442, R449 to R451, R454, R455, R488 and log entry 32: a power-fail warning closes admission with cause 3, starts the
flush and the grace; a measurement above P(V) raises the throttle level by 1, up to 15, with its interrupt from 0, and one below
95 % lowers it; below the guarantee floor of the band guaranteed admission closes with cause 2; Thaid's heartbeat is noted and its
loss restarts it from the active image; an image that fails gives way to the other, and where both have failed no firmware acts (R454); the input is
measured at the sense contacts, or inside the module while either is open, and they let the inrush limiter start (R488). That a closing event
writes the cause of a gate that was closed already is the model's choice (log entry 18), and so is that the blocks of the MG island act whatever
their EN (log entry 29) and that the floor marks the jobs of the crossing (log entry 34).
Rests also on log entries 18, 29, 32, 34, 150, the model's choices. -/
def Obligations.TheSupplyIsWatched : Prop :=
  ∀ s : State, s.TablesOk → s.pwr.powered = true →
    (∀ (mv : BitVec 16) (slope : Bool), s.pwr.pfw = false → mv.toNat < 8500 ∨ (slope = true ∧ s.pwr.cfg.active.slope ≠ 0) →
      Gives (.powerFailWarning mv slope) s (fun t =>
        (if t.evr.buf = [] then t.evr.newer = !s.evr.newer ∧ t.evr.optSince = 0 else t.evr.flushing = true) ∧ (∀ pg, pg ≠ .pwr → pg ≠ .evr → hdr t pg = hdr s pg) ∧
        hdr t .pwr = { hdr s .pwr with pend := (hdr s .pwr).pend ||| 1 } ∧
        { t with evr := s.evr, pages := s.pages } = { s with
          pwr := { s.pwr with mv := mv, pfw := true, holdup := true, grace := true },
          dau := { s.dau with gopen := false, bopen := false, cause := 3, bcause := 3 } })) ∧
    (∀ (m : Measurement) (mv : BitVec 16), mv = (if s.pwr.senseP && s.pwr.senseN then m.mv else m.mvInside) →
      s.pwr.core = false ∨ mv.toNat ≤ 60000 → Gives (.pwrMeasurement m) s (fun t =>
      let above := availMw mv.toNat < 1000 * m.w.toNat
      let w := s.pwr.withhold || (decide above && m.beExhausted)
      { t with pages := s.pages } = { s with pwr := { s.pwr with
        mv := mv, iin := m.ma10, w := m.w, jmax := m.jmax, smax := m.smax, cplate := m.cplate, withhold := w,
        level := if above ∧ s.pwr.level ≠ 15 then s.pwr.level + 1 else s.pwr.level,
        floor := s.pwr.floor && (w || decide (mv.toNat < ([39000, 29000, 19000, 11000][s.dau.cfg.active.band.toNat]?).getD 8500)) } } ∧
      ∀ pg, hdr t pg = if pg = .pwr ∧ above ∧ s.pwr.level = 0 then { hdr s pg with pend := (hdr s pg).pend ||| 8 } else hdr s pg)) ∧
    (s.pwr.level ≠ 0 → 100000 * s.pwr.w.toNat < 95 * availMw s.pwr.mv.toNat → Gives .throttleLower s (fun t =>
      t = { s with pwr := { s.pwr with
        level := s.pwr.level - 1, withhold := false,
        floor := s.pwr.floor && decide (s.pwr.mv.toNat < ([39000, 29000, 19000, 11000][s.dau.cfg.active.band.toNat]?).getD 8500) } })) ∧
    (s.pwr.floor = false →
      s.pwr.mv.toNat < ([39000, 29000, 19000, 11000][s.dau.cfg.active.band.toNat]?).getD 8500 ∨ s.pwr.withhold = true →
      Gives .guaranteeFloorCrossing s (fun t =>
        (∀ pg, pg ≠ .pwr → pg ≠ .evr → hdr t pg = hdr s pg) ∧ hdr t .pwr = { hdr s .pwr with pend := (hdr s .pwr).pend ||| 2 } ∧
        (∀ c, getCtx t c = if (getCtx s c).st ≠ .free ∧ (getCtx s c).st ≠ .ending ∧ (getCtx s c).be = false then { getCtx s c with floor := true } else getCtx s c) ∧
        { t with evr := s.evr, pages := s.pages, ctxs := s.ctxs } = { s with
          pwr := { s.pwr with floor := true }, dau := { s.dau with gopen := false, cause := 2 } })) ∧
    (s.pwr.badImages = 3 → Gives .pwrHbBeat s (fun t => t = s) ∧ Gives .warmReset s (fun t => t = s) ∧
      ∀ r, Gives (.lifecycleTransition r) s (fun t => t = s)) ∧
    (s.pwr.badImages ≠ 3 → Gives .pwrHbBeat s (fun t => t = { s with
      pwr := { s.pwr with badImages := 0, fwUp := true, fwFirst := true, beat := true, beatTick := s.evr.tick },
      glb := { s.glb with fwver := fwVersion s.pwr.image } })) ∧
    (s.pwr.fwUp = true → Gives .heartbeatLost s (fun t =>
      (∀ pg, pg ≠ .pwr → pg ≠ .evr → hdr t pg = hdr s pg) ∧ hdr t .pwr = { hdr s .pwr with pend := (hdr s .pwr).pend ||| 4 } ∧
      { t with evr := s.evr, pages := s.pages } = { s with
        pwr := { s.pwr with fwUp := false, fwFirst := false, beat := false, image := s.pwr.active }, glb := { s.glb with fwver := 0 } })) ∧
    (s.pwr.fwFirst = false → s.pwr.badImages ≠ 3 → Gives .fwImageFallback s (fun t => AsideRecords { s with
      pwr := { s.pwr with badImages := s.pwr.badImages ||| (if s.pwr.image then 2 else 1), image := !s.pwr.image } } t)) ∧
    ∀ p n : Bool, Gives (.senseContactChange p n) s (fun t =>
      t = { s with pwr := { s.pwr with senseP := p, senseN := n, inrush := s.pwr.inrush || (p && n) } })

/-- R412, R419, R438, R442, R451 to R453, R456, R457, R460, R466: the grace's end and a thermal trip take the core rails off; warm and
cold resets, by Thaid, the sideband or the input's recovery, lose the core islands and wipe the vault, but wait for a flush pass;
a sensor trips at 115.0 °C at a junction and at 105.0 °C in a stack;
loss of MG power empties the vault and the recorder's buffer, and the next power-up restores the newer valid counts; the rails come
up with every island in RUN, but the XP islands without an expander OFF and, after tamper, every core island but HL in reset.
Rests also on log entries 42, 114, 149, the model's choices. -/
def Obligations.TheModuleIsReset : Prop :=
  ∀ s : State, s.MemOk → s.TablesOk →
    NothingPends s →
    (s.pwr.powered = false → ∀ p n : Bool, Gives (.senseContactChange p n) s (fun t =>
      t = { s with pwr := { s.pwr with senseP := p, senseN := n, inrush := p && n } })) ∧
    (s.pwr.grace = true → Gives .graceExpiry s (fun t => CoreLost { s with pwr := { s.pwr with grace := false, stopped := true } } t)) ∧
    (s.pwr.powered = true →
      (∀ (sensor : TempSensor) (tenths : BitVec 32), (match sensor with | .junction _ => 1150 | .stack _ => 1050) ≤ tenths.toInt → Gives (.thermalTrip sensor tenths) s (fun t => ∃ a, AsideRecords s a ∧
        CoreLost { a with pwr := { a.pwr with trip := true, tripHold := true, stopped := true, grace := false } } t)) ∧
      (s.evr.flushing = false →
        (∀ mv : BitVec 16, s.pwr.pfw = true → 9500 ≤ mv.toNat →
          Gives (.inputRecovery mv) s (fun t => WarmReset { s with pwr := { s.pwr with mv := mv } } t)) ∧
        (s.pwr.badImages ≠ 3 → Gives .warmReset s (WarmReset s)) ∧ Gives (.sidebandModuleReset false) s (WarmReset s) ∧
        Gives (.sidebandModuleReset true) s (ColdReset s) ∧ Gives (.coldReset none) s (ColdReset s)) ∧
      (s.evr.flushing = true →
        (∀ mv : BitVec 16, s.pwr.pfw = true → 9500 ≤ mv.toNat →
          Gives (.inputRecovery mv) s (fun t => ResetWaits { s with pwr := { s.pwr with mv := mv } } t false false)) ∧
        (s.pwr.badImages ≠ 3 → Gives .warmReset s (fun t => ResetWaits s t false true)) ∧
        ∀ cold, Gives (.sidebandModuleReset cold) s (fun t => ResetWaits s t cold true)) ∧
      Gives .mgPowerLoss s (fun t => ∃ b, CoreLost s b ∧ t.pwr.powered = false ∧ t.objs.vault = [] ∧ t.objs.wipes = [] ∧
        t.evr.buf = [] ∧ t.evr.log = s.evr.log ∧ t.evr.copy0 = s.evr.copy0 ∧ t.evr.copy1 = s.evr.copy1 ∧
        { t with pwr := b.pwr, objs := b.objs, evr := b.evr, poison := b.poison } = b)) ∧
    (s.pwr.powered = false → s.pwr.inrush = true → s.evr.log.length + 3 ≤ 65536 → ∀ mv, Gives (.coldReset (some mv)) s (fun t =>
      t.pwr.powered = true ∧ t.pwr.core = false ∧ t.pwr.locked = false ∧ t.pwr.tamper = 0 ∧ t.objs = Objs.reset ∧ t.ctxs = [] ∧
      t.glb = Glb.reset ∧ t.evr.log = s.evr.log ∧ t.evr.tick = 0 ∧
      let a := if s.evr.newer then s.evr.copy1 else s.evr.copy0
      let b := if s.evr.newer then s.evr.copy0 else s.evr.copy1
      let p : Persist := if a.valid then a else if b.valid then b else Persist.zero
      t.evr.opt = p.opt ∧ t.evr.dropped = p.dropped ∧ t.evr.pcc.toNat = min (p.pcc.toNat + 1) (2 ^ 24 - 1))) ∧
    (s.pwr.powered = true → s.pwr.core = false → s.pwr.badImages ≠ 3 → s.pwr.stopped = false → s.pwr.pfw = false →
      (Wipe.vault ∉ s.objs.wipes) → s.pwr.tripHold = false ∨ (s.pwr.jmax.toInt ≤ 950 ∧ s.pwr.smax.toInt ≤ 850) → Gives .coreRailsGood s (fun t =>
        (∀ i : Fin 34, t.pwr.islands[i.val] = if i = islMG then s.pwr.islands[i.val] else
          let st : IslState := if 1 ≤ i.val ∧ i.val < 7 ∧ s.pwr.prsntXp.getLsbD (i.val - 1) = false then .off else .run
          { st := st, req := st, inrst := s.pwr.locked && decide (i ≠ islHL), waking := false }) ∧
        (∀ q : Fin 16, t.seqs[q.val] = if s.pwr.locked then s.seqs[q.val] else { s.seqs[q.val] with st := 0 }) ∧
        { t with pwr := { t.pwr with islands := s.pwr.islands }, seqs := s.seqs } = { s with
          pwr := { s.pwr with core := true, clkreq := true, tripHold := false }, hl := { s.hl with training := !s.pwr.perst } }))

namespace Sys2Proof.Machine

/-- A transition of R462 is permitted to a request that the owner's key, or else Zynnor's, has signed. -/
def LcAllowed (s : State) (r : LcRequest) : Prop :=
  (s.pwr.lc, r.target, r.owner) ∈ ([(0, 1, false), (1, 2, true), (3, 2, true), (0, 4, false)] : List (Fin 5 × Fin 5 × Bool)) ∨
  (s.pwr.lc = 2 ∧ r.target = 3 ∧ r.owner = true ∧ s.pwr.diagUsed ≠ 15) ∨
  (r.target = 4 ∧ 1 ≤ s.pwr.lc.val ∧ s.pwr.lc.val ≤ 3)

/-- Admission has closed and every accepted job is void. -/
def AllVoid (s t : State) (cause : BitVec 16) : Prop :=
  t.dau.gopen = false ∧ t.dau.bopen = false ∧ ∀ c, Live (getCtx s c) → Voided (getCtx s c) (getCtx t c) cause

end Sys2Proof.Machine

/-- R462 to R466 and, for the validity of a signature, log entry 13: tamper sets its bit and LOCKED, wipes the vault and the scratchpads,
and voids every job; once their entries are written, every core island but HL is held in reset, and answers the requests it holds (R13). A permitted
and signed lifecycle request voids every job, then writes the fuses and wipes the vault; when the wipe ends it is recorded and the module makes a
warm reset; any other request changes nothing. That the cause of a gate that was closed already is written is the model's choice (log entry 18).
Rests also on log entries 13, 18, 150, the model's choices. -/
def Obligations.TamperAndLifecycle : Prop :=
  ∀ s : State, s.TablesOk → s.pwr.powered = true → s.hl.flr = [] →
    (∀ src : Fin 4, src.val ≠ 0 ∨ s.pwr.lc ≠ 0 → Gives (.tamper src) s (fun t =>
      (∀ k < 4, t.pwr.tamper.getLsbD k = (s.pwr.tamper.getLsbD k || decide (k = src.val))) ∧ t.pwr.locked = true ∧
      t.objs = { s.objs with wipes := s.objs.wipes ++ [.vault, .scratchpads] } ∧ t.dau.cause = 4 ∧ t.dau.bcause = 4 ∧
      t.dau.gopen = false ∧ t.dau.bopen = false ∧ t.mem = s.mem ∧ t.qmem = s.qmem ∧ t.glb = s.glb ∧
      (entriesDue s = false → (∀ c, getCtx t c = Ctx.free) ∧ (∀ i : Fin 34, t.pwr.islands[i.val] =
          if i = islHL ∨ i = islMG then s.pwr.islands[i.val] else { s.pwr.islands[i.val] with inrst := true }) ∧
        ∀ i r, i ≠ islHL → i ≠ islMG → ¬HeldAt t i r ∧ (HeldAt s i r →
          Msg.rsp (srcIsl r.t) (xTag r.t) 1 false [] ∈ t.out ∨ ∃ x ∈ t.fab.rsps, x.t = r.t ∧ x.src = i ∧ x.rstat = 1)) ∧
      (entriesDue s = true → AllVoid s t 0x0108 ∧ t.pwr.islands = s.pwr.islands ∧ t.pwr.tamperPend = true))) ∧
    (s.pwr.locked = false → s.pwr.tamperPend = false → s.pwr.lcPend = none → s.objs.wipes = [.vault] → ∀ old, s.pwr.lcWipe = some old →
      Gives (.termiteWipeComplete none) s (fun t => (∀ k, getVault t k = VaultSlot.empty) ∧ t.pwr.lcWipe = none ∧ t.pwr.lc = s.pwr.lc ∧
        ((t.glb.last = 1 ∧ t.pwr.core = false ∧ t.ctxs = [] ∧ t.pwr.epoch = s.pwr.epoch + 2) ∨
          (t.evr.flushing = true ∧ t.pwr.resetPend.isSome = true)))) ∧
    ∀ r : LcRequest, s.pwr.lcPend = none → s.pwr.tamperPend = false → s.pwr.lcWipe = none → s.pwr.badImages ≠ 3 →
      (match r.session with | some n => sessionUp s n = true ∧ linkUp s = true | none => True) →
      (LcAllowed s r ∧ Config.signatureValid r.auth (s.pwr.lc.val + 8 * r.target.val + 64 * b2n r.owner) = true →
        (entriesDue s = true → Gives (.lifecycleTransition r) s (fun t =>
          AllVoid s t 0x0109 ∧ t.pwr = { s.pwr with lcPend := some r.target } ∧ t.mem = s.mem ∧ t.qmem = s.qmem)) ∧
        (entriesDue s = false → Gives (.lifecycleTransition r) s (fun t =>
          AllVoid s t 0x0109 ∧ t.mem = s.mem ∧ t.qmem = s.qmem ∧ t.objs = { s.objs with wipes := s.objs.wipes ++ [.vault] } ∧
          t.pwr = { s.pwr with
            lc := r.target, lcPend := none, lcWipe := some s.pwr.lc,
            diagUsed := if s.pwr.lc = 2 ∧ r.target = 3 then s.pwr.diagUsed + 1 else s.pwr.diagUsed }))) ∧
      (¬(LcAllowed s r ∧ Config.signatureValid r.auth (s.pwr.lc.val + 8 * r.target.val + 64 * b2n r.owner) = true) →
        Gives (.lifecycleTransition r) s (fun t => t = { s with out := if r.session.isSome then s.out ++ [.spdmError 1] else s.out }))

/-- R13, R393, R456, R459, R465: a reset of an island gives it and its pages their reset values, whose header holds the new epoch (an XP
island without an expander goes to OFF), answers the requests it holds with an error, and ends what it did: the jobs resident on its
sequencers, the streams of its pipe, the FM port, the host link, or every job. A reset of a LOCKED sequencer ends the jobs in
its banks and keeps its page; a reset of a pipe ends its streams and clears its lanes.
Rests also on log entries 112, 113, the model's choices. -/
def Obligations.BlocksAreReset : Prop :=
  ∀ s : State, s.TablesOk → s.hl.flr = [] → NothingPends s →
    (∀ isl : Fin 34, isl ≠ islMG → s.pwr.core = true → s.pwr.powered = true → s.parked = [] → Gives (.islandReset isl) s (fun t =>
      let st : IslState := if 1 ≤ isl.val ∧ isl.val < 7 ∧ s.pwr.prsntXp.getLsbD (isl.val - 1) = false then .off else .run
      (∀ i : Fin 34, t.pwr.islands[i.val] =
        if i = isl then { st := st, req := st, inrst := s.pwr.locked && decide (isl ≠ islHL), waking := false } else s.pwr.islands[i.val]) ∧
      t.pwr.epoch = s.pwr.epoch + 1 ∧ (∀ pg, pageIsland pg = isl → hdr t pg = Hdr.reset t.pwr.epoch pg) ∧ t.qmem = s.qmem ∧
      (∀ r, HeldAt s isl r → Msg.rsp (srcIsl r.t) (xTag r.t) 1 false [] ∈ t.out) ∧
      (∀ q, islSQ q = isl → t.seqs[q.val] = { Seq.reset with st := 0 } ∧ ∀ (b : Fin 8) (c : Nat),
        (s.seqs[q.val].banks[b.val]).occ = some c → (s.pwr.islands[isl.val]).st ≠ .retain → (getCtx s c).st ≠ .free →
          (getCtx t c).st = .ending ∧ (getCtx t c).void = true ∧ (getCtx t c).dying = true) ∧
      (∀ p, islPP p = isl → (∃ x : Pipe, t.pipes[p.val] = { Pipe.reset with table := x.table, waiting := x.waiting, issued := x.issued }) ∧
        ∀ (e : Fin 64) (v : Stream), getStream t p e = some v → v.phase = .ended) ∧
      (∀ p, islXP p = isl → t.xpts[p.val] = Xpt.reset ∧ t.map.portEn.getLsbD p.val = false) ∧
      (∀ n, islLM n = isl → t.lmcs[n.val].trained = s.lmcs[n.val].trained ∧ t.lmcs[n.val].ce = 0 ∧ t.mem = s.mem) ∧
      (isl = islHL → t.hl.up = false ∧ (s.hl.up = true → AllVoid s t 0x0502 ∧
        t.rqe.inbox = s.rqe.inbox.filter (fun e => decide (fieldOf e 0 0 8 = 1) && (getQp s e.q.val).cqloc))) ∧
      (isl = islAS → t.dau = { Dau.reset with order := s.dau.order } ∧ t.evc = Evc.reset ∧ AllVoid s t 0x0106))) ∧
    (∀ q : Fin 16, islandUp s (islSQ q) = true → (s.seqs[q.val]).st = 2 → Gives (.sequencerReset q) s (fun t =>
      let x := s.seqs[q.val]
      t.seqs[q.val] = { Seq.reset with
        st := 0, wdog := x.wdog, wdogEn := x.wdogEn, masklim := x.masklim, bundles := x.bundles, stalls := x.stalls, mispred := x.mispred,
        ibMiss := x.ibMiss, sbStall := x.sbStall, collided := x.collided } ∧
      (∀ k : Fin 16, k ≠ q → t.seqs[k.val] = s.seqs[k.val]) ∧ t.pwr.epoch = s.pwr.epoch + 1 ∧
      (∀ (b : Fin 8) (c : Nat), (x.banks[b.val]).occ = some c → (getCtx s c).st ≠ .free →
        (getCtx t c).st = .ending ∧ (getCtx t c).void = true ∧ (getCtx t c).dying = true) ∧ t.mem = s.mem)) ∧
    ∀ p : Fin 8, islandUp s (islPP p) = true → Gives (.pipeReset p) s (fun t =>
      t.pipes[p.val].laneFail = 0 ∧ t.pipes[p.val].sp0 = Spare.reset ∧ t.pipes[p.val].sp1 = Spare.reset ∧ t.pwr.epoch = s.pwr.epoch + 1 ∧
      (∀ (e : Fin 64) (u : Stream), getStream s p e = some u → (u.phase = .issued ∧ u.bad = none) ∨ u.phase = .ready ∨ (∃ k, u.phase = .active k) →
        ∃ v, getStream t p e = some v ∧ v.phase = .ended ∧ v.fault = some (strmFault u.com 5 0x0B 0 0 0) ∧ v.com = u.com ∧
          ((getCtx s u.ctx).st ≠ .free → (getCtx t u.ctx).void = true) ∧
          ∀ h, u.updated = some h → (getDir s h.val).st = .ready → (getDir t h.val).st = .suspect) ∧
      (∀ (e : Fin 64) (u : Stream) (g : Nat), getStream s p e = some u → u.phase = .issued → u.bad = some g →
        ∃ v f, getStream t p e = some v ∧ v.phase = .ended ∧ v.fault = some f ∧ f.code = 0x0D) ∧
      (∀ (e : Fin 64) (v : Stream), getStream t p e = some v → v.phase = .ended) ∧
      ∀ k : Fin 8, k ≠ p → t.pipes[k.val] = s.pipes[k.val])

/-- R417, R418, R420, R458, R459: a request for RUN is noted and the island wakes; a request for a sleep state is carried out
where the island may leave RUN, which answers the requests it holds with an error (R13), and sets WRSV otherwise, as does a request for an
XP island without an expander; HL, LM, DR and MG never leave RUN, and AS only into RETAIN with admission
closed and no job left. An island that wakes is in RUN: from CLKSTOP nothing is lost; from RETAIN a sequencer keeps its scratchpad
and its banks if the epoch stands, and is STALE and empty otherwise, while the rest of the island's logic and its pages have their reset
values; from OFF its pages have their reset values. That an island goes from one sleep state to another is the model's choice (log entry 30),
and so is what RETAIN loses of the pages (log entry 31).
Rests also on log entries 30, 31, the model's choices. -/
def Obligations.IslandsSleepAndWake : Prop :=
  ∀ s : State, s.TablesOk → s.MemOk → s.pwr.powered = true → s.pwr.core = true → s.parked = [] →
    (∀ (isl : Fin 34) (st : IslState),
      let x := s.pwr.islands[isl.val]
      let turnedDown := modHdr s .pwr (fun h => { h with wrsv := true })
      let stuck := 1 ≤ isl.val ∧ isl.val < 7 ∧ s.pwr.prsntXp.getLsbD (isl.val - 1) = false
      (isl = islMG ∨ x.inrst = true → Gives (.islandStateRequest isl st) s (fun t => t = turnedDown)) ∧
      (isl ≠ islMG → x.inrst = false →
        (st = .run → stuck → Gives (.islandStateRequest isl st) s (fun t => t = turnedDown)) ∧
        (st = .run → ¬stuck → Gives (.islandStateRequest isl st) s (fun t =>
          t = { s with pwr := { s.pwr with islands := vset s.pwr.islands isl { x with req := .run, waking := decide (x.st ≠ .run) } } })) ∧
        (st ≠ .run → x.st = st → Gives (.islandStateRequest isl st) s (fun t =>
          t = { s with pwr := { s.pwr with islands := vset s.pwr.islands isl { x with req := st, waking := false } } })) ∧
        (st ≠ .run → x.st ≠ st →
          (mayLeave s isl st = false ∨ stuck → Gives (.islandStateRequest isl st) s (fun t => t = turnedDown)) ∧
          (mayLeave s isl st = true → ¬stuck → isl ≠ islHL ∧ isl ≠ islDR ∧ (∀ n, isl ≠ islLM n) ∧
            (isl = islAS → st = .retain ∧ s.dau.gopen = false ∧ s.dau.bopen = false ∧ s.ctxs = [] ∧ s.rqe.inbox = []) ∧
            (∀ q : Fin 16, isl = islSQ q ∨ isl = islPP (pipeOf q) → ∀ b : Fin 8, (s.seqs[q.val].banks[b.val]).occ = none) ∧
            Gives (.islandStateRequest isl st) s (fun t =>
              t.pwr.islands = vset s.pwr.islands isl { st := st, req := st, inrst := false, waking := false } ∧
              (st = .retain → ∀ q, islSQ q = isl → (hdr t (.seq q)).epoch = s.pwr.epoch) ∧
              (st = .retain → isl = islAS → (hdr t .evc).epoch = s.pwr.epoch) ∧
              (st ≠ .clkstop → ∀ p, islXP p = isl → t.map.portEn.getLsbD p.val = false ∧ t.pwr.perstXp.getLsbD p.val = false) ∧
              (∀ r, ¬HeldAt t isl r ∧ (HeldAt s isl r → Msg.rsp (srcIsl r.t) (xTag r.t) 1 false [] ∈ t.out ∨ ⟨isl, r.t, 1, false, []⟩ ∈ t.fab.rsps)) ∧
              (x.st = .run → t.mem = s.mem ∧ ((∀ p, islXP p ≠ isl) ∨ st = .clkstop → t.ctxs = s.ctxs))))))) ∧
    ∀ isl : Fin 34,
      let x := s.pwr.islands[isl.val]
      let awake := vset s.pwr.islands isl { x with st := .run, req := .run, waking := false }
      isl ≠ islMG → x.inrst = false → x.st ≠ .run → x.waking = true ∨ autoWake s isl = true →
        (x.st = .clkstop → s.evc.held = [] → Gives (.islandWakeComplete isl) s (fun t => t = { s with pwr := { s.pwr with islands := awake } })) ∧
        (x.st = .retain → Gives (.islandWakeComplete isl) s (fun t => t.pwr.islands = awake ∧
          (∀ p, islPP p = isl → hdr t (.pipe p) = Hdr.reset s.pwr.epoch (.pipe p) ∧
            ∀ j < 0x400000, rdByte t (onDieBase + 0x1000000 + 0x400000 * p.val + j) = 0) ∧
          (∀ p, islXP p = isl → t.xpts[p.val] = Xpt.reset ∧ hdr t (.xpt p) = Hdr.reset s.pwr.epoch (.xpt p) ∧ t.map.portEn.getLsbD p.val = false) ∧
          (isl = islAS → t.dau = { Dau.reset with order := s.dau.order } ∧ ∀ pg, pg = .dau ∨ pg = .csc → hdr t pg = Hdr.reset s.pwr.epoch pg) ∧
          ∀ q, islSQ q = isl → t.seqs[q.val] = { Seq.reset with st := 0, banks := t.seqs[q.val].banks } ∧
            hdr t (.seq q) = { Hdr.reset s.pwr.epoch (.seq q) with
              epoch := (hdr s (.seq q)).epoch, stale := decide ((hdr s (.seq q)).epoch ≠ s.pwr.epoch) } ∧
            if (hdr s (.seq q)).epoch = s.pwr.epoch then
              (∀ j < 0x100000, rdByte t (onDieBase + 0x100000 * q.val + j) = rdByte s (onDieBase + 0x100000 * q.val + j)) ∧
              ∀ b : Fin 8, t.seqs[q.val].banks[b.val] = { s.seqs[q.val].banks[b.val] with ibuf := [], btb := [] }
            else (∀ j < 0x100000, rdByte t (onDieBase + 0x100000 * q.val + j) = 0) ∧
              ∀ b : Fin 8, t.seqs[q.val].banks[b.val] = Bank.empty)) ∧
        (x.st = .off → Gives (.islandWakeComplete isl) s (fun t => t.pwr.islands = awake ∧
          (∀ pg, pageIsland pg = isl → hdr t pg = Hdr.reset s.pwr.epoch pg) ∧
          ∀ q, islSQ q = isl → ∀ j < 0x100000, rdByte t (onDieBase + 0x100000 * q.val + j) = 0))

/-- R391: a source is presentable that is enabled, pending, not masked and not in service, and whose group is not in hold-off; a
target's candidate is its presentable source of the highest priority, the lowest number among equals; and a target is presented as long as it
has a candidate, the EVC page being enabled, not held, and its island in RUN. Source 0 is no source (R404), and a level source is pending
while its input is asserted (R387). -/
def Obligations.CandidatesOfATarget : Prop :=
  ∀ (s : State) (k : Fin 18), s.TablesOk →
    (∀ n, presentable s n = true ↔
      n ≠ 0 ∧ (srcCfg s n).en = true ∧ (if srcLevel n then (srcState s n).input = true else (srcState s n).pend = true) ∧
      (srcState s n).mask = false ∧ (srcState s n).insvc = none ∧ (getGrp s (n / 16)).hact = false) ∧
    (∀ n, candidate s k = some n ↔ (srcCfg s n).tgt.toNat = k.val ∧ presentable s n = true ∧
      ∀ m, (srcCfg s m).tgt.toNat = k.val → presentable s m = true →
        (srcCfg s m).prio.toNat < (srcCfg s n).prio.toNat ∨ ((srcCfg s m).prio = (srcCfg s n).prio ∧ n ≤ m)) ∧
    ((hdr s .evc).en = true → (hdr s .evc).held = false → evcUp s = true → Gives (.evcPresentation k) s (fun t =>
      ∀ j : Fin 18, t.evc.presented.getLsbD j.val = if j = k then (candidate s k).isSome else s.evc.presented.getLsbD j.val))

/-- R319, R391, R397: where the EVC works, a target with a candidate is presented and one without is not; a presented sequencer that
does not run wakes the waiting context it chooses, and the host's target sends its messages. R489: where the lifecycle state enables
J9, it reads and writes memory as the module's masters do, and waits while QUIESCE holds what it addresses (R482); where the lifecycle state
does not, it is ignored.
Rests also on log entry 29, the model's choice. -/
def Obligations.PresentationAndDebugAccess : Prop :=
  (∀ (s : State) (k : Fin 18), s.TablesOk → (hdr s .evc).en = true → (hdr s .evc).held = false → evcUp s = true →
    let a : State := { s with evc := { s.evc with presented :=
      if (candidate s k).isSome then s.evc.presented ||| BitVec.ofNat 18 (2 ^ k.val) else s.evc.presented &&& ~~~BitVec.ofNat 18 (2 ^ k.val) } }
    (k.val = 16 → Gives (.evcPresentation k) s (fun t => t = a)) ∧
    (k.val = 17 → Gives (.evcPresentation k) s (HostSourcesSent a)) ∧
    ∀ q : Fin 16, k.val = q.val →
      ((candidate s k = none ∨ (s.seqs[q.val]).run.isSome = true ∨ wakeCandidate s q = none) → Gives (.evcPresentation k) s (fun t => t = a)) ∧
      (∀ n c, candidate s k = some n → (s.seqs[q.val]).run = none → wakeCandidate s q = some c → Gives (.evcPresentation k) s (fun t =>
        (getCtx s c).st = .wait ∧ (getCtx s c).dying = false ∧ t.ctxs = tset Ctx.free s.ctxs c { getCtx s c with st := .ready, waiton := 0 } ∧
        (c ∈ t.csc.cal ∨ c ∈ t.csc.fifo) ∧ t.csc.irqWake = satInc s.csc.irqWake ∧
        { t with ctxs := s.ctxs, csc := s.csc } = a))) ∧
  (∀ (s : State) (a : BarAccess), s.pwr.lc = 2 ∨ s.pwr.lc = 4 → Gives (.j9DebugAccess a) s (fun t => t = s)) ∧
  ∀ (s : State) (ga : BitVec 57), s.MemOk → s.pwr.powered = true → s.pwr.badImages ≠ 3 → s.pwr.lc = 0 ∨ s.pwr.lc = 1 ∨ s.pwr.lc = 3 →
    (∀ n : Fin 513, (∃ i < n.val, ∃ k, place s .j9 (ga.toNat + i) = some k ∧ heldAt s k = true) →
      Gives (.j9DebugAccess (.read ga n)) s (fun t => t = { s with parked := s.parked ++ [.j9 (.read ga n)] })) ∧
    (noneHeld s → (∀ a, Parked.j9 a ∉ s.parked) → s.upset = [] →
    (∀ n : Fin 513, PlainFor s .j9 ga.toNat n.val → Gives (.j9DebugAccess (.read ga n)) s (fun t =>
      t = { s with out := s.out ++ [.rsp islMG 0 0 false ((List.range n.val).map (fun i => rdByte s (ga.toNat + i)))] })) ∧
    ∀ bs : List Byte, PlainFor s .j9 ga.toNat bs.length → Gives (.j9DebugAccess (.write ga bs)) s (fun t =>
      (∀ k, rdByte t k = if ga.toNat ≤ k ∧ k < ga.toNat + bs.length then (bs[k - ga.toNat]?).getD 0 else rdByte s k) ∧
      { t with mem := s.mem, poison := s.poison, lms := { t.lms with answers := s.lms.answers, mems := s.lms.mems } } =
        { s with out := s.out ++ [.rsp islMG 0 0 false []] }))

/-! ## Scheduling -/

namespace Sys2Proof.Machine

/-- A job's use of a class in the units of its budget (R179): counts in the classes 7 to 9, 64-byte units in the others. -/
def budgetUse (x : Ctx) (k : Fin 11) : Nat :=
  if 7 ≤ k.val ∧ k.val ≤ 9 then x.meter[k.val].toNat else (x.meter[k.val].toNat + 63) / 64

/-- A guaranteed job whose deadline slot has come and which has not ended (R317). -/
def deadlineNow (s : State) (x : Ctx) : Bool := decide (Live x) && !x.be && decide (x.dlslot = s.dau.slot)

/-- A job after its demotion (R179, R317): best-effort, with no demand left. -/
def demoted (x : Ctx) : Ctx := { x with be := true, held := false, rem := Vector.replicate 11 0 }

/-- One context becomes y; no other changes. -/
def CtxBecomes (s t : State) (c : Nat) (y : Ctx) : Prop := ∀ d, getCtx t d = if d = c then y else getCtx s d

/-- A guaranteed job is charged Q-cycles (R180), but for those of an interrupt handler (R319) and those between the decision to preempt
it and the switch (R309). -/
def chargedQ (x : Ctx) (n : Nat) : Ctx :=
  if x.st ≠ .free ∧ x.be = false ∧ x.leaving = false ∧ ∀ i : Fin 5, x.frameSrc[i.val] = none then { x with meter := vmod x.meter 9 (fun m => m + BitVec.ofNat 64 n) } else x

/-- A pipe once a job's waiting STRM is best-effort (R179, R317). -/
def waitingDemoted (c : Nat) (x : Pipe) : Pipe :=
  { x with waiting := x.waiting.map (fun w => if w.ctx = c then { w with be := true } else w) }

/-- A budget overrun reaches a stream (R74, R158): one that stands between strips is best-effort at once, any other from its next
strip on. -/
def streamDemoted (c : Nat) (u : Stream) : Stream :=
  if u.ctx = c then { u with demoted := true, be := u.be || atBoundary u } else u

/-- The affinity of a context admits a sequencer; where every sequencer that it admits is LOCKED or in reset, it counts as 0
(R315). -/
def AdmitsNow (s : State) (x : Ctx) (q : Fin 16) : Prop :=
  affAdmits x q = true ∨ ∀ p : Fin 16, affAdmits x p = true → (s.seqs[p.val]).st = 2 ∨ (s.seqs[p.val]).st = 3

end Sys2Proof.Machine

/-- R166, R178, R179, R317, R318, and R167 with log entry 34 of the floor: the slot clock counts; the contexts whose deadline has come are
demoted together and marked late; a context whose release slot has come is READY or waits for its directories; a report of use is
applied in turn and brings the demand down to budget less use, 3,000 more in class 9; the first class whose use exceeds its budget
demotes the job, its waiting STRM and its streams, and makes Budget Overrun pending.
Rests also on log entry 34, the model's choice. -/
def Obligations.SlotsDemandAndDemotion : Prop :=
  ∀ s : State, s.TablesOk →
    (asUp s = true →
      Gives .admissionSlotAdvance s (fun t => t = { s with dau := { s.dau with slot := s.dau.slot + 1 } }) ∧
      Gives .deadlineDemotion s (fun t =>
        (∀ c, let x := getCtx s c
          getCtx t c = if deadlineNow s x then { demoted x with
            late := true, void := x.void || x.floor, vcause := if x.floor && !x.void then 0x0104 else x.vcause } else x) ∧
        (∀ c, deadlineNow s (getCtx s c) = true → (getCtx s c).st ≠ .wait → c ∈ t.csc.fifo) ∧
        t.csc.demotes.toNat = min (s.csc.demotes.toNat + (s.ctxs.filter (fun e => deadlineNow s e.2)).length) (2 ^ 32 - 1) ∧
        t.pipes = s.pipes.map (fun p => { p with
          waiting := p.waiting.map (fun w => if deadlineNow s (getCtx s w.ctx) then { w with be := true } else w) }) ∧
        { t with ctxs := s.ctxs, csc := s.csc, pipes := s.pipes } = s) ∧
      (∀ c : Fin 4194304,
        let x := getCtx s c.val
        (x.st = .wait → x.waiton = 5 → x.dying = false → s.dau.slot = x.relslot → Gives (.releaseSlotReached c) s (fun t =>
          let creating := x.dirs.any (fun h => decide ((getDir s h.val).st = .creating))
          CtxBecomes s t c.val { x with st := if creating then .wait else .ready, waiton := if creating then 4 else 0 } ∧
          (creating = false → c.val ∈ (if x.be then t.csc.fifo else t.csc.cal)) ∧ { t with ctxs := s.ctxs, csc := s.csc } = s)) ∧
        (x.res = true → Gives (.meterReport c) s (fun t =>
          t = { s with dau := { s.dau with credits :=
            if x.held = true ∧ c.val ∉ s.dau.credits then s.dau.credits ++ [c.val] else s.dau.credits } })))) ∧
    (∀ c cs, s.dau.credits = c :: cs → Gives .dauDemandCredit s (fun t =>
      let x := getCtx s c
      t.dau = { s.dau with credits := cs } ∧ { t with ctxs := s.ctxs, dau := s.dau } = s ∧
      CtxBecomes s t c (if x.held then { x with rem := Vector.ofFn (fun k : Fin 11 =>
        x.budget[k.val].toNat - budgetUse x k + if k = 9 then 3000 else 0) } else x))) ∧
    ∀ (c : Fin 4194304) (k : Fin 11),
      let x := getCtx s c.val
      Live x → x.be = false → x.ovr = false → x.budget[k.val].toNat < budgetUse x k →
      (∀ j : Fin 11, j.val < k.val → budgetUse x j ≤ x.budget[j.val].toNat) → Gives (.budgetOverrun c) s (fun t =>
        CtxBecomes s t c.val { demoted x with ovr := true, bopend := true, ovrClass := BitVec.ofNat 4 k.val } ∧
        (x.st ≠ .wait → c.val ∈ t.csc.fifo) ∧ t.dau = { s.dau with ovr := satInc s.dau.ovr } ∧
        t.pipes = s.pipes.map (fun p => { waitingDemoted c.val p with table := p.table.map (fun e => e.map (streamDemoted c.val)) }) ∧
        { t with ctxs := s.ctxs, csc := s.csc, dau := s.dau, pipes := s.pipes } = s)

/-- R305, R311, R314: guaranteed contexts come before best-effort ones, in order of their deadlines' distance; the first READY context in
this order that can be placed starts its transfer into a bank of a usable sequencer that its affinity admits, if one does: a free
bank, or that of a context which does not run and which, where it is guaranteed, has a later deadline than a guaranteed newcomer;
save areas are reserved for it, 10 or, without vector state, 1, of 524,288; R309: the transfer keeps whether it preempts that context. -/
def Sys2Proof.Machine.ContextsArePlaced : Prop :=
  (∀ s : State, (s.csc.cal ++ s.csc.fifo).Nodup → ∀ c d,
    (c ∈ s.csc.cal → d ∈ s.csc.cal → distance s (getCtx s c).dlslot < distance s (getCtx s d).dlslot → schedRank s c < schedRank s d) ∧
    (c ∈ s.csc.cal → d ∈ s.csc.fifo → schedRank s c < schedRank s d) ∧
    (c ∈ s.csc.fifo → d ∈ s.csc.fifo → (schedRank s c < schedRank s d ↔ s.csc.fifo.idxOf c < s.csc.fifo.idxOf d))) ∧
  ∀ (s : State) (c : Nat), s.TablesOk → cscRuns s = true → (schedOrder s).find? (placeable s) = some c →
    let x := getCtx s c
    ∃ q b v, placement s c = some (q, b, v) ∧ x.st = .ready ∧ x.res = false ∧ seqUsable s q = true ∧ (s.seqs[q.val]).xfer = none ∧
      AdmitsNow s x q ∧ (s.seqs[q.val].banks[b.val]).occ = v ∧
      (∀ w, v = some w → let y := getCtx s w
        y.st ≠ .run ∧ y.st ≠ .free ∧ y.dying = false ∧
        (y.be = false → x.be = false ∧ distance s x.dlslot < distance s y.dlslot) ∧
        ∀ (p : Fin 16) (k : Fin 8), seqUsable s p = true → AdmitsNow s x p → (s.seqs[p.val]).xfer = none →
          (s.seqs[p.val].banks[k.val]).occ.isSome = true) ∧
      Gives .cscPlacement s (fun t =>
        let n := if x.novec then 1 else 10
        CtxBecomes s t c { x with need := if x.need = 0 then n else x.need } ∧
        t.csc = { s.csc with poolRsv := if x.need = 0 then s.csc.poolRsv + n else s.csc.poolRsv } ∧
        (x.need = 0 → t.csc.poolRsv ≤ 524288) ∧
        { t with ctxs := s.ctxs, csc := s.csc } = modSeq s q (fun y => { y with xfer := some ⟨b, c, v, decide (∃ w, v = some w ∧
          (getCtx s w).st ≠ .free ∧ (getCtx s w).be = false ∧ x.be = false ∧ distance s x.dlslot < distance s (getCtx s w).dlslot)⟩ }))

/-- R298, R302, R307, R309: a transfer's end puts its context into the bank: as the program and the job's segments say where it never ran,
with its saved registers where it did; the context it evicts keeps its registers, its PC and its tables, holds save areas that no
other holds, has PRE where it was preempted, and reports its use; 3,000 Q-cycles are charged unless a preemption reloads it; the longest transfer is of at most 3,000.
R178, R306, R309, R312, R313, R316, R320, R321: a sequencer runs the resident READY context that is first in scheduling order, if it
comes before the running one, which is not in escalation, and becomes READY and reports its use; while a load, an F-slot operation, a
multiply or a divide of the running one is outstanding, nothing changes but that a preempted one is metered no longer, until no such switch
is decided on any more; a running
context that must end gives way first; a best-effort context that has run its slice goes to the tail. That CSC_SWITCH counts each entry into
another bank than the one that ran last is the model's choice (log entry 94). -/
def Sys2Proof.Machine.ContextsAreLoadedAndRun : Prop :=
  ∀ (s : State) (q : Fin 16), s.TablesOk →
    (∀ b c v pre, (s.seqs[q.val]).xfer = some ⟨b, c, v, pre⟩ → v ≠ some c → noneHeld s → Gives (.contextTransferComplete q) s (fun t =>
      let x := getCtx s c
      let k := bankOf t q b
      (x.started = true → k = { Bank.empty with
        occ := some c, pc := x.pc, tsbp := x.tsbp, edtb := x.edtb, lo := x.lower.getD Lower.zero, up := x.upper.getD Upper.zero }) ∧
      (x.started = false → ∀ p, getProg s x.prog.toNat = some p →
        k.occ = some c ∧ k.pc = p.entry ∧ k.tsbp = p.tsbp ∧ k.edtb = p.edtb ∧ k.up = Upper.zero ∧ k.lo.stat = Stat.first ∧
        (∀ i : Fin 16, k.lo.segs[i.val] = if i.val = 0 then 0 else x.initseg[i.val]) ∧
        ∀ i : Fin 16, k.lo.g[i.val] = if i.val = 15 then BitVec.ofNat 64 ((dLimit x.initseg[2] + 1) / 8 * 8) else 0) ∧
      getCtx t c = { (if x.pre then x else chargedQ x 3000) with
        res := true, seq := q, bank := b, started := true, fresh := true, pre := false, lower := none, upper := none, lareas := [],
        uareas := [] } ∧
      (∀ w, v = some w → let o := bankOf s q b
        (getCtx t w).lower = some o.lo ∧ (getCtx t w).upper = (if (getCtx s w).novec then none else some o.up) ∧
        (getCtx t w).pre = ((getCtx s w).pre || pre) ∧ (getCtx t w).pc = o.pc ∧ (getCtx t w).tsbp = o.tsbp ∧ (getCtx t w).edtb = o.edtb ∧ (getCtx t w).res = false ∧
        (getCtx t w).lareas.length = 1 ∧ (getCtx t w).uareas.length = (if (getCtx s w).novec then 0 else 9) ∧
        ((getCtx t w).lareas ++ (getCtx t w).uareas).Nodup ∧
        (∀ a ∈ (getCtx t w).lareas ++ (getCtx t w).uareas, ∀ d, a ∉ (getCtx s d).lareas ++ (getCtx s d).uareas) ∧
        ((getCtx s w).held = true → w ∈ t.dau.credits)) ∧
      (∀ d, d ≠ c → v ≠ some d → getCtx t d = getCtx s d) ∧ (∀ d, d ≠ b → bankOf t q d = bankOf s q d) ∧
      (t.seqs[q.val]).xfer = none ∧ t.csc.loads = satInc s.csc.loads ∧
      t.csc.evicts = (if v.isSome then satInc s.csc.evicts else s.csc.evicts) ∧ t.csc.xferMax.toNat ≤ max 3000 s.csc.xferMax.toNat ∧
      t.mem = s.mem)) ∧
    (cscRuns s = true → seqUsable s q = true → s.pwr.stopped = false →
      (∀ b r, running s q = some (b, r) → (getCtx s r).dying = true → switchBusy s.seqs[q.val] b = false →
        Gives (.bankSwitch q) s (fun t => (getCtx t r).st = .wait ∧ (residentReady s q = [] → (t.seqs[q.val]).run = none))) ∧
      (∀ b r, running s q = some (b, r) → (getCtx s r).dying = false → residentReady s q = [] → Gives (.bankSwitch q) s (fun t =>
        CtxBecomes s t r { getCtx s r with leaving := false } ∧ { t with ctxs := s.ctxs } = s)) ∧
      ∀ c, (residentReady s q).head? = some c →
      let x := getCtx s c
      let now := chargedQ x (if x.fresh || x.pre then 0 else 4)
      let runs := fun (t : State) => getCtx t c = { now with
          st := .run, fresh := false, leaving := false, pre := x.pre && x.fresh, fppend := (getCtx t c).fppend, fpRaised := (getCtx t c).fpRaised } ∧
        t.seqs[q.val] = { s.seqs[q.val] with run := some x.bank, st := 1, open_ := [], held := .nothing, slow := [], last := some x.bank } ∧
        t.csc = { s.csc with switches := if ∃ b, (s.seqs[q.val]).last = some b ∧ b ≠ x.bank then s.csc.switches + 1 else s.csc.switches } ∧
        ∀ p, p ≠ q → t.seqs[p.val] = s.seqs[p.val]
      x.st = .ready ∧ x.res = true ∧ x.seq = q ∧ (∀ d ∈ residentReady s q, schedRank s c ≤ schedRank s d) ∧
      (running s q = none → Gives (.bankSwitch q) s (fun t => runs t ∧ (∀ d, d ≠ c → getCtx t d = getCtx s d) ∧
        { t with ctxs := s.ctxs, seqs := s.seqs, csc := s.csc } = s)) ∧
      ∀ b r, running s q = some (b, r) → r ≠ c → (getCtx s r).dying = false →
        let y := getCtx s r
        let preempts := y.st ≠ .free ∧ y.be = false ∧ x.be = false ∧ distance s x.dlslot < distance s y.dlslot
        ((bankOf s q b).lo.stat.esc = true ∨ schedRank s r < schedRank s c → Gives (.bankSwitch q) s (fun t =>
          CtxBecomes s t r { y with leaving := false } ∧ { t with ctxs := s.ctxs } = s)) ∧
        ((bankOf s q b).lo.stat.esc = false → schedRank s c ≤ schedRank s r →
          (switchBusy s.seqs[q.val] b = true → Gives (.bankSwitch q) s (fun t =>
            CtxBecomes s t r { y with leaving := y.leaving || decide preempts } ∧ { t with ctxs := s.ctxs } = s)) ∧
          (switchBusy s.seqs[q.val] b = false → Gives (.bankSwitch q) s (fun t => runs t ∧
            getCtx t r = { y with st := .ready, leaving := false, pre := y.pre || decide preempts } ∧
            (∀ d, d ≠ c → d ≠ r → getCtx t d = getCtx s d) ∧
            t.dau = { s.dau with credits := if y.held = true ∧ r ∉ s.dau.credits then s.dau.credits ++ [r] else s.dau.credits } ∧
            { t with ctxs := s.ctxs, csc := s.csc, seqs := s.seqs, dau := s.dau } = s)))) ∧
    ∀ b c d, running s q = some (b, c) → cscRuns s = true → (getCtx s c).be = true → d ∈ s.csc.fifo → d ≠ c →
      (getCtx s d).st = .ready → AdmitsNow s (getCtx s d) q → Gives (.beSliceExpiry q) s (fun t =>
        t = { s with csc := { s.csc with fifo := s.csc.fifo.erase c ++ [c], cal := s.csc.cal.erase c } })

/-- R298 to R316: placement, transfers, and the switch of contexts.
Rests also on log entries 68, 94, 135, the model's choices. -/
def Obligations.ContextsArePlacedLoadedAndRun : Prop := ContextsArePlaced ∧ ContextsAreLoadedAndRun

namespace Sys2Proof.Machine

/-- A sequencer has gone LOCKED (R25, R320, R346): it runs nothing, its banks are empty, the jobs in them end with a void guarantee,
a record tells of it, and the source of its number has a pulse. -/
structure Locked (s t : State) (q : Fin 16) (why : Nat) : Prop where
  seq : t.seqs[q.val] = { s.seqs[q.val] with
    st := 2, run := none, open_ := [], banks := Vector.replicate 8 Bank.empty, loads := [], fq := [], md := none, xfer := none }
  others : ∀ p, p ≠ q → t.seqs[p.val] = s.seqs[p.val]
  jobs : ∀ (b : Fin 8) (c : Nat), (bankOf s q b).occ = some c → (getCtx s c).st ≠ .free →
    (getCtx t c).st = .ending ∧ (getCtx t c).void = true ∧ (getCtx t c).dying = true
  free : ∀ c, (∀ b : Fin 8, (bankOf s q b).occ ≠ some c) → getCtx t c = getCtx s c
  record : t.evr = (offer s 0x0401 3 (27 + q.val / 4) q.val why 0).evr
  pulse : evcUp s = true → (hdr s .evc).en = true → (hdr s .evc).held = false → (srcCfg s (0x40 + q.val)).en = true → (srcState t (0x40 + q.val)).pend = true
  memory : t.mem = s.mem ∧ t.qmem = s.qmem

/-- A sequencer stands at a boundary of its running context, where an exception may be entered: nothing is outstanding, and no block holds
its requests (R101, R252, R482). -/
structure AtBoundary (s : State) (q : Fin 16) (b : Fin 8) (c : Nat) : Prop where
  runs : seqRuns s q = true
  running : running s q = some (b, c)
  alive : (getCtx s c).dying = false
  loads : (s.seqs[q.val]).loads = []
  md : (s.seqs[q.val]).md = none
  fq : (s.seqs[q.val]).fq = []
  served : noneHeld s

/-- Items 2 to 4 of R343 may be entered: no window trap, no escalation, no such frame open, fewer than 4 frames. -/
def itemsMay (x : Ctx) (k : Bank) : Prop :=
  k.lo.stat.wt = false ∧ k.lo.stat.esc = false ∧ x.fdepth.toNat < 4 ∧ ∀ i : Fin 5, i.val < x.fdepth.toNat → x.frameItem[i.val] = false

/-- A context takes no interrupt (R341). -/
def Masked (x : Ctx) (k : Bank) : Prop := k.lo.stat.gm = true ∨ k.lo.stat.wt = true ∨ k.lo.stat.esc = true ∨ x.fdepth = 4

end Sys2Proof.Machine

/-- R215, R343, R392, R394: at a bundle boundary the pending FP Imprecise comes first, then a deferred memory error, then Budget Overrun,
each entered with its code and the PC of the next bundle; an FP trap that is pending is entered in place of the last two and of an
interrupt; with none pending, an unmasked context claims the best presentable source of
its sequencer and enters its class, 0x20 to 0x3F; a claim that finds none counts; a disabled EVC takes no claim (R476). -/
def Sys2Proof.Machine.InterruptsAreTaken : Prop :=
  ∀ (s : State) (q : Fin 16) (b : Fin 8) (c : Nat), s.TablesOk → AtBoundary s q b c →
    let k := bankOf s q b
    let y := getCtx s c
    let enters := fun (t : State) (x : Exc) (item : Bool) (P : State → Prop) => ∃ a, P a ∧
      t = modSeq (enterExc a q b c x item) q (fun z => { z with open_ := [], held := .nothing })
    let fp := fun (t : State) => enters t (Exc.plain 0x06 2 k.pc 0 none) true (fun a => { a with ctxs := s.ctxs } = s ∧
      CtxBecomes s a c { y with fpRaised := true })
    let noFp := fpCond k.lo.fcsr = false ∨ y.fpRaised = true
    (itemsMay y k → y.fppend = true → Gives (.sequencerInterruptTake q) s (fun t =>
      enters t (Exc.plain 0x06 (if y.fpStream then 1 else 2) k.pc 0 none) true (fun a => { a with ctxs := s.ctxs } = s ∧
        CtxBecomes s a c { y with fppend := false, fpStream := false, fpRaised := y.fpRaised || !y.fpStream }))) ∧
    (itemsMay y k → y.fppend = false → y.defer = true ∨ y.bopend = true → fpCond k.lo.fcsr = true → y.fpRaised = false →
      Gives (.sequencerInterruptTake q) s fp) ∧
    (itemsMay y k → y.fppend = false → y.defer = true → noFp → Gives (.sequencerInterruptTake q) s (fun t =>
      enters t { Exc.plain 0x0D 0 k.pc y.deferGa.toNat none with defer := true } true (fun a => { a with ctxs := s.ctxs } = s ∧
        CtxBecomes s a c { y with defer := false }))) ∧
    (itemsMay y k → y.fppend = false → y.defer = false → y.bopend = true → noFp → Gives (.sequencerInterruptTake q) s (fun t =>
      enters t (Exc.plain 0x0E y.ovrClass.toNat k.pc 0 none) true (fun a => { a with ctxs := s.ctxs } = s ∧
        CtxBecomes s a c { y with bopend := false }))) ∧
    (y.fppend = false → y.defer = false → y.bopend = false → evcUp s = true →
      (Masked y k ∨ (hdr s .evc).en = false → Gives (.sequencerInterruptTake q) s (fun t => t = s)) ∧
      ((hdr s .evc).en = true →
      (¬Masked y k → itemsMay y k → fpCond k.lo.fcsr = true → y.fpRaised = false → (candidate s ⟨q.val, by omega⟩).isSome = true →
        Gives (.sequencerInterruptTake q) s fp) ∧
      (¬Masked y k → noFp → ∀ n : Fin 2048, n.val ≠ 0 → candidate s ⟨q.val, by omega⟩ = some n.val → Gives (.sequencerInterruptTake q) s (fun t =>
        enters t { Exc.plain (0x20 + (srcCfg s n.val).cls.toNat) 0 k.pc 0 none with async := true, src := some (n, ⟨q.val, by omega⟩) } false (fun a =>
          (srcState a n.val).pend = false ∧ (srcState a n.val).insvc = some ⟨q.val, by omega⟩ ∧
          { a with evc := { a.evc with src := s.evc.src, grp := s.evc.grp } } = s))) ∧
      (¬Masked y k → candidate s ⟨q.val, by omega⟩ = none → Gives (.sequencerInterruptTake q) s (fun t =>
        t = { s with evc := { s.evc with spur := vmod s.evc.spur ⟨q.val, by omega⟩ satInc } }))))

/-- R293, R342, R344, R346: a watchdog that expires while no load is outstanding, and the sequencer waits neither for a pipe grant nor
for its store buffer, locks the sequencer with cause 3; once a masked context's MASKQ has reached the limit, 2,000 times SEQ_MASKLIM, a
mask overrun in escalation locks it with cause 4; a mask overrun at PL0, in a window trap or with 4 frames escalates, and is entered as Mask
Overrun elsewhere, and MASKQ starts again; a pending FP trap is entered in its place, and the count stays (R215). Escalation whose entry 255 of the EDT and code descriptor are good writes its frame to the escalation area and goes
to PL0, with GM and ESC set, on the area's own stack; it locks the sequencer with cause 1 where escalation runs already, and with
cause 2 where the entry cannot be read. -/
def Sys2Proof.Machine.LimitsLockAndEscalate : Prop :=
  ∀ (s : State) (q : Fin 16), s.TablesOk →
    ((s.seqs[q.val]).wdogEn = true → (s.seqs[q.val]).st = 1 → (s.seqs[q.val]).loads = [] →
      (s.seqs[q.val]).held = .nothing ∨ (s.seqs[q.val]).held = .operand → islandUp s (islSQ q) = true →
      Gives (.watchdogExpiry q) s (fun t => Locked (modSeq s q (fun x => { x with wdogExp := true })) t q 3)) ∧
    (∀ b c, AtBoundary s q b c →
      let k := bankOf s q b
      let y := getCtx s c
      let x : Exc := Exc.plain 0x0B 0 k.pc 0 none
      (¬Masked y k ∨ y.maskq.toNat < (s.seqs[q.val]).masklim.active.toNat * 2000 → Gives (.maskOverrun q) s (fun t => t = s)) ∧
      (Masked y k → (s.seqs[q.val]).masklim.active.toNat * 2000 ≤ y.maskq.toNat →
      (k.lo.stat.esc = true → Gives (.maskOverrun q) s (fun t => Locked s t q 4)) ∧
      (k.lo.stat.esc = false → k.lo.stat.wt = true ∨ y.fdepth = 4 ∨ (k.lo.stat.gm = true ∧ k.lo.stat.pl = 0) →
        Gives (.maskOverrun q) s (fun t => ∃ a, { a with ctxs := s.ctxs } = s ∧ CtxBecomes s a c { y with maskq := 0 } ∧
          t = modSeq (escalate a q b c x 0x06 false) q (fun z => { z with open_ := [], held := .nothing }))) ∧
      (k.lo.stat.esc = false → k.lo.stat.wt = false → y.fdepth.toNat < 4 → k.lo.stat.gm = true → k.lo.stat.pl ≠ 0 →
        y.fppend = false → y.defer = false → y.bopend = false → fpCond k.lo.fcsr = false →
        Gives (.maskOverrun q) s (fun t => ∃ a, { a with ctxs := s.ctxs } = s ∧ CtxBecomes s a c { y with maskq := 0 } ∧
          t = modSeq (enterExc a q b c x false) q (fun z => { z with open_ := [], held := .nothing }))) ∧
      (k.lo.stat.gm = true → k.lo.stat.pl ≠ 0 → itemsMay y k → y.fppend = false → fpCond k.lo.fcsr = true → y.fpRaised = false →
        Gives (.maskOverrun q) s (fun t => ∃ a, { a with ctxs := s.ctxs } = s ∧ CtxBecomes s a c { y with fpRaised := true } ∧
          t = modSeq (enterExc a q b c (Exc.plain 0x06 2 k.pc 0 none) true) q (fun z => { z with open_ := [], held := .nothing }))))) ∧
    ∀ (b : Fin 8) (c : Nat) (x : Exc) (cause : Nat) (item : Bool),
      let k := bankOf s q b
      let sp := onDieBase + 0x100000 * q.val
      (k.lo.stat.esc = true → cause ≠ 6 → Locked s (escalate s q b c x cause item) q 1) ∧
      (k.lo.stat.esc = false → readPriv s q (k.edtb.toNat + 8160) 32 = none → Locked s (escalate s q b c x cause item) q 2) ∧
      (k.lo.stat.esc = false → ∀ (e d : Nat) (a : State), readPriv s q (k.edtb.toNat + 8160) 32 = some e →
        readPriv s q (e / 2 ^ 64 % 2 ^ 57) 32 = some d → e.testBit 51 = true → descOk (BitVec.ofNat 256 d) = true →
        dV (BitVec.ofNat 256 d) = true → dX (BitVec.ofNat 256 d) = true → dPlmax (BitVec.ofNat 256 d) = 0 →
        s.upset = [] → gaWrite s (.seq q true) (sp + 0xFF000) (frameBytes k x 0xFF cause x.code) = (a, none) →
        let t := escalate s q b c x cause item
        let k' := bankOf t q b
        t.mem = a.mem ∧ k'.pc = BitVec.ofNat 64 (e % 2 ^ 48) ∧ k'.lo.stat = { k.lo.stat with pl := 0, gm := true, esc := true, ld := 0 } ∧
          k'.lo.vstart = 0 ∧ k'.lo.segs[1] = BitVec.ofNat 256 d ∧ dBase k'.lo.segs[2] = sp + 0xFF080 ∧ dLimit k'.lo.segs[2] = 0xF7F ∧
          (∀ n : Fin 16, k'.lo.g[n.val] = if n = 15 then 0xF80 else k.lo.g[n.val]) ∧ k'.lo.wins = k.lo.wins ∧ k'.up = k.up ∧
          (getCtx t c).escShadow = k.lo.stat.pl ∧ (getCtx t c).frameItem[4] = item ∧ (getCtx t c).frameSrc[4] = x.src ∧
          (getCtx t c).fdepth = (getCtx s c).fdepth)

/-- R293, R342 to R346, R392, R394: interrupts, the watchdog, the mask limit, and escalation.
Rests also on log entry 76, the model's choice. -/
def Obligations.InterruptsLimitsAndEscalation : Prop := InterruptsAreTaken ∧ LimitsLockAndEscalate

/-! ## Streams -/

namespace Sys2Proof.Machine

/-- The 64-bit word of memory at an address. -/
def wordAt (s : State) (ga : Nat) : Nat := natOf ((List.range 8).map (fun i => rdByte s (ga + i)))

/-- The GA of an element of an operand without an index (R66). -/
def elementGa (t : Stream) (d i : Nat) : Nat :=
  (((dBase (strmSeg t (sdSeg d)) : Int) + sdBase d + (i : Int) * sdStride d) % (2 ^ 57 : Int)).toNat

/-- An element of an input lies apart from every element that the output reaches, or the output coincides exactly with that input
(R47). -/
def Apart (t : Stream) (d i : Nat) : Prop :=
  let at_ := fun (d j : Nat) => (dBase (strmSeg t (sdSeg d)) : Int) + sdBase d + (j : Int) * sdStride d
  let o := t.out.toNat
  (strmSeg t (sdSeg d) = strmSeg t (sdSeg o) ∧ sdBase d = sdBase o ∧ sdStride d = sdStride o ∧ sdBitoff d = sdBitoff o) ∨
    ∀ j, t.start ≤ j → j < t.n → at_ o j + tySize (sdType o) ≤ at_ d i ∨ at_ d i + tySize (sdType d) ≤ at_ o j

/-- An operand of an integer type without mask or index (R63, R64); its BITOFF is zero, as R63 requires of a type that is not b1. -/
def PlainOperand (d ty : Nat) : Prop :=
  sdEn d = true ∧ sdType d = ty ∧ sdIdx d = false ∧ sdMsk d = false ∧ sdMode d = 0 ∧ sdBitoff d = 0

/-- A context after an event (R313): READY where it waits for it. -/
def wokenBy (on : BitVec 4) (x : Ctx) : Ctx :=
  if x.st = .wait ∧ x.waiton = on ∧ x.dying = false then { x with st := .ready, waiton := 0 } else x

/-- The other entries of a pipe's table, the other pipes, the contexts and memory are as before. -/
structure OnlyEntry (s t : State) (p : Fin 8) (e : Fin 64) : Prop where
  entries : ∀ f, f ≠ e → getStream t p f = getStream s p f
  pipes : ∀ k : Fin 8, k ≠ p → t.pipes[k.val] = s.pipes[k.val]
  memory : t.mem = s.mem ∧ t.poison = s.poison
  jobs : t.ctxs = s.ctxs

end Sys2Proof.Machine

/-- R60, R62, R66, R72, R78, R313, R501, R502: the first waiting STRM, guaranteed before best-effort, gets an entry, one of 48 if it is best-effort, and
its context is READY; the block of an issued stream is checked: the stream is ready, or has ended where no element is left, or has
ended with the check's sub-code, or, where a word of the block could not be read, with Memory Uncorrectable; and the first ready stream takes a free
partition, or that of the last active one at a strip boundary. -/
def Sys2Proof.Machine.StreamsAreGrantedAndStarted : Prop :=
  ∀ (s : State) (p : Fin 8), s.TablesOk → pipeRuns s p = true →
    (∀ w e, firstWait s (s.pipes[p.val]).waiting = some w → freeEntry s p w.be = some e →
      w ∈ (s.pipes[p.val]).waiting ∧ (w.be = true → e.val < 48 ∧ ∀ v ∈ (s.pipes[p.val]).waiting, v.be = true) ∧ getStream s p e = none ∧
      Gives (.streamTableGrant p) s (fun t =>
        (∃ u, getStream t p e = some u ∧ u.phase = .held ∧ u.ctx = w.ctx) ∧ (t.pipes[p.val]).waiting = (s.pipes[p.val]).waiting.erase w ∧
        (∀ f, f ≠ e → getStream t p f = getStream s p f) ∧
        CtxBecomes s t w.ctx (wokenBy 3 (getCtx s w.ctx)) ∧ t.mem = s.mem)) ∧
    (∀ (e : Fin 64) (u : Stream), getStream s p e = some u → u.phase = .issued →
      (u.bad = none → issueFail s u u.start u.cur.wcount = none → Gives (.streamStart p e) s (fun t =>
        t = setStream s p e (some { u with phase := if u.start = u.n then .ended else .ready }))) ∧
      (∀ f, u.bad = none → issueFail s u u.start u.cur.wcount = some f → Gives (.streamStart p e) s (fun t =>
        t = setStream s p e (some { u with phase := .ended, fault := some (strmFault u.start 5 f.sub f.faddr f.opnd f.step) }))) ∧
      (∀ g, u.bad = some g → Gives (.streamStart p e) s (fun t => ∃ ga ≤ g,
        t = setStream s p e (some { u with phase := .ended, fault := some (strmFault u.start 0x0D 0 ga 0 0) })))) ∧
    ∀ (e : Fin 64) (u : Stream), (readyList s p).head? = some (e, u) →
      getStream s p e = some u ∧ u.phase = .ready ∧ u.cancel = false ∧
      (∀ k, freePart s p = some k → (∀ (f : Fin 64) (v : Stream), getStream s p f = some v → v.phase ≠ .active k) ∧
        Gives (.streamActivate p e) s (fun t => t = setStream s p e (some { u with phase := .active k }))) ∧
      (∀ (f : Fin 64) (v : Stream), freePart s p = none → (strmList s p isActive).getLast? = some (f, v) →
        (strmBefore s (strmKey u) (strmKey v) = true → atBoundary v = true → Gives (.streamActivate p e) s (fun t =>
          getStream t p e = some { u with phase := v.phase } ∧ getStream t p f = some { v with phase := .ready } ∧
          ∀ g, g ≠ e → g ≠ f → getStream t p g = getStream s p g)) ∧
        (strmBefore s (strmKey u) (strmKey v) = false ∨ atBoundary v = false → Gives (.streamActivate p e) s (fun t => t = s)))

/-- R47, R66, R83, R106, R112, R115: an element of a stream whose chain is one integer operation of an ALU on the inputs A and B, with no
mask and no index, whose inputs are read intact and lie apart from the output or coincide with it, and whose output is mapped, is
taken in with the operation's result on the two elements at base + i × stride, to be written, in the type's bytes, to its place in
the output. -/
def Sys2Proof.Machine.ElementsOfAStream : Prop :=
  ∀ (s : State) (p : Fin 8) (t : Stream) (i : Nat) (x : ChainStep) (r : Nat),
    chainOf t = [x] → x.unit ≤ 1 → x.op ∈ [1, 2, 3, 4, 5, 6, 9, 10, 11, 12] → x.ty < 8 → x.s1 = 1 → x.s2 = 2 → x.s3 = 0 → x.wmask = false →
    PlainOperand t.a.toNat x.ty → PlainOperand t.b.toNat x.ty → PlainOperand t.out.toNat x.ty →
    let z := tySize x.ty
    let ra := gaRead s (.pipe p) (elementGa t t.a.toNat i) z
    let rb := gaRead s (.pipe p) (elementGa t t.b.toNat i) z
    t.lines = [] → t.lost = [] → readClean ra = true → readClean rb = true → firstUnmapped s (.pipe p) (elementGa t t.out.toNat i) z = none →
    Apart t t.a.toNat i → Apart t t.b.toNat i →
    aluElement x.op (tyW x.ty) (decide (x.ty < 4)) (natOf ra.bytes) (natOf rb.bytes) = some r →
    ∃ q, elemPre s p t i t.cur = .ok (q, t.cur, none) ∧
      elemPost s p t q = .ok { t with els := t.els ++
        [⟨i, t.cur.wcount, t.cur.result, t.cur.carry, some ⟨elementGa t t.out.toNat i, bytesOf r z, none, true⟩⟩] }

/-- R47, R60, R62, R66, R72, R78, R83, R106, R112, R115, R313, R501, R502: a stream is granted an entry and starts, and each element has its address, its checks and its index.
Rests also on log entries 10, 65, 90, 130, 131, 144, the model's choices. -/
def Obligations.StreamsStartAndReachTheirElements : Prop := StreamsAreGrantedAndStarted ∧ ElementsOfAStream

/-- R70, R78, R79, R85, R86, R91, R155 to R157, R159: a wave takes the first active stream in order on to the next multiple of its wave's
elements, or to a fault, and makes nothing visible; no stream reads more than RA_STRIPS strips ahead of its first uncommitted one. A strip that
has been worked through commits: its writes are made in order, with free values where
an element overlaps an input otherwise than exactly (R47), the elements are committed up to its end or to the fault, where the stream ends; what
was read ahead stays, unless the stream must stop there. A directory operation of the first stream that waits retires,
and its result is kept; it has no effect where its element meets a fault elsewhere, or where its request was answered with an error; where DR does
not serve it the stream stops and the directory it would update is SUSPECT. -/
def Sys2Proof.Machine.StreamsWorkInWavesAndStrips : Prop :=
  ∀ (s : State) (p : Fin 8), s.TablesOk →
    (∀ (found : List (BitVec 57 × CodeWord)) (e : Fin 64) (u : Stream),
      let a := found.foldl (fun a x => meetError a (.pipe p) x.1.toNat x.2) s
      pipeWorks s p = true → waveList s p ≠ [] → (waveList a p).head? = some (e, u) → 0 < chainE a u →
      isActive u = true ∧ u.next < u.n ∧ u.next / 512 ≤ u.com / 512 + (s.pipes[p.val]).ra.toNat ∧ Gives (.streamWave ⟨p, found⟩) s (fun t => OnlyEntry a t p e ∧
        (t.pipes[p.val]).busy = (s.pipes[p.val]).busy + 1 ∧ ∃ v, getStream t p e = some v ∧ v.com = u.com ∧ v.saved = u.saved ∧ v.n = u.n ∧
          v.phase = u.phase ∧ (v.fault = none → v.next = min u.n ((u.next / chainE a u + 1) * chainE a u)))) ∧
    (∀ (e : Fin 64) (u : Stream) (a : State), getStream s p e = some u → stripDone u = true → noneHeld s →
      let cut := stripCut u
      let l := settledEls s p u cut
      let ends := (∃ f, u.fault = some f ∧ f.elem = cut) ∨ cut = u.n
      cut ≤ u.n ∧ (∀ f, u.fault = some f → cut ≤ f.elem) ∧
      (putEls (stripSlots (drawn s) p u l) p u l = (a, none) → Gives (.stripCommit p e) s (fun t => t.mem = a.mem ∧ t.poison = a.poison ∧
        t.ctxs = s.ctxs ∧ (∀ f, f ≠ e → getStream t p f = getStream s p f) ∧ ∃ v, getStream t p e = some v ∧ v.com = cut ∧ v.n = u.n ∧
          v.be = (u.be || u.demoted) ∧ v.phase = (if ends then .ended else u.phase) ∧
          (ends ∨ mustStop s p e u = false → v.next = max cut u.next ∧ v.fault = u.fault ∧
            v.els = u.els.filter (fun x => decide (cut ≤ x.i)) ∧ v.notes = u.notes.filter (fun x => decide (cut ≤ x.i)) ∧
            v.leaves = u.leaves.filter (fun x => decide (cut ≤ x.1)) ∧
            (u.next = cut → u.recs = [] → (∀ x ∈ u.els, x.i < cut) → v.saved = v.cur)) ∧
          (¬ends → mustStop s p e u = true → v.next = cut ∧ v.fault = none ∧ v.cur = v.saved ∧ v.els = [] ∧ v.notes = [] ∧ v.leaves = []))) ∧
      ∀ g, putEls (stripSlots (drawn s) p u l) p u l = (a, some g) → Gives (.stripCommit p e) s (fun t => t.mem = a.mem ∧ ∃ v, getStream t p e = some v ∧
        v.com = g.elem ∧ v.fault = some g ∧ v.phase = .ended ∧ v.saved = v.cur ∧
        (∀ h, strmUpdates u = some h → (getDir s h).st = .ready → (getDir t h).st = .suspect))) ∧
    ∀ (e : Fin 64) (u : Stream) (x : ChainStep), noneHeld s →
      ((strmList s p isActive).filter (fun y => !(unserved y.2).isEmpty && keysWhole y.2)).head? = some (e, u) → (chainOf u).find? isDirStep = some x →
      let turn := dirTurn u x
      let w := dirGroup s (immHandle x.imm) x.op (immVar x.imm) u.depth u.rm.toNat
        (decide (srcType u (chainOf u) (dirAt (chainOf u)) x.s2 = some 3))
        (turn.map (fun r => (⟨r.i, (r.dir.getD (0, 0)).1, (r.dir.getD (0, 0)).2⟩ : DirEl)))
      turn ≠ [] ∧
      (u.drLost = true ∨ (∃ g ∈ u.lost, inDirs g = true) → Gives (.dirOpRetire p) s (fun t => t.mem = s.mem ∧ t.dir = s.dir ∧
        ∃ v, getStream t p e = some v ∧ v.dirRec = u.dirRec ∧ v.updated = u.updated ∧ v.fault.isSome = true)) ∧
      (u.drLost = false → (∀ g ∈ u.lost, inDirs g = false) →
      (dirCut s p u x [] turn = (turn, none) → dirServed s = true → w.bad = none → Gives (.dirOpRetire p) s (fun t => t.mem = w.st.mem ∧
        t.dir = w.st.dir ∧
        (∀ f, f ≠ e → getStream t p f = getStream w.st p f) ∧ ∃ v, getStream t p e = some v ∧ v.com = u.com ∧
          v.dirRec.map (·.i) = u.dirRec.map (·.i) ++ turn.map (·.i) ∧
          (∀ r ∈ turn, ∀ y, (w.res.find? (fun z => decide (z.1 = r.i))).map (·.2) = some y → ∃ d ∈ v.dirRec, d.i = r.i ∧ d.v.val = y) ∧
          v.updated.map (·.val) = if dirUpdates x.op then some (immHandle x.imm % 1024) else u.updated.map (·.val))) ∧
      (∀ f, dirCut s p u x [] turn = ([], some f) → Gives (.dirOpRetire p) s (fun t => t.mem = s.mem ∧ t.dir = s.dir ∧
        ∃ v, getStream t p e = some v ∧ v.dirRec = u.dirRec ∧ v.updated = u.updated ∧ v.fault.isSome = true)) ∧
      (dirServed s = false → x.op ≠ 0x12 → Gives (.dirOpRetire p) s (fun t => t.mem = s.mem ∧
        (dirUpdates x.op = true → (getDir s (immHandle x.imm)).st = .ready → (getDir t (immHandle x.imm)).st = .suspect) ∧
        ∃ v, getStream t p e = some v ∧ v.dirRec = u.dirRec ∧ v.fault.isSome = true)))

/-- R60, R61, R74 to R76, R79, R503: a stream that has ended, or was cancelled at a strip boundary, writes its status area and the fix-up entries of its
issue to the block, leaves the table, and completes its ticket. R92, R157: a lane that fails for the first time is served by the
first free spare, and the active streams go back to their first uncommitted strip; with no spare they end with Memory
Uncorrectable, which voids their jobs and makes the directories they updated SUSPECT, and each register-form operation in flight gives its
context a deferred Memory Uncorrectable (R421); a spare that fails passes its lane on. -/
def Sys2Proof.Machine.StreamsEndAndLanesFail : Prop :=
  ∀ (s : State) (p : Fin 8), s.TablesOk → s.MemOk → islandUp s (islPP p) = true →
    (∀ (e : Fin 64) (u : Stream), getStream s p e = some u → endDue u = true → noneHeld s → u.lost = [] → PlainFor s (.pipe p) (u.blk + 0x100) 576 →
      u.saved.fix.length ≤ u.saved.fixn → u.saved.fixn ≤ 64 → (∀ f, u.fault = some f → f.code = 0x0D → f.faddr = 0) →
      Gives (.streamEnd p e) s (fun t =>
        let f := u.fault
        let lo := u.blk + 0x140 + 8 * (u.saved.fixn - u.saved.fix.length)
        wordAt t (u.blk + 0x100) = u.com % 2 ^ 64 ∧ wordAt t (u.blk + 0x108) = strmWcount u % 2 ^ 64 ∧
        wordAt t (u.blk + 0x110) = u.saved.result % 2 ^ 64 ∧ wordAt t (u.blk + 0x118) = u.saved.carry % 2 ^ 64 ∧
        wordAt t (u.blk + 0x120) = (match f with | some x => x.code.toNat + x.sub.toNat * 2 ^ 8 | none => 0) +
          2 ^ 16 * u.saved.fixn + (if u.saved.fixovf then 2 ^ 23 else 0) + 2 ^ 24 * u.saved.flags.toNat ∧
        wordAt t (u.blk + 0x128) = (match f with | some x => x.faddr.toNat | none => 0) ∧
        wordAt t (u.blk + 0x130) = (match f with | some x => x.opnd.toNat + x.step.toNat * 2 ^ 8 | none => 0) ∧
        (∀ j < u.saved.fix.length, wordAt t (lo + 8 * j) = (u.saved.fix[j]?.getD 0).toNat) ∧
        (∀ k, (k < u.blk + 0x100 ∨ u.blk + 0x140 ≤ k) → (k < lo ∨ u.blk + 0x140 + 8 * u.saved.fixn ≤ k) → rdByte t k = rdByte s k) ∧
        getStream t p e = none ∧ (∀ g, g ≠ e → getStream t p g = getStream s p g) ∧
        (t.pipes[p.val]).strmCnt = satInc (s.pipes[p.val]).strmCnt ∧
        (t.pipes[p.val]).sfaultCnt = (if f.isSome then satInc (s.pipes[p.val]).sfaultCnt else (s.pipes[p.val]).sfaultCnt) ∧
        ((getCtx s u.ctx).st ≠ .free → let k := (getCtx t u.ctx).tickets[u.slot.val]
          k.done = true ∧ k.out = ((getCtx s u.ctx).tickets[u.slot.val]).out ∧ k.wcount = BitVec.ofNat 41 (strmWcount u) ∧
          ((∃ x, f = some x ∧ x.code = 0x0D) → (getCtx t u.ctx).void = true)) ∧
        ∀ d, d ≠ u.ctx → getCtx t d = getCtx s d)) ∧
    (∀ lane : Fin 66, let x := s.pipes[p.val]
      let noted := fun (t : State) => ∀ k < 64, (t.pipes[p.val]).laneFail.getLsbD k = (x.laneFail.getLsbD k || decide (k = lane.val))
      let rewound := fun (t : State) => ∀ (e : Fin 64) (u : Stream), getStream s p e = some u →
        getStream t p e = some (if isActive u then
          { u with next := u.com, cur := u.saved, recs := [], els := [], notes := [], leaves := [], lines := [], fault := none } else u)
      (lane.val < 64 → x.laneFail.getLsbD lane.val = true → Gives (.pipeLaneFail p lane) s (fun t => t = s)) ∧
      (lane.val < 64 → x.laneFail.getLsbD lane.val = false →
        let sp : Spare := { lane := BitVec.ofNat 6 lane.val, used := true, fail := false }
        (x.sp0.used = false → x.sp0.fail = false → Gives (.pipeLaneFail p lane) s (fun t =>
          noted t ∧ rewound t ∧ (t.pipes[p.val]).sp0 = sp ∧ (t.pipes[p.val]).sp1 = x.sp1 ∧ t.pwr.epoch = s.pwr.epoch + 1 ∧ t.mem = s.mem)) ∧
        (x.sp0.used = true ∨ x.sp0.fail = true → x.sp1.used = false → x.sp1.fail = false → Gives (.pipeLaneFail p lane) s (fun t =>
          noted t ∧ rewound t ∧ (t.pipes[p.val]).sp1 = sp ∧ (t.pipes[p.val]).sp0 = x.sp0 ∧ t.pwr.epoch = s.pwr.epoch + 1 ∧ t.mem = s.mem)) ∧
        (x.sp0.used = true ∨ x.sp0.fail = true → x.sp1.used = true ∨ x.sp1.fail = true →
          (∀ q : Fin 16, ∀ l ∈ (s.seqs[q.val]).loads, l.failed = none) → Gives (.pipeLaneFail p lane) s (fun t =>
          noted t ∧ (∀ (e : Fin 64) (u : Stream), getStream s p e = some u → isActive u = true →
            (∃ v, getStream t p e = some v ∧ v.phase = .ended ∧ v.com = u.com ∧ v.fault = some (strmFault u.com 0x0D 0 0 0 0)) ∧
            ((getCtx s u.ctx).st ≠ .free → (getCtx t u.ctx).void = true) ∧
            ∀ h, u.updated = some h → (getDir s h.val).st = .ready → (getDir t h.val).st = .suspect) ∧
          (∀ q : Fin 16, pipeOf q = p → (t.seqs[q.val]).fq = [] ∧ ∀ o ∈ (s.seqs[q.val]).fq, ∀ c, (bankOf s q o.bank).occ = some c →
            (getCtx s c).st ≠ .free → (getCtx t c).defer = true ∧ (getCtx t c).void = true) ∧ t.mem = s.mem))) ∧
      (64 ≤ lane.val → x.sp0.used = decide (lane.val = 64) → x.sp1.used = decide (lane.val = 65) →
        (if lane.val = 64 then x.sp1 else x.sp0).fail = false → Gives (.pipeLaneFail p lane) s (fun t =>
          let from_ := if lane.val = 64 then x.sp0 else x.sp1
          let onto := if lane.val = 64 then (t.pipes[p.val]).sp1 else (t.pipes[p.val]).sp0
          rewound t ∧ onto = { lane := from_.lane, used := true, fail := false } ∧
          (if lane.val = 64 then (t.pipes[p.val]).sp0 else (t.pipes[p.val]).sp1) = { from_ with fail := true, used := false } ∧
          t.pwr.epoch = s.pwr.epoch + 1 ∧ t.mem = s.mem)) ∧
      (64 ≤ lane.val → (if lane.val = 64 then x.sp0 else x.sp1).used = false → Gives (.pipeLaneFail p lane) s (fun t =>
        (if lane.val = 64 then (t.pipes[p.val]).sp0 else (t.pipes[p.val]).sp1) =
          { (if lane.val = 64 then x.sp0 else x.sp1) with fail := true } ∧ t.ctxs = s.ctxs ∧ t.mem = s.mem)))

/-- R60, R61, R70, R74 to R79, R85, R91, R92, R155 to R157, R503: waves, strips, directory operations, the end of a stream, and lane failures.
Rests also on log entries 10, 82, 83, 90, 130, 142, 143, the model's choices. -/
def Obligations.StreamsWorkAndEnd : Prop := StreamsWorkInWavesAndStrips ∧ StreamsEndAndLanesFail

/-! ## Memories -/

namespace Sys2Proof.Machine

/-- Requests of a list that wait for a pseudo-channel, of one class. -/
def waitingOn (l : List LmReq) (pc : Nat) (p : LmReq → Bool) : Nat := (l.filter (fun r => p r && decide (lmPc r.ga = pc))).length

/-- A controller's fields change, and nothing else. -/
def LmcOnly (s t : State) (n : Fin 12) : Prop := { t with lmcs := vmod t.lmcs n (fun _ => s.lmcs[n.val]) } = s

/-- Bit p of a 6-bit field is set to v, the others stay. -/
def BitBecomes (a b : BitVec 6) (p : Fin 6) (v : Bool) : Prop := ∀ k < 6, b.getLsbD k = if k = p.val then v else a.getLsbD k

/-- The other ports, the jobs and memory are as before. -/
structure OnlyPort (s t : State) (p : Fin 6) : Prop where
  ports : ∀ k : Fin 6, k ≠ p → t.xpts[k.val] = s.xpts[k.val]
  memory : t.mem = s.mem ∧ t.poison = s.poison
  jobs : t.ctxs = s.ctxs
  sets : t.map.sets = s.map.sets
  qual : t.glb.qual = (t.glb.fmenum && (List.finRange 6).all (fun k => !t.map.portEn.getLsbD k.val || decide (2 ≤ (t.xpts[k.val]).qstate.toNat)))

/-- An enumeration found a link of a supported mode (R38). -/
def linkMode (r : Enumeration) : Bool :=
  (decide (r.speed.val = 3 ∧ r.flit = true) || decide ((r.speed.val = 1 ∨ r.speed.val = 2) ∧ r.flit = false)) &&
    decide (r.width.val = 4 ∨ r.width.val = 8 ∨ r.width.val = 16)

/-- An enumeration found a link of a supported mode, and one expander directly or several behind a switch (R38, R39). -/
def usable (r : Enumeration) : Bool := r.trained && linkMode r && (decide (r.count.val = 1) || (r.switch && decide (1 < r.count.val)) )

/-- A byte of memory that the frame below excepts. -/
def Outside (s t : State) (lo n : Nat) : Prop :=
  { t with mem := s.mem, poison := s.poison } = s ∧ ∀ k, (k < lo ∨ lo + n ≤ k) → rdByte t k = rdByte s k ∧ (k ∈ t.poison ↔ k ∈ s.poison)

/-- A place whose memory answers and whose unit is not poisoned, of the module's own codes (R51, R52). -/
def ReadsClean (s : State) (p : Place) : Prop := poisoned s p = false ∧ errorAt s p = false ∧ p.region ≠ .host

/-- A port is withdrawn (R41, R43): its requests fail, those that are outstanding among them, PERST_XP# is asserted, it is not qualified and runs
no qualification. -/
structure Withdrawn (s t : State) (p : Fin 6) : Prop where
  en : BitBecomes s.map.portEn t.map.portEn p false
  perst : s.map.portEn.getLsbD p.val = true → BitBecomes s.pwr.perstXp t.pwr.perstXp p true
  qualified : s.map.portEn.getLsbD p.val = true → (t.xpts[p.val]).qualified = false ∧ (t.xpts[p.val]).qstart = false ∧ (t.xpts[p.val]).cur = 0
  capacity : (t.xpts[p.val]).capG = (s.xpts[p.val]).capG
  requests : s.map.portEn.getLsbD p.val = true → ∀ r, ¬HeldAt t (islXP p) r ∧
    (HeldAt s (islXP p) r → Msg.rsp (srcIsl r.t) (xTag r.t) 1 false [] ∈ t.out ∨ ⟨islXP p, r.t, 1, false, []⟩ ∈ t.fab.rsps)
  loads : s.map.portEn.getLsbD p.val = true → ∀ q : Fin 16, ∀ l ∈ (t.seqs[q.val]).loads, l.failed = none → behindPort s p l.ga l.len = none
  stores : s.map.portEn.getLsbD p.val = true → ∀ q : Fin 16, (s.seqs[q.val]).sb.length ≤ 8 →
    ∀ e ∈ (t.seqs[q.val]).sb, e.sent = true → behindPort s p e.ga e.bytes.length = none

/-- No load and no store of a sequencer is outstanding to a port. -/
def PortIdle (s : State) (p : Fin 6) : Prop :=
  ∀ q : Fin 16, (∀ l ∈ (s.seqs[q.val]).loads, behindPort s p l.ga l.len = none) ∧
    ∀ e ∈ (s.seqs[q.val]).sb, e.sent = true → behindPort s p e.ga e.bytes.length = none

end Sys2Proof.Machine

/-- R31: an LM address maps to a stack, a pseudo-channel, a bank, a row and a granule column by the formulas of the rule. Below the
populated top the mapping is a bijection: no two addresses share all of them and the byte of the granule, and every bank of the LX7300-MA holds
32,768 rows of it, every bank of the LX7300-ML 21,845 or 21,846. Bank conflicts depend on the pseudo-channel and the bank alone. -/
def Obligations.LocalMemoryAddresses : Prop :=
  (∀ a : Nat,
    let q := a / 256 / 12
    let k := a / 256 % 12
    let nib := fun (x i : Nat) => x / 16 ^ i % 16
    let fs := nib q 0 ^^^ nib q 1 ^^^ nib q 2 ^^^ nib q 3 ^^^ nib q 4 ^^^ nib q 5 ^^^ nib q 6
    let pc := (q % 32) ^^^ (q / 32 % 32) ^^^ (q / 1024 % 32)
    let u := q / 32
    let row := u / 4 / 48
    let fb := (row % 64) ^^^ (row / 64 % 64)
    let bank := (u / 4 % 48 + fb) % 48
    lmPlace a = ((k + fs) % 12, pc, bank, row) ∧ lmCol a = u % 4 ∧ lmGlobalPc a = 32 * ((k + fs) % 12) + pc ∧
    (∀ b, lmBank a = lmBank b ↔ (lmPlace b).2.1 = pc ∧ (lmPlace b).2.2.1 = bank)) ∧
  ∀ s : State,
    (∀ a, a < 2 ^ 30 * lmTopG s → ∀ b, b < 2 ^ 30 * lmTopG s → lmPlace a = lmPlace b → lmCol a = lmCol b → a % 256 = b % 256 → a = b) ∧
    (∀ a, a < 2 ^ 30 * lmTopG s → (lmPlace a).1 < 12 ∧ (lmPlace a).2.1 < 32 ∧ (lmPlace a).2.2.1 < 48 ∧
      (lmPlace a).2.2.2 < (if s.ml then 21846 else 32768) ∧ a / 256 / 12 < (if s.ml then 134217728 else 201326592)) ∧
    (∀ stack < 12, ∀ pc < 32, ∀ bank < 48, ∀ row < (if s.ml then 21845 else 32768), ∀ col < 4, ∀ byte < 256,
      ∃ a, a < 2 ^ 30 * lmTopG s ∧ lmPlace a = (stack, pc, bank, row) ∧ lmCol a = col ∧ a % 256 = byte)

/-- R33 to R35, R37, R51 to R54, R419, R453: a frame serves up to 800 guaranteed eighth-slots of a pseudo-channel and gives best-effort
requests the rest, 120 and what maintenance has left of its 80, aged ones first, then those that hit a row; a read counts what it
corrects and queues it, and poisons what it cannot; a corrected sector is written back in a maintenance slot; patrol scrub reads, in
such a slot, the next sector of its stack and counts what it finds; a row is retired by a repair, or else by a spare row, the last of
which degrades the stack; training, with log entry 26 for the number of repairs; and the stack's temperature above 85 °C.
Rests also on log entries 26, 48, 72, the model's choices. -/
def Obligations.LocalMemoryIsKept : Prop :=
  ∀ (s : State) (n : Fin 12), s.TablesOk → let x := s.lmcs[n.val]
    (∀ (room : Nat → Nat) (l : List LmReq) r, pickReq room x.rows l = some r → r ∈ l ∧ 0 < room (lmPc r.ga) ∧
      (r.guaranteed = false → r.aged = false → ∀ w ∈ l, 0 < room (lmPc w.ga) →
        w.guaranteed = false ∧ w.aged = false ∧ (rowHit x.rows w = true → rowHit x.rows r = true))) ∧
    (∀ (m : Master) (ga : Nat) (p : Place), place s m ga = some p → p.region = .lm → (lmPlace p.key).1 = n.val → ReadsClean s p →
      s.upset = [] → meetError s m ga .clean = s ∧
      (LmcOnly s (meetError s m ga .corrected) n ∧ (meetError s m ga .corrected).lmcs[n.val] =
        { x with ce := satInc x.ce, correct := x.correct ++ [unitOf p] }) ∧
      let t := meetError s m ga .uncorrectable
      unitOf p ∈ t.poison ∧ (∀ k, k ≠ unitOf p → (k ∈ t.poison ↔ k ∈ s.poison)) ∧ { t with poison := s.poison } = s) ∧
    (∀ i r, x.waiting[i]? = some r → Gives (.lmBeAging n i) s (fun t => LmcOnly s t n ∧
      t.lmcs[n.val] = { x with waiting := x.waiting.set i (if r.guaranteed then r else { r with aged := true }) })) ∧
    (lmcRuns s n = true →
      Gives (.lmFrameStart n) s (fun t => LmcOnly s t n ∧ ∃ y, t.lmcs[n.val] = y ∧ { y with slotG := x.slotG, used := x.used, waiting := x.waiting, rows := x.rows, maint := x.maint } = x ∧ y.maint = [] ∧
        y.slotG.toNat = min 3200 ((x.used + 7) / 8) ∧
        (∀ pc, let g := waitingOn x.waiting pc (·.guaranteed)
          let copies := match x.retire with | some r => decide (r.pc.val = pc) | none => false
          let room := 800 - min 800 g + 120 + (if copies then 0 else 80 - tget 0 x.maint pc - Config.refreshSlots x.therm)
          waitingOn y.waiting pc (·.guaranteed) = g - 800 ∧
          waitingOn y.waiting pc (fun r => !r.guaranteed) = waitingOn x.waiting pc (fun r => !r.guaranteed) - room ∧
          waitingOn y.waiting pc (fun r => !r.guaranteed && r.aged) = waitingOn x.waiting pc (fun r => !r.guaranteed && r.aged) - room) ∧
        y.used + (y.waiting.filter (·.guaranteed)).length = (x.waiting.filter (·.guaranteed)).length ∧ (∀ r ∈ y.waiting, r ∈ x.waiting)) ∧
      (x.correct = [] → Gives (.lmCorrectedWriteback n) s (fun t => t = s)) ∧
      (∀ ga l, x.correct = ga :: l →
        let used := tget 0 x.maint (lmPc ga)
        (used < 80 → Gives (.lmCorrectedWriteback n) s (fun t => LmcOnly s t n ∧
          t.lmcs[n.val] = { x with correct := l, maint := tset 0 x.maint (lmPc ga) (used + 1) })) ∧
        (80 ≤ used → Gives (.lmCorrectedWriteback n) s (fun t => t = s))) ∧
      (x.scrub.active.en = true →
        let group := if x.scrubSec.toNat < 8 then x.scrubPos.toNat else if x.scrubPos.toNat + 1 < stackGroups s then x.scrubPos.toNat + 1 else 0
        let sec := if x.scrubSec.toNat < 8 then x.scrubSec.toNat else 0
        ∃ ga, (lmPlace ga).1 = n.val ∧ ga / 3072 = group ∧ ga % 256 = 32 * sec ∧
        let used := tget 0 x.maint (lmPc ga)
        let same := fun (y : Lmc) => { y with scrubPos := x.scrubPos, scrubSec := x.scrubSec, maint := x.maint }
        let unmet := tget .clean s.upset ga
        ∀ found : CodeWord,
          (80 ≤ used → Gives (.lmPatrolScrub n found) s (fun t => t = s)) ∧
          (used < 80 → Gives (.lmPatrolScrub n found) s (fun t => ∃ y, t.lmcs[n.val] = y ∧
            y.scrubPos = BitVec.ofNat 28 group ∧ y.scrubSec = BitVec.ofNat 4 (sec + 1) ∧ y.maint = tset 0 x.maint (lmPc ga) (used + 1) ∧
            (found = .clean → unmet = .clean → ga ∉ s.poison → LmcOnly s t n ∧ same y = x) ∧
            (found ≠ .uncorrectable → unmet ≠ .uncorrectable → found = .corrected ∨ unmet = .corrected → ga ∉ s.poison →
              LmcOnly { s with upset := t.upset } t n ∧ same y = { x with ce := satInc x.ce, correct := x.correct ++ [ga] }) ∧
            (found = .uncorrectable ∨ unmet = .uncorrectable ∨ ga ∈ s.poison → ga ∈ t.poison ∧ (∀ k, k ≠ ga → (k ∈ t.poison ↔ k ∈ s.poison)) ∧ t.mem = s.mem ∧
              same y = { x with ue := satInc x.ue, ueAddr := BitVec.ofNat 57 ga })))) ∧
      (∀ (pc : Fin 32) (bank : Fin 48) (row : Nat), x.retire = none → row < 32768 →
        (x.repairs < Config.repairRows → Gives (.lmRowRetireStart n pc bank row) s (fun t => LmcOnly s t n ∧
          t.lmcs[n.val] = { x with retire := some ⟨pc, bank, row, false⟩, repairs := x.repairs + 1 })) ∧
        (Config.repairRows ≤ x.repairs → x.spareFree ≠ 0 → Gives (.lmRowRetireStart n pc bank row) s (fun t =>
          (x.spareFree ≠ 1 → LmcOnly s t n) ∧ t.mem = s.mem ∧
          t.lmcs[n.val] = { x with retire := some ⟨pc, bank, row, true⟩, spareFree := x.spareFree - 1, spareUsed := x.spareUsed + 1,
                                   degraded := x.degraded || decide (x.spareFree = 1) }))) ∧
      (∀ r, x.retire = some r → Gives (.lmRowRetireSwitch n) s (fun t => t.mem = s.mem ∧ t.pwr.epoch = s.pwr.epoch + 1 ∧
        t.lmcs[n.val] = { x with retire := none, retired := x.retired ++ [r] }))) ∧
    (∀ tenths : BitVec 16, islandUp s (islLM n) = true → Gives (.lmStackTempChange n tenths) s (fun t =>
      t.lmcs[n.val] = { x with therm := decide (850 < tenths.toInt) } ∧ t.mem = s.mem)) ∧
    (s.pwr.core = true → s.lmcs.all (·.trained) = false → (∀ k : Fin 12, islandUp s (islLM k) = true) → Gives .lmTrainingComplete s (fun t =>
      (∀ k : Fin 12, t.lmcs[k.val] = { s.lmcs[k.val] with trained := true }) ∧ t.pwr = { s.pwr with perstXp := s.pwr.perstXp ||| s.pwr.prsntXp } ∧
      t.glb.fmenum = (s.glb.fmenum || decide (t.pwr.perstXp = 0)) ∧ { t with lmcs := s.lmcs, pwr := s.pwr, glb := s.glb } = s))

/-- R38, R39, R41, R43 to R45, R492, R494: an FM link that goes down, reports viral, or retrains below its speed or width withdraws its port;
the flit mode follows the speed;
qualification writes to the port's mapped capacity and nowhere else, counts its steps up to 15 while the largest latency is at most
1.2 µs, and the port is qualified from step 1 on; after PERST_XP# a port is enabled if its link is of a supported mode and leads to one
expander, or to several behind a switch, with at most 32 TiB, and recorded otherwise; a presence pulse of
1 µs or less is filtered; an expander that is inserted has its PERST_XP# asserted once LM is trained.
Rests also on log entries 25, 133, the model's choices. -/
def Obligations.FarMemoryPortsComeAndGo : Prop :=
  ∀ (s : State) (p : Fin 6), s.MemOk → let x := s.xpts[p.val]
    let idle := s.map.portEn.getLsbD p.val = false ∨ PortIdle s p
    (∀ l, Outside s (loadWrites s p l) (fmBase p.val) (fmCap s p.val)) ∧
    (∀ (a : Nat) (v : BitVec 512), a % 64 = 0 → a + 64 ≤ fmCap s p.val → ∀ k, fmBase p.val ≤ k → k < fmBase p.val + fmCap s p.val →
      rdByte (loadWrites s p [(a, v)]) k = if fmBase p.val + a ≤ k ∧ k < fmBase p.val + a + 64 then
        BitVec.ofNat 8 (v.toNat / 2 ^ (8 * (k - (fmBase p.val + a))) % 256) else rdByte s k) ∧
    (islandUp s (islXP p) = true →
      (x.up = true →
        (∀ c : Instr, c = .fmLinkDown p .down ∨ c = .fmViral p → Gives c s (fun t => (idle → OnlyPort s t p) ∧ Withdrawn s t p ∧
          (t.xpts[p.val]).up = false ∧ (t.xpts[p.val]).speed = 0 ∧ (t.xpts[p.val]).width = 0)) ∧
        (∀ v : Fin 4, v.val < x.speed.toNat → Gives (.fmLinkDown p (.speed v)) s (fun t => (idle → OnlyPort s t p) ∧ Withdrawn s t p ∧
          (t.xpts[p.val]).up = true ∧ (t.xpts[p.val]).speed = BitVec.ofNat 3 v.val ∧ (t.xpts[p.val]).flit = if v.val = 3 then 1 else 0)) ∧
        (∀ v : Fin 4, x.speed.toNat ≤ v.val → Gives (.fmLinkDown p (.speed v)) s (fun t =>
          t = modXpt s p (fun y => { y with speed := BitVec.ofNat 3 v.val, flit := if v.val = 3 then 1 else 0 }))) ∧
        (∀ v : Fin 17, v.val < x.width.toNat → Gives (.fmLinkDown p (.width v)) s (fun t => (idle → OnlyPort s t p) ∧ Withdrawn s t p ∧
          (t.xpts[p.val]).up = true ∧ (t.xpts[p.val]).width = BitVec.ofNat 5 v.val)) ∧
        (∀ v : Fin 17, x.width.toNat ≤ v.val → Gives (.fmLinkDown p (.width v)) s (fun t =>
          t = modXpt s p (fun y => { y with width := BitVec.ofNat 5 v.val })))) ∧
      (s.map.portEn.getLsbD p.val = true → x.qstart = false → (hdr s (.xpt p)).held = false → Gives (.xptQualStart p) s (fun t => OnlyPort s t p ∧
        t.xpts[p.val] = { x with qstart := true, qstate := 1, cur := 1, mon := 0 } ∧ t.map = s.map)) ∧
      (x.qstart = true → ∀ (ns : BitVec 16) (l : List (Nat × BitVec 512)),
        let a := loadWrites s p l
        let ends := fun (step : Nat) (lat : BitVec 16) => Gives (.fmQualStepEnd p ⟨ns, l⟩) s (fun t => OnlyPort a t p ∧ t.map = s.map ∧
          t.xpts[p.val] = { x with step := BitVec.ofNat 4 step, lat := lat, qualified := decide (1 ≤ step), qstate := 2, qstart := false, cur := 0 })
        (1200 < ns.toNat → ends (x.cur.toNat - 1) x.mon) ∧
        (ns.toNat ≤ 1200 → x.cur = 15 → ends 15 ns) ∧
        (ns.toNat ≤ 1200 → x.cur ≠ 15 → Gives (.fmQualStepEnd p ⟨ns, l⟩) s (fun t => t = modXpt a p (fun y => { y with cur := y.cur + 1, mon := ns })))) ∧
      (s.pwr.perstXp.getLsbD p.val = true → ∀ r : Enumeration, Gives (.perstXpEnd p r) s (fun t => OnlyPort s t p ∧
        BitBecomes s.pwr.perstXp t.pwr.perstXp p false ∧
        BitBecomes s.map.portEn t.map.portEn p (usable r) ∧ (t.xpts[p.val]).up = r.trained ∧
        (t.xpts[p.val]).capG = (if usable r then BitVec.ofNat 16 (min 32768 r.capGiB) else x.capG) ∧
        (r.trained = true → 1 ≤ r.count.val → usable r = false → r.rejected = none → r.capGiB ≤ 32768 →
          t.evr = (offer s 0x0215 sevWarning (1 + p.val) p.val 0 (if linkMode r then 3 else 2)).evr) ∧
        (t.xpts[p.val]).count = (if usable r then BitVec.ofNat 5 r.count.val else 0) ∧
        t.glb.fmenum = (s.glb.fmenum || (s.lmcs.all (·.trained) && decide (t.pwr.perstXp = 0)))))) ∧
    (islandUp s (islXP p) = false → s.pwr.perstXp.getLsbD p.val = true → ∀ r : Enumeration, Gives (.perstXpEnd p r) s (fun t =>
      BitBecomes s.pwr.perstXp t.pwr.perstXp p false ∧ t.map = s.map ∧ t.xpts = s.xpts)) ∧
    (s.pwr.prsntXp.getLsbD p.val = true → ∀ ns : Nat,
      (ns ≤ 1000 → Gives (.prsntXpRemoval p ns) s (fun t => t = s)) ∧
      (1000 < ns → Gives (.prsntXpRemoval p ns) s (fun t => (idle → OnlyPort s t p) ∧ Withdrawn s t p ∧
        BitBecomes s.pwr.prsntXp t.pwr.prsntXp p false ∧ (t.xpts[p.val]).up = false))) ∧
    (s.pwr.prsntXp.getLsbD p.val = false → Gives (.prsntXpInsert p) s (fun t =>
      BitBecomes s.pwr.prsntXp t.pwr.prsntXp p true ∧
      (s.pwr.core = true → s.lmcs.all (·.trained) = true → BitBecomes s.pwr.perstXp t.pwr.perstXp p true) ∧
      (s.pwr.core = false ∨ s.lmcs.all (·.trained) = false → t.pwr.perstXp = s.pwr.perstXp) ∧
      (s.pwr.core = true → (s.pwr.islands[(islXP p).val]).st ≠ .run →
        t.pwr.islands[(islXP p).val] = { s.pwr.islands[(islXP p).val] with req := .run, waking := true }) ∧
      { t with pwr := s.pwr } = s))

namespace Sys2Proof.Machine

/-- The GA of an offset in a scratchpad (R27). -/
def padGa (sp : Fin 16) (off : Nat) : Nat := 0xF00000000000 + 0x100000 * sp.val + off

/-- An access of n bytes from an offset lies in one line of 64 bytes of a bank, of which each line has one (R407). -/
def InBank (bank : Fin 16) (off n : Nat) : Prop := 0 < n ∧ off / 64 = (off + n - 1) / 64 ∧ off / 64 % 16 = bank.val

/-- Memory after a write of bytes at an address, as seen by reads of one byte. -/
def BytesAt (s t : State) (ga : Nat) (bs : List Byte) : Prop :=
  ∀ k, rdByte t k = if ga ≤ k ∧ k < ga + bs.length then (bs[k - ga]?).getD 0 else rdByte s k

end Sys2Proof.Machine

/-- R407 to R409, R414 to R416, R419, R434: in one cycle of a scratchpad's bank, port A writes up to 8 bytes and port B answers what was there before,
or writes up to 64; where both write one 32-bit word, port A's write stands, port B's is dropped, counted and answered COLLIDED, and
is sent again until the fourth answer, which is an error and a record; a read that meets a poisoned word is answered with the POISON
mark (R433); corrected words of a memory are written back; scrub reads
the next word and counts what it finds; a remap is a repair.
Rests also on log entries 137, 138, the model's choices. -/
def Obligations.OnDieMemoriesAreKept : Prop :=
  ∀ s : State, s.MemOk → s.TablesOk → s.upset = [] →
    (∀ (sp bank : Fin 16), islandUp s (islSQ sp) = true →
      (∀ (off : Fin 1048576) (bs : List Byte), InBank bank off.val bs.length → bs.length ≤ 8 → PlainFor s (ownMaster s sp) (padGa sp off.val) bs.length →
        (Gives (.scratchpadBankCycle sp bank (some (.write off bs)) none) s (fun t =>
          BytesAt s t (padGa sp off.val) bs ∧ { t with mem := s.mem, poison := s.poison, lms := { t.lms with answers := s.lms.answers, mems := s.lms.mems } } = s)) ∧
        (∀ (o : Fin 1048576) (m : Fin 65), InBank bank o.val m.val → PlainFor s .mgmt (padGa sp o.val) m.val →
          Gives (.scratchpadBankCycle sp bank (some (.write off bs)) (some (.read o m []))) s (fun t =>
            BytesAt s t (padGa sp off.val) bs ∧ { t with mem := s.mem, poison := s.poison, lms := { t.lms with answers := s.lms.answers, mems := s.lms.mems } } = { s with
              out := s.out ++ [.rsp (islSQ sp) 0 0 false ((List.range m.val).map (fun i => rdByte s (padGa sp o.val + i)))] })) ∧
        (∀ (o : Fin 1048576) (cs : List Byte), InBank bank o.val cs.length → cs.length ≤ 64 →
          (∃ w, off.val / 4 ≤ w ∧ w ≤ (off.val + bs.length - 1) / 4 ∧ o.val / 4 ≤ w ∧ w ≤ (o.val + cs.length - 1) / 4) →
          (∀ e ∈ s.lms.resend, e.1 = sp → e.2.1 ≠ o.val) →
          Gives (.scratchpadBankCycle sp bank (some (.write off bs)) (some (.write o cs))) s (fun t =>
            BytesAt s t (padGa sp off.val) bs ∧ t.out = s.out ++ [.rsp (islSQ sp) 0 2 false []] ∧ t.lms.resend = s.lms.resend ++ [(sp, o.val, cs, 1)] ∧
            (∀ k, tget 0 t.lms.coll k = if k = 16 * sp.val + bank.val then satInc (tget 0 s.lms.coll k) else tget 0 s.lms.coll k))) ∧
        ∀ (o : Fin 1048576) (cs : List Byte), InBank bank o.val cs.length → cs.length ≤ 64 →
          (∃ w, off.val / 4 ≤ w ∧ w ≤ (off.val + bs.length - 1) / 4 ∧ o.val / 4 ≤ w ∧ w ≤ (o.val + cs.length - 1) / 4) →
          s.lms.resend.find? (fun e => decide (e.1 = sp) && decide (e.2.1 = o.val) && decide (e.2.2.1 = cs)) = some (sp, o.val, cs, 3) →
          Gives (.scratchpadBankCycle sp bank (some (.write off bs)) (some (.write o cs))) s (fun t =>
            BytesAt s t (padGa sp off.val) bs ∧ t.out = s.out ++ [.rsp (islSQ sp) 0 2 false [], .fwError] ∧
            t.evr = (offer s 0x0304 2 33 sp.val o.val 0).evr ∧ ∀ e ∈ t.lms.resend, ¬(e.1 = sp ∧ e.2.1 = o.val ∧ e.2.2.1 = cs))) ∧
      ∀ (o : Fin 1048576) (cs : List Byte), InBank bank o.val cs.length → cs.length ≤ 64 → PlainFor s .mgmt (padGa sp o.val) cs.length →
        Gives (.scratchpadBankCycle sp bank none (some (.write o cs))) s (fun t => BytesAt s t (padGa sp o.val) cs ∧
          t.out = s.out ++ [.rsp (islSQ sp) 0 0 false []] ∧ ∀ e ∈ t.lms.resend, ¬(e.1 = sp ∧ e.2.1 = o.val ∧ e.2.2.1 = cs))) ∧
    (∀ (sp bank : Fin 16) (o : Fin 1048576) (m : Fin 65) (found : List (BitVec 57 × CodeWord)), islandUp s (islSQ sp) = true →
      InBank bank o.val m.val → PlainFor s .mgmt (padGa sp o.val) m.val →
      let a := meetErrors s .mgmt (padGa sp o.val) m.val found
      let r := gaRead a .mgmt (padGa sp o.val) m.val
      Gives (.scratchpadBankCycle sp bank none (some (.read o m found))) s (fun t => t.mem = s.mem ∧ t.poison = a.poison ∧
        t.out = s.out ++ [.rsp (islSQ sp) 0 0 r.poison.isSome r.bytes])) ∧
    ∀ m : Fin 27, islandUp s (memIsland m.val) = true →
      let x := getMem s m.val
      let others := fun (t : State) => ∀ k, k ≠ m.val → getMem t k = getMem s k
      (∀ (g : Master) (ga : Nat) (p : Place), place s g ga = some p → memIndex p.region = some m.val → ReadsClean s p →
        meetError s g ga .clean = s ∧
        (getMem (meetError s g ga .corrected) m.val = { x with ce := satInc x.ce, correct := x.correct ++ [unitOf p] } ∧
          others (meetError s g ga .corrected)) ∧
        unitOf p ∈ (meetError s g ga .uncorrectable).poison ∧ { meetError s g ga .uncorrectable with poison := s.poison } = s) ∧
      Gives (.sramCorrectedWriteback m) s (fun t => getMem t m.val = { x with correct := x.correct.drop 1 } ∧ others t ∧
        { t with lms := { t.lms with mems := s.lms.mems } } = s) ∧
      Gives (.sramRedundancyRemap m) s (fun t => t = { s with pwr := { s.pwr with epoch := s.pwr.epoch + 1 } }) ∧
      (s.lms.scrub.active.en = true → (hdr s .lms).en = true → (hdr s .lms).held = false → ∀ found : CodeWord,
        let key := memBase m.val + 4 * x.scrubPos
        let next := if x.scrubPos + 1 < memWords m.val then x.scrubPos + 1 else 0
        (found = .clean → key ∉ s.poison → Gives (.sramScrub m found) s (fun t => getMem t m.val = { x with scrubPos := next } ∧ others t ∧
          { t with lms := { t.lms with mems := s.lms.mems } } = s)) ∧
        (found = .corrected → key ∉ s.poison → Gives (.sramScrub m found) s (fun t =>
          getMem t m.val = { x with scrubPos := next, ce := satInc x.ce, correct := x.correct ++ [key] } ∧ others t ∧
          { t with lms := { t.lms with mems := s.lms.mems } } = s)) ∧
        (found = .uncorrectable ∨ key ∈ s.poison → Gives (.sramScrub m found) s (fun t =>
          getMem t m.val = { x with scrubPos := next, ue := satInc x.ue, ueAddr := BitVec.ofNat 32 (memOffset m.val key) } ∧ others t ∧
          key ∈ t.poison ∧ (∀ k, k ≠ key → (k ∈ t.poison ↔ k ∈ s.poison)) ∧ t.mem = s.mem)))

/-! ## The fabric -/

namespace Sys2Proof.Machine

/-- The credits of a channel (R430). -/
def creditsOf (ch : Fin 4) : Nat := if ch.val < 2 then 8 else if ch.val = 2 then 16 else 2

/-- The fabric's state without its credits. -/
def AsideCredits (s t : State) : Prop := { t with fab := { t.fab with credits := s.fab.credits } } = s

/-- The channel of a response, and its credits (R430). -/
def rspCh (r : FabRsp) : Fin 4 := if xQos r.t = 15 then 3 else 2
def rspCredit (r : FabRsp) : Nat := creditKey r.src (srcIsl r.t) 0 (rspCh r)

/-- A response goes out with a credit for each of its beats, or waits where its channel has none or another waits for it (R430). -/
def Answers (a t : State) (r : FabRsp) : Prop :=
  { t.fab with credits := a.fab.credits, rsps := a.fab.rsps } = a.fab ∧
  if tget 0 a.fab.credits (rspCredit r) < creditsOf (rspCh r) ∧ ∀ y ∈ a.fab.rsps, rspCredit y ≠ rspCredit r then
    t.out = a.out ++ [.rsp (srcIsl r.t) (xTag r.t) r.rstat r.poisoned r.bytes] ∧ t.fab.rsps = a.fab.rsps ∧
    ∀ j, tget 0 t.fab.credits j = if j = rspCredit r then
      min (creditsOf (rspCh r)) (tget 0 a.fab.credits j + 1 + (r.bytes.length + 63) / 64) else tget 0 a.fab.credits j
  else t.out = a.out ∧ t.fab.rsps = a.fab.rsps ++ [r] ∧ t.fab.credits = a.fab.credits

/-- What a sender of the tables of R422 and R430 sends: a QoS of the table, on the channel that carries it. -/
def SentAsTabled (x : Crossing) : Prop :=
  x.xvc.val = (if xQos x = 15 then 3 else if 2 < xOp x then 2 else if 12 ≤ xQos x then 0 else 1) ∧
  (xOp x ≤ 2 → xQos x ≠ 2 ∧ xQos x ≠ 3 ∧ (xQos x = 0 → xSrc x = 33) ∧
    (xSrc x = 33 → xQos x = 15 ∨ xQos x = 1 ∨ xQos x = 0) ∧ (xSrc x = 32 → xQos x = 14) ∧ (1 ≤ xSrc x → xSrc x < 19 → xQos x = 1))

/-- A request waits at its target port, or is held back behind an earlier write of its master to the same line, or its FENCE (R428). -/
def Entered (s t : State) (isl : Fin 34) (r : FabReq) : Prop :=
  if holdsBack (pendingWrites s isl) r.t then
    tget [] t.fab.held isl.val = tget [] s.fab.held isl.val ++ [r] ∧ t.fab.ports = s.fab.ports
  else
    portOf t isl (targetPort isl r.t) = portOf s isl (targetPort isl r.t) ++ [r] ∧ t.fab.held = s.fab.held ∧
      ∀ k, k ≠ portKey isl (targetPort isl r.t) → tget [] t.fab.ports k = tget [] s.fab.ports k

/-- A byte that a READ answers with: of memory, or of the record or half that the state of a context holds (R297, R302). -/
def servedByte (s : State) (ga : Nat) : Byte := if inStore ga then storeByte s ga else rdByte s ga

/-- What the grant of a request does (R36, R425, R433): a READ is answered with its bytes, and the POISON mark where a unit of them is
poisoned; a WRITE stores them, but one of the DAU or the CSC to the context store writes what the state of the context holds; and a
WRITE or a FENCE waits for its acknowledgement. -/
structure Served (a t : State) (isl : Fin 34) (r : FabReq) : Prop where
  read : xOp r.t = 0 → PlainFor a (xMemMaster r.t) (xGa r.t) (xLen r.t) → t.mem = a.mem ∧
    Answers a t ⟨isl, r.t, 0, false, (List.range (xLen r.t)).map (fun i => servedByte a (xGa r.t + i))⟩
  poison : xOp r.t = 0 → ∀ g, (gaRead a (xMemMaster r.t) (xGa r.t) (xLen r.t)).poison = some g → t.mem = a.mem ∧
    ∃ bs, Answers a t ⟨isl, r.t, 0, true, bs⟩
  write : xOp r.t = 1 → t.out = a.out ∧ tget [] t.fab.unacked isl.val = tget [] a.fab.unacked isl.val ++ [r] ∧
    if (xMemMaster r.t = .dau ∨ xMemMaster r.t = .csc) ∧ inStore (xGa r.t) = true then t.mem = a.mem else BytesAt a t (xGa r.t) r.t.data
  fence : xOp r.t = 2 → t.mem = a.mem ∧ t.out = a.out ∧ tget [] t.fab.unacked isl.val = tget [] a.fab.unacked isl.val ++ [r]

/-- A transaction that is not delivered is counted, and a request answered with an error (R16). -/
structure Undelivered (s a : State) (dst : Fin 34) (link : Fin 256) (x : Crossing) : Prop where
  ue : (tget 0 a.fab.ue dst.val).toNat = min ((tget 0 s.fab.ue dst.val).toNat + 1) (2 ^ 32 - 1)
  ports : a.fab.ports = s.fab.ports ∧ a.fab.held = s.fab.held
  out : ∃ b : State, b.out = s.out ∧ b.fab.rsps = s.fab.rsps ∧
    (∀ j, tget 0 b.fab.credits j = if j = creditKey (srcIsl x) dst link x.xvc then
      min (creditsOf x.xvc) (tget 0 s.fab.credits j + (1 + (x.data.length + 63) / 64)) else tget 0 s.fab.credits j) ∧
    if xOp x ≤ 2 then Answers b a ⟨dst, x, 1, false, []⟩ else a.out = b.out ∧ a.fab.rsps = b.fab.rsps ∧ a.fab.credits = b.fab.credits
  rest : a.mem = s.mem ∧ a.ctxs = s.ctxs ∧ a.seqs = s.seqs ∧ a.pipes = s.pipes ∧ a.rqe = s.rqe ∧ a.evr = s.evr

/-- A request whose bytes its island serves and answers, whole words of it (R36, R433). -/
def PlainRequest (s : State) (isl : Fin 34) (r : FabReq) : Prop :=
  xOp r.t ≤ 2 ∧ (xOp r.t ≠ 2 → xServed s isl (xMemMaster r.t) r.t = true ∧ PlainFor s (xMemMaster r.t) (xGa r.t) (xLen r.t)) ∧
    (xOp r.t = 1 → r.t.data.length = xLen r.t ∧ ∀ i < 32, r.t.w4.getLsbD i = true)

end Sys2Proof.Machine

/-- R13, R15, R16, R35, R422 to R428, R430, R431, R433, and for the block on floor grants log entry 27: a crossing accepts a transaction while its
channel has a credit, one a beat, and its master has fewer than 64 requests outstanding at its port, and counts the words it corrects;
one with a double error or a reserved header is dropped, counted and answered with an error, and a double error is an uncorrectable
memory error for the job whose access it was, which the model knows from the transaction (log entry 47) and meets where the access stands (log
entry 137); a transaction that no table of R422 or R430 gives is not sent; a request enters its port or is held back. Credits return; a reset of the links restores
them, and answers what the island held with an error. A port
grants the highest QoS; below QoS 12 a request ages up to 11, and a floor grant takes the oldest where none of QoS 15 waits. An
acknowledged write or FENCE is answered, a FENCE once every earlier write of its master is, and what it held back enters its port. A response
waits for a credit of its channel (R430).
Rests also on log entries 27, 47, 134, 135, 137, 146, the model's choices. -/
def Obligations.TheFabricCarriesTransactions : Prop :=
  ∀ s : State, s.TablesOk → s.MemOk →
    (∀ (dst : Fin 34) (link : Fin 256) (x : Crossing),
      let k := creditKey (srcIsl x) dst link x.xvc
      let used := tget 0 s.fab.credits k
      let room := xOp x ≤ 2 → outstandingAt s dst x < 64
      (creditsOf x.xvc ≤ used ∨ ¬room ∨ xSendable s x = false → Gives (.crossingTransactionReceive dst link x) s (fun t => t = s)) ∧
      (xSendable s x = true → x.double = false → xReserved x = false → SentAsTabled x) ∧
      (used < creditsOf x.xvc → room → xSendable s x = true → islandUp s dst = false → Gives (.crossingTransactionReceive dst link x) s (fun t =>
        if xOp x ≤ 2 then Answers s t ⟨dst, x, 1, false, []⟩ ∧ { t with out := s.out, fab := s.fab } = s else t = s)) ∧
      (used < creditsOf x.xvc → room → xSendable s x = true → islandUp s dst = true →
        (x.double = false → xReserved x = false → xOp x ≤ 2 → Gives (.crossingTransactionReceive dst link x) s (fun t =>
          Entered s t dst ⟨x, BitVec.ofNat 4 (xQos x), 0⟩ ∧ t.out = s.out ∧ t.mem = s.mem ∧
          (∀ j, tget 0 t.fab.credits j = if j = k then min (creditsOf x.xvc) (used + (1 + (x.data.length + 63) / 64)) else tget 0 s.fab.credits j) ∧
          (tget 0 t.fab.ce dst.val).toNat = min ((tget 0 s.fab.ce dst.val).toNat + x.singles) (2 ^ 32 - 1) ∧ t.fab.ue = s.fab.ue)) ∧
        (x.double = false → xReserved x = true → Gives (.crossingTransactionReceive dst link x) s (fun t => Undelivered s t dst link x)) ∧
        (x.double = true → Gives (.crossingTransactionReceive dst link x) s (fun t => ∃ a, Undelivered s a dst link x ∧
          t = offer (failOwner a x) 0x0302 3 dst.val dst.val (srcIsl x).val x.xvc.val ∧ (x.own = none → failOwner a x = a) ∧
          ∀ w ga b o, x.own = some (w, ga) → waitFails a w ga.toNat 0x0302 = some (b, o) → failOwner a x = b)))) ∧
    (∀ (src dst : Fin 34) (link : Fin 256) (ch : Fin 4), 
      let now := fun (j : Nat) => tget 0 s.fab.credits j - if j = creditKey src dst link ch then 1 else 0
      (s.fab.rsps = [] → Gives (.crossingCreditReturn src dst link ch) s (fun t => AsideCredits s t ∧ ∀ j, tget 0 t.fab.credits j = now j)) ∧
      ∀ r, s.fab.rsps = [r] → Gives (.crossingCreditReturn src dst link ch) s (fun t => ∃ a : State, AsideCredits { s with fab := { s.fab with rsps := [] } } a ∧
        (∀ j, tget 0 a.fab.credits j = now j) ∧ Answers a t r ∧ { t with out := s.out, fab := s.fab } = s)) ∧
    (∀ isl : Fin 34, Gives (.xrstN isl) s (fun t =>
      (∀ (other : Fin 34) (link : Fin 256) (ch : Fin 4), tget 0 t.fab.credits (creditKey isl other link ch) = 0 ∧
        tget 0 t.fab.credits (creditKey other isl link ch) = 0) ∧
      (∀ port < 64, portOf t isl port = []) ∧ tget [] t.fab.held isl.val = [] ∧ tget [] t.fab.unacked isl.val = [] ∧
      (∀ (o : Fin 34) (port : Nat), port < 64 → o ≠ isl → portOf t o port = portOf s o port) ∧
      (∀ r, HeldAt s isl r → Msg.rsp (srcIsl r.t) (xTag r.t) 1 false [] ∈ t.out) ∧
      (∀ y ∈ s.fab.rsps, y.src = isl ∨ srcIsl y.t = isl → Msg.rsp (srcIsl y.t) (xTag y.t) y.rstat y.poisoned y.bytes ∈ t.out ∧ y ∉ t.fab.rsps) ∧
      { t with out := s.out, fab := { t.fab with rsps := s.fab.rsps, credits := s.fab.credits, ports := s.fab.ports, last := s.fab.last, blocked := s.fab.blocked,
                                                 held := s.fab.held, unacked := s.fab.unacked } } = s)) ∧
    (∀ (isl : Fin 34) (port : Fin 64), let l := portOf s isl port.val
      (∀ (i : Nat) (r : FabReq), l[i]? = some r → Gives (.qosAgingStep isl port i) s (fun t =>
        portOf t isl port.val = l.set i { r with
          waited := r.waited + 1, qos := if 4 ≤ r.qos.toNat ∧ r.qos.toNat < 11 then r.qos + 1 else r.qos } ∧
        { t with fab := { t.fab with ports := s.fab.ports } } = s)) ∧
      (islandUp s isl = true → s.upset = [] → noneHeld s → let g := grantable s isl l
        g.Sublist l ∧ (¬(7 ≤ isl.val ∧ isl.val < 19) → g = l) ∧
        (7 ≤ isl.val → isl.val < 19 → g.Pairwise (fun y z => ¬(xMaster y.t = xMaster z.t ∧ xGa y.t < xGa z.t + xLen z.t ∧ xGa z.t < xGa y.t + xLen y.t))) ∧
        ∀ (r : FabReq) (found : List (BitVec 57 × CodeWord)), PlainRequest s isl r →
        let m := if xOp r.t = 0 then meetErrors s (xMemMaster r.t) (xGa r.t) (xLen r.t) found else s
        (found = [] → m = s) ∧
        (arbitrate (tget 0 s.fab.last (portKey isl port.val)) g = some r → r ∈ g ∧ (∀ q ∈ g, q.qos ≤ r.qos) ∧
          Gives (.crossbarArbitration isl ⟨port, found⟩) s (fun t => ∃ a : State, portOf a isl port.val = l.erase r ∧
            tget 0 a.fab.last (portKey isl port.val) = xMaster r.t ∧ a.fab.floorCnt = s.fab.floorCnt ∧
            { a with fab := s.fab } = m ∧ a.fab.unacked = s.fab.unacked ∧ Served a t isl r)) ∧
        ((∀ q ∈ l, q.qos ≠ 15) → tget 0 s.fab.blocked (portKey isl port.val) = 0 → g.find? (fun q => decide (q.qos.toNat < 12)) = some r →
          Gives (.floorGrant isl ⟨port, found⟩) s (fun t => ∃ a : State, portOf a isl port.val = l.erase r ∧
            (tget 0 a.fab.floorCnt isl.val).toNat = min ((tget 0 s.fab.floorCnt isl.val).toNat + 1) (2 ^ 32 - 1) ∧
            tget 0 a.fab.blocked (portKey isl port.val) = xBeats r.t * s.fab.cfg.active.floor.toNat ∧
            { a with fab := s.fab } = m ∧ a.fab.unacked = s.fab.unacked ∧ Served a t isl r))) ∧
      ((∃ q ∈ l, q.qos = 15) → ∀ found, Gives (.floorGrant isl ⟨port, found⟩) s (fun t => t = s))) ∧
    ∀ (isl : Fin 34) (tag : BitVec 12) (r : FabReq), let l := tget [] s.fab.unacked isl.val
      let pending := (∃ y ∈ l.takeWhile (fun y => y != r), xMaster y.t = xMaster r.t) ∨
        ∃ port < 64, ∃ y ∈ portOf s isl port, xOp y.t = 1 ∧ xMaster y.t = xMaster r.t
      l.find? (fun q => decide (xTag q.t = tag)) = some r →
        (xOp r.t = 2 → pending → Gives (.fabricHoldbackRelease isl tag) s (fun t => t = s)) ∧
        (xOp r.t = 1 ∨ (xOp r.t = 2 ∧ ¬pending) → Gives (.fabricHoldbackRelease isl tag) s (fun t => ∃ a : State,
          (∃ b : State, tget [] b.fab.unacked isl.val = l.erase r ∧ { b with fab := { b.fab with unacked := s.fab.unacked } } = s ∧
            Answers b a ⟨isl, r.t, 0, false, []⟩ ∧ { a with out := b.out, fab := b.fab } = b) ∧
          { t with fab := { t.fab with held := a.fab.held, ports := a.fab.ports } } = a ∧
          (tget [] s.fab.held isl.val = [] → t.fab.ports = a.fab.ports ∧ tget [] t.fab.held isl.val = []) ∧
          (∀ h, tget [] s.fab.held isl.val = [h] → ∃ z : State, { z with fab := { z.fab with held := a.fab.held } } = a ∧
            tget [] z.fab.held isl.val = [] ∧ Entered z t isl h) ∧
          ∀ h ∈ tget [] s.fab.held isl.val, h ∈ portOf t isl (targetPort isl h.t) ∨ h ∈ tget [] t.fab.held isl.val))
end

