-- ==== Sys2Proof/Laws/Exec.lean ====
section
/-! SUPPORT. The dispatch, one equation per command: exec of a command is its meaning. -/

namespace Sys2Proof.Machine

@[simp] theorem exec_jobSubmit : ∀ s, exec (.jobSubmit) s = execJobSubmit s := by
  intros; rfl
@[simp] theorem exec_jobCancel : ∀ s, exec (.jobCancel) s = execJobCancel s := by
  intros; rfl
@[simp] theorem exec_memCopy : ∀ s, exec (.memCopy) s = execMemCopy s := by
  intros; rfl
@[simp] theorem exec_memFill : ∀ s, exec (.memFill) s = execMemFill s := by
  intros; rfl
@[simp] theorem exec_programLoad : ∀ s, exec (.programLoad) s = execProgramLoad s := by
  intros; rfl
@[simp] theorem exec_segCreate : ∀ s, exec (.segCreate) s = execSegCreate s := by
  intros; rfl
@[simp] theorem exec_segDestroy : ∀ s, exec (.segDestroy) s = execSegDestroy s := by
  intros; rfl
@[simp] theorem exec_dirCreate : ∀ s, exec (.dirCreate) s = execDirCreate s := by
  intros; rfl
@[simp] theorem exec_dirCreateFillDone : ∀ h s, exec (.dirCreateFillDone h) s = execDirCreateFillDone h s := by
  intros; rfl
@[simp] theorem exec_dirDestroy : ∀ s, exec (.dirDestroy) s = execDirDestroy s := by
  intros; rfl
@[simp] theorem exec_keyInstall : ∀ s, exec (.keyInstall) s = execKeyInstall s := by
  intros; rfl
@[simp] theorem exec_doeKeyInstall : ∀ session fn entry s, exec (.doeKeyInstall session fn entry) s = execDoeKeyInstall session fn entry s := by
  intros; rfl
@[simp] theorem exec_queueCreate : ∀ s, exec (.queueCreate) s = execQueueCreate s := by
  intros; rfl
@[simp] theorem exec_queueDelete : ∀ s, exec (.queueDelete) s = execQueueDelete s := by
  intros; rfl
@[simp] theorem exec_statusRead : ∀ s, exec (.statusRead) s = execStatusRead s := by
  intros; rfl
@[simp] theorem exec_logRead : ∀ s, exec (.logRead) s = execLogRead s := by
  intros; rfl
@[simp] theorem exec_sqTailDoorbell : ∀ g value posted s, exec (.sqTailDoorbell g value posted) s = execSqTailDoorbell g value posted s := by
  intros; rfl
@[simp] theorem exec_cqHeadDoorbell : ∀ g value s, exec (.cqHeadDoorbell g value) s = execCqHeadDoorbell g value s := by
  intros; rfl
@[simp] theorem exec_rqeEntryFetch : ∀ s, exec (.rqeEntryFetch) s = execRqeEntryFetch s := by
  intros; rfl
@[simp] theorem exec_adminQueueEnable : ∀ f s, exec (.adminQueueEnable f) s = execAdminQueueEnable f s := by
  intros; rfl
@[simp] theorem exec_adminQueueDrain : ∀ f s, exec (.adminQueueDrain f) s = execAdminQueueDrain f s := by
  intros; rfl
@[simp] theorem exec_queueDrainComplete : ∀ f s, exec (.queueDrainComplete f) s = execQueueDrainComplete f s := by
  intros; rfl
@[simp] theorem exec_completionEntryWrite : ∀ s, exec (.completionEntryWrite) s = execCompletionEntryWrite s := by
  intros; rfl
@[simp] theorem exec_msixVectorUnmask : ∀ f v s, exec (.msixVectorUnmask f v) s = execMsixVectorUnmask f v s := by
  intros; rfl
@[simp] theorem exec_bar4Access : ∀ a s, exec (.bar4Access a) s = execBar4Access a s := by
  intros; rfl
@[simp] theorem exec_bar4Resize : ∀ log2GiB s, exec (.bar4Resize log2GiB) s = execBar4Resize log2GiB s := by
  intros; rfl
@[simp] theorem exec_undefinedBarRequest : ∀ r s, exec (.undefinedBarRequest r) s = execUndefinedBarRequest r s := by
  intros; rfl
@[simp] theorem exec_hostWindowCompletionTimeout : ∀ m ga s, exec (.hostWindowCompletionTimeout m ga) s = execHostWindowCompletionTimeout m ga s := by
  intros; rfl
@[simp] theorem exec_hostLinkLoss : ∀ cause s, exec (.hostLinkLoss cause) s = execHostLinkLoss cause s := by
  intros; rfl
@[simp] theorem exec_perstAssert : ∀ s, exec (.perstAssert) s = execPerstAssert s := by
  intros; rfl
@[simp] theorem exec_perstDeassert : ∀ s, exec (.perstDeassert) s = execPerstDeassert s := by
  intros; rfl
@[simp] theorem exec_hostLinkReady : ∀ speed width flit s, exec (.hostLinkReady speed width flit) s = execHostLinkReady speed width flit s := by
  intros; rfl
@[simp] theorem exec_flr : ∀ f s, exec (.flr f) s = execFlr f s := by
  intros; rfl
@[simp] theorem exec_vfDisable : ∀ s, exec (.vfDisable) s = execVfDisable s := by
  intros; rfl
@[simp] theorem exec_ideIntegrityFail : ∀ stream s, exec (.ideIntegrityFail stream) s = execIdeIntegrityFail stream s := by
  intros; rfl
@[simp] theorem exec_getVersion : ∀ s, exec (.getVersion) s = execGetVersion s := by
  intros; rfl
@[simp] theorem exec_getCapabilities : ∀ s, exec (.getCapabilities) s = execGetCapabilities s := by
  intros; rfl
@[simp] theorem exec_negotiateAlgorithms : ∀ supported s, exec (.negotiateAlgorithms supported) s = execNegotiateAlgorithms supported s := by
  intros; rfl
@[simp] theorem exec_getDigests : ∀ s, exec (.getDigests) s = execGetDigests s := by
  intros; rfl
@[simp] theorem exec_getCertificate : ∀ slot s, exec (.getCertificate slot) s = execGetCertificate slot s := by
  intros; rfl
@[simp] theorem exec_challenge : ∀ slot s, exec (.challenge slot) s = execChallenge slot s := by
  intros; rfl
@[simp] theorem exec_getMeasurements : ∀ s, exec (.getMeasurements) s = execGetMeasurements s := by
  intros; rfl
@[simp] theorem exec_keyExchange : ∀ s, exec (.keyExchange) s = execKeyExchange s := by
  intros; rfl
@[simp] theorem exec_finish : ∀ session s, exec (.finish session) s = execFinish session s := by
  intros; rfl
@[simp] theorem exec_keyUpdate : ∀ session s, exec (.keyUpdate session) s = execKeyUpdate session s := by
  intros; rfl
@[simp] theorem exec_heartbeat : ∀ session s, exec (.heartbeat session) s = execHeartbeat session s := by
  intros; rfl
@[simp] theorem exec_endSession : ∀ session s, exec (.endSession session) s = execEndSession session s := by
  intros; rfl
@[simp] theorem exec_lifecycleTransition : ∀ r s, exec (.lifecycleTransition r) s = execLifecycleTransition r s := by
  intros; rfl
@[simp] theorem exec_sidebandModuleReset : ∀ cold s, exec (.sidebandModuleReset cold) s = execSidebandModuleReset cold s := by
  intros; rfl
@[simp] theorem exec_add : ∀ u rd ra rb s, exec (.add u rd ra rb) s = execAdd u rd ra rb s := by
  intros; rfl
@[simp] theorem exec_sub : ∀ u rd ra rb s, exec (.sub u rd ra rb) s = execSub u rd ra rb s := by
  intros; rfl
@[simp] theorem exec_and : ∀ u rd ra rb s, exec (.and u rd ra rb) s = execAnd u rd ra rb s := by
  intros; rfl
@[simp] theorem exec_or : ∀ u rd ra rb s, exec (.or u rd ra rb) s = execOr u rd ra rb s := by
  intros; rfl
@[simp] theorem exec_xor : ∀ u rd ra rb s, exec (.xor u rd ra rb) s = execXor u rd ra rb s := by
  intros; rfl
@[simp] theorem exec_andn : ∀ u rd ra rb s, exec (.andn u rd ra rb) s = execAndn u rd ra rb s := by
  intros; rfl
@[simp] theorem exec_shl : ∀ u rd ra rb s, exec (.shl u rd ra rb) s = execShl u rd ra rb s := by
  intros; rfl
@[simp] theorem exec_shr : ∀ u rd ra rb s, exec (.shr u rd ra rb) s = execShr u rd ra rb s := by
  intros; rfl
@[simp] theorem exec_sra : ∀ u rd ra rb s, exec (.sra u rd ra rb) s = execSra u rd ra rb s := by
  intros; rfl
@[simp] theorem exec_min : ∀ u rd ra rb s, exec (.min u rd ra rb) s = execMin u rd ra rb s := by
  intros; rfl
@[simp] theorem exec_max : ∀ u rd ra rb s, exec (.max u rd ra rb) s = execMax u rd ra rb s := by
  intros; rfl
@[simp] theorem exec_minu : ∀ u rd ra rb s, exec (.minu u rd ra rb) s = execMinu u rd ra rb s := by
  intros; rfl
@[simp] theorem exec_maxu : ∀ u rd ra rb s, exec (.maxu u rd ra rb) s = execMaxu u rd ra rb s := by
  intros; rfl
@[simp] theorem exec_cmpeq : ∀ u rd ra rb s, exec (.cmpeq u rd ra rb) s = execCmpeq u rd ra rb s := by
  intros; rfl
@[simp] theorem exec_cmplt : ∀ u rd ra rb s, exec (.cmplt u rd ra rb) s = execCmplt u rd ra rb s := by
  intros; rfl
@[simp] theorem exec_cmpltu : ∀ u rd ra rb s, exec (.cmpltu u rd ra rb) s = execCmpltu u rd ra rb s := by
  intros; rfl
@[simp] theorem exec_clz : ∀ u rd ra s, exec (.clz u rd ra) s = execClz u rd ra s := by
  intros; rfl
@[simp] theorem exec_ctz : ∀ u rd ra s, exec (.ctz u rd ra) s = execCtz u rd ra s := by
  intros; rfl
@[simp] theorem exec_popc : ∀ u rd ra s, exec (.popc u rd ra) s = execPopc u rd ra s := by
  intros; rfl
@[simp] theorem exec_permb : ∀ u rd ra rb s, exec (.permb u rd ra rb) s = execPermb u rd ra rb s := by
  intros; rfl
@[simp] theorem exec_mul : ∀ u rd ra rb s, exec (.mul u rd ra rb) s = execMul u rd ra rb s := by
  intros; rfl
@[simp] theorem exec_mulu : ∀ u rd ra rb s, exec (.mulu u rd ra rb) s = execMulu u rd ra rb s := by
  intros; rfl
@[simp] theorem exec_mulh : ∀ u rd ra rb s, exec (.mulh u rd ra rb) s = execMulh u rd ra rb s := by
  intros; rfl
@[simp] theorem exec_mulhu : ∀ u rd ra rb s, exec (.mulhu u rd ra rb) s = execMulhu u rd ra rb s := by
  intros; rfl
@[simp] theorem exec_div : ∀ u rd ra rb s, exec (.div u rd ra rb) s = execDiv u rd ra rb s := by
  intros; rfl
@[simp] theorem exec_divu : ∀ u rd ra rb s, exec (.divu u rd ra rb) s = execDivu u rd ra rb s := by
  intros; rfl
@[simp] theorem exec_rem : ∀ u rd ra rb s, exec (.rem u rd ra rb) s = execRem u rd ra rb s := by
  intros; rfl
@[simp] theorem exec_remu : ∀ u rd ra rb s, exec (.remu u rd ra rb) s = execRemu u rd ra rb s := by
  intros; rfl
@[simp] theorem exec_muldivComplete : ∀ q s, exec (.muldivComplete q) s = execMuldivComplete q s := by
  intros; rfl
@[simp] theorem exec_addi : ∀ u rd ra imm s, exec (.addi u rd ra imm) s = execAddi u rd ra imm s := by
  intros; rfl
@[simp] theorem exec_andi : ∀ u rd ra imm s, exec (.andi u rd ra imm) s = execAndi u rd ra imm s := by
  intros; rfl
@[simp] theorem exec_ori : ∀ u rd ra imm s, exec (.ori u rd ra imm) s = execOri u rd ra imm s := by
  intros; rfl
@[simp] theorem exec_xori : ∀ u rd ra imm s, exec (.xori u rd ra imm) s = execXori u rd ra imm s := by
  intros; rfl
@[simp] theorem exec_shli : ∀ u rd ra n s, exec (.shli u rd ra n) s = execShli u rd ra n s := by
  intros; rfl
@[simp] theorem exec_shri : ∀ u rd ra n s, exec (.shri u rd ra n) s = execShri u rd ra n s := by
  intros; rfl
@[simp] theorem exec_srai : ∀ u rd ra n s, exec (.srai u rd ra n) s = execSrai u rd ra n s := by
  intros; rfl
@[simp] theorem exec_cmpeqi : ∀ u rd ra imm s, exec (.cmpeqi u rd ra imm) s = execCmpeqi u rd ra imm s := by
  intros; rfl
@[simp] theorem exec_cmplti : ∀ u rd ra imm s, exec (.cmplti u rd ra imm) s = execCmplti u rd ra imm s := by
  intros; rfl
@[simp] theorem exec_cmpltui : ∀ u rd ra imm s, exec (.cmpltui u rd ra imm) s = execCmpltui u rd ra imm s := by
  intros; rfl
@[simp] theorem exec_li : ∀ u rd imm s, exec (.li u rd imm) s = execLi u rd imm s := by
  intros; rfl
@[simp] theorem exec_lih : ∀ u rd imm s, exec (.lih u rd imm) s = execLih u rd imm s := by
  intros; rfl
@[simp] theorem exec_bfx : ∀ u rd ra lsb wm1 s, exec (.bfx u rd ra lsb wm1) s = execBfx u rd ra lsb wm1 s := by
  intros; rfl
@[simp] theorem exec_bfxs : ∀ u rd ra lsb wm1 s, exec (.bfxs u rd ra lsb wm1) s = execBfxs u rd ra lsb wm1 s := by
  intros; rfl
@[simp] theorem exec_bfi : ∀ u rd ra lsb wm1 s, exec (.bfi u rd ra lsb wm1) s = execBfi u rd ra lsb wm1 s := by
  intros; rfl
@[simp] theorem exec_mfc : ∀ u rd cr s, exec (.mfc u rd cr) s = execMfc u rd cr s := by
  intros; rfl
@[simp] theorem exec_mtc : ∀ u cr ra s, exec (.mtc u cr ra) s = execMtc u cr ra s := by
  intros; rfl
@[simp] theorem exec_ldb : ∀ u rd m s, exec (.ldb u rd m) s = execLdb u rd m s := by
  intros; rfl
@[simp] theorem exec_ldh : ∀ u rd m s, exec (.ldh u rd m) s = execLdh u rd m s := by
  intros; rfl
@[simp] theorem exec_ldw : ∀ u rd m s, exec (.ldw u rd m) s = execLdw u rd m s := by
  intros; rfl
@[simp] theorem exec_ldd : ∀ u rd m s, exec (.ldd u rd m) s = execLdd u rd m s := by
  intros; rfl
@[simp] theorem exec_ldbs : ∀ u rd m s, exec (.ldbs u rd m) s = execLdbs u rd m s := by
  intros; rfl
@[simp] theorem exec_ldhs : ∀ u rd m s, exec (.ldhs u rd m) s = execLdhs u rd m s := by
  intros; rfl
@[simp] theorem exec_ldws : ∀ u rd m s, exec (.ldws u rd m) s = execLdws u rd m s := by
  intros; rfl
@[simp] theorem exec_stb : ∀ u rd m s, exec (.stb u rd m) s = execStb u rd m s := by
  intros; rfl
@[simp] theorem exec_sth : ∀ u rd m s, exec (.sth u rd m) s = execSth u rd m s := by
  intros; rfl
@[simp] theorem exec_stw : ∀ u rd m s, exec (.stw u rd m) s = execStw u rd m s := by
  intros; rfl
@[simp] theorem exec_std : ∀ u rd m s, exec (.std u rd m) s = execStd u rd m s := by
  intros; rfl
@[simp] theorem exec_ldf : ∀ u rd m s, exec (.ldf u rd m) s = execLdf u rd m s := by
  intros; rfl
@[simp] theorem exec_ldfs : ∀ u rd m s, exec (.ldfs u rd m) s = execLdfs u rd m s := by
  intros; rfl
@[simp] theorem exec_stf : ∀ u rd m s, exec (.stf u rd m) s = execStf u rd m s := by
  intros; rfl
@[simp] theorem exec_stfs : ∀ u rd m s, exec (.stfs u rd m) s = execStfs u rd m s := by
  intros; rfl
@[simp] theorem exec_sld : ∀ u sn m s, exec (.sld u sn m) s = execSld u sn m s := by
  intros; rfl
@[simp] theorem exec_sst : ∀ u sn m s, exec (.sst u sn m) s = execSst u sn m s := by
  intros; rfl
@[simp] theorem exec_savel : ∀ u m s, exec (.savel u m) s = execSavel u m s := by
  intros; rfl
@[simp] theorem exec_saveh : ∀ u m s, exec (.saveh u m) s = execSaveh u m s := by
  intros; rfl
@[simp] theorem exec_restl : ∀ u m s, exec (.restl u m) s = execRestl u m s := by
  intros; rfl
@[simp] theorem exec_resth : ∀ u m s, exec (.resth u m) s = execResth u m s := by
  intros; rfl
@[simp] theorem exec_mfence : ∀ u s, exec (.mfence u) s = execMfence u s := by
  intros; rfl
@[simp] theorem exec_isync : ∀ u rd rb seg s, exec (.isync u rd rb seg) s = execIsync u rd rb seg s := by
  intros; rfl
@[simp] theorem exec_spillw : ∀ u s, exec (.spillw u) s = execSpillw u s := by
  intros; rfl
@[simp] theorem exec_fillw : ∀ u s, exec (.fillw u) s = execFillw u s := by
  intros; rfl
@[simp] theorem exec_br : ∀ u d s, exec (.br u d) s = execBr u d s := by
  intros; rfl
@[simp] theorem exec_beqz : ∀ u ra d s, exec (.beqz u ra d) s = execBeqz u ra d s := by
  intros; rfl
@[simp] theorem exec_bnez : ∀ u ra d s, exec (.bnez u ra d) s = execBnez u ra d s := by
  intros; rfl
@[simp] theorem exec_bltz : ∀ u ra d s, exec (.bltz u ra d) s = execBltz u ra d s := by
  intros; rfl
@[simp] theorem exec_bgez : ∀ u ra d s, exec (.bgez u ra d) s = execBgez u ra d s := by
  intros; rfl
@[simp] theorem exec_bgtz : ∀ u ra d s, exec (.bgtz u ra d) s = execBgtz u ra d s := by
  intros; rfl
@[simp] theorem exec_blez : ∀ u ra d s, exec (.blez u ra d) s = execBlez u ra d s := by
  intros; rfl
@[simp] theorem exec_jr : ∀ u ra s, exec (.jr u ra) s = execJr u ra s := by
  intros; rfl
@[simp] theorem exec_loop : ∀ u ra d s, exec (.loop u ra d) s = execLoop u ra d s := by
  intros; rfl
@[simp] theorem exec_call : ∀ u mask disp s, exec (.call u mask disp) s = execCall u mask disp s := by
  intros; rfl
@[simp] theorem exec_callr : ∀ u mask ra s, exec (.callr u mask ra) s = execCallr u mask ra s := by
  intros; rfl
@[simp] theorem exec_ret : ∀ u s, exec (.ret u) s = execRet u s := by
  intros; rfl
@[simp] theorem exec_retx : ∀ u s, exec (.retx u) s = execRetx u s := by
  intros; rfl
@[simp] theorem exec_jend : ∀ u s, exec (.jend u) s = execJend u s := by
  intros; rfl
@[simp] theorem exec_trap : ∀ u code s, exec (.trap u code) s = execTrap u code s := by
  intros; rfl
@[simp] theorem exec_brk : ∀ u s, exec (.brk u) s = execBrk u s := by
  intros; rfl
@[simp] theorem exec_strm : ∀ u rd ra seg s, exec (.strm u rd ra seg) s = execStrm u rd ra seg s := by
  intros; rfl
@[simp] theorem exec_stwait : ∀ u rd ra s, exec (.stwait u rd ra) s = execStwait u rd ra s := by
  intros; rfl
@[simp] theorem exec_sttest : ∀ u rd ra s, exec (.sttest u rd ra) s = execSttest u rd ra s := by
  intros; rfl
@[simp] theorem exec_fsync : ∀ u s, exec (.fsync u) s = execFsync u s := by
  intros; rfl
@[simp] theorem exec_vgather : ∀ u a s, exec (.vgather u a) s = execVgather u a s := by
  intros; rfl
@[simp] theorem exec_vscatter : ∀ u a s, exec (.vscatter u a) s = execVscatter u a s := by
  intros; rfl
@[simp] theorem exec_mtf : ∀ u vd va ty s, exec (.mtf u vd va ty) s = execMtf u vd va ty s := by
  intros; rfl
@[simp] theorem exec_mff : ∀ u vd va ty s, exec (.mff u vd va ty) s = execMff u vd va ty s := by
  intros; rfl
@[simp] theorem exec_vmov : ∀ u a s, exec (.vmov u a) s = execVmov u a s := by
  intros; rfl
@[simp] theorem exec_vadd : ∀ u a s, exec (.vadd u a) s = execVadd u a s := by
  intros; rfl
@[simp] theorem exec_vsub : ∀ u a s, exec (.vsub u a) s = execVsub u a s := by
  intros; rfl
@[simp] theorem exec_vaddsat : ∀ u a s, exec (.vaddsat u a) s = execVaddsat u a s := by
  intros; rfl
@[simp] theorem exec_vsubsat : ∀ u a s, exec (.vsubsat u a) s = execVsubsat u a s := by
  intros; rfl
@[simp] theorem exec_vmin : ∀ u a s, exec (.vmin u a) s = execVmin u a s := by
  intros; rfl
@[simp] theorem exec_vmax : ∀ u a s, exec (.vmax u a) s = execVmax u a s := by
  intros; rfl
@[simp] theorem exec_vabs : ∀ u a s, exec (.vabs u a) s = execVabs u a s := by
  intros; rfl
@[simp] theorem exec_vneg : ∀ u a s, exec (.vneg u a) s = execVneg u a s := by
  intros; rfl
@[simp] theorem exec_vand : ∀ u a s, exec (.vand u a) s = execVand u a s := by
  intros; rfl
@[simp] theorem exec_vor : ∀ u a s, exec (.vor u a) s = execVor u a s := by
  intros; rfl
@[simp] theorem exec_vxor : ∀ u a s, exec (.vxor u a) s = execVxor u a s := by
  intros; rfl
@[simp] theorem exec_vandn : ∀ u a s, exec (.vandn u a) s = execVandn u a s := by
  intros; rfl
@[simp] theorem exec_vnot : ∀ u a s, exec (.vnot u a) s = execVnot u a s := by
  intros; rfl
@[simp] theorem exec_vshl : ∀ u a s, exec (.vshl u a) s = execVshl u a s := by
  intros; rfl
@[simp] theorem exec_vshr : ∀ u a s, exec (.vshr u a) s = execVshr u a s := by
  intros; rfl
@[simp] theorem exec_vsra : ∀ u a s, exec (.vsra u a) s = execVsra u a s := by
  intros; rfl
@[simp] theorem exec_vshli : ∀ u a s, exec (.vshli u a) s = execVshli u a s := by
  intros; rfl
@[simp] theorem exec_vshri : ∀ u a s, exec (.vshri u a) s = execVshri u a s := by
  intros; rfl
@[simp] theorem exec_vsrai : ∀ u a s, exec (.vsrai u a) s = execVsrai u a s := by
  intros; rfl
@[simp] theorem exec_vbfx : ∀ u a s, exec (.vbfx u a) s = execVbfx u a s := by
  intros; rfl
@[simp] theorem exec_vbfxs : ∀ u a s, exec (.vbfxs u a) s = execVbfxs u a s := by
  intros; rfl
@[simp] theorem exec_vbfi : ∀ u a s, exec (.vbfi u a) s = execVbfi u a s := by
  intros; rfl
@[simp] theorem exec_vclz : ∀ u a s, exec (.vclz u a) s = execVclz u a s := by
  intros; rfl
@[simp] theorem exec_vctz : ∀ u a s, exec (.vctz u a) s = execVctz u a s := by
  intros; rfl
@[simp] theorem exec_vpopc : ∀ u a s, exec (.vpopc u a) s = execVpopc u a s := by
  intros; rfl
@[simp] theorem exec_vcmpeq : ∀ u a s, exec (.vcmpeq u a) s = execVcmpeq u a s := by
  intros; rfl
@[simp] theorem exec_vcmpne : ∀ u a s, exec (.vcmpne u a) s = execVcmpne u a s := by
  intros; rfl
@[simp] theorem exec_vcmplt : ∀ u a s, exec (.vcmplt u a) s = execVcmplt u a s := by
  intros; rfl
@[simp] theorem exec_vcmple : ∀ u a s, exec (.vcmple u a) s = execVcmple u a s := by
  intros; rfl
@[simp] theorem exec_vcmpgt : ∀ u a s, exec (.vcmpgt u a) s = execVcmpgt u a s := by
  intros; rfl
@[simp] theorem exec_vcmpge : ∀ u a s, exec (.vcmpge u a) s = execVcmpge u a s := by
  intros; rfl
@[simp] theorem exec_vcvt : ∀ u a s, exec (.vcvt u a) s = execVcvt u a s := by
  intros; rfl
@[simp] theorem exec_vcvtsat : ∀ u a s, exec (.vcvtsat u a) s = execVcvtsat u a s := by
  intros; rfl
@[simp] theorem exec_vrsum : ∀ u a s, exec (.vrsum u a) s = execVrsum u a s := by
  intros; rfl
@[simp] theorem exec_vrmin : ∀ u a s, exec (.vrmin u a) s = execVrmin u a s := by
  intros; rfl
@[simp] theorem exec_vrmax : ∀ u a s, exec (.vrmax u a) s = execVrmax u a s := by
  intros; rfl
@[simp] theorem exec_vrcnt : ∀ u a s, exec (.vrcnt u a) s = execVrcnt u a s := by
  intros; rfl
@[simp] theorem exec_vrand : ∀ u a s, exec (.vrand u a) s = execVrand u a s := by
  intros; rfl
@[simp] theorem exec_vror : ∀ u a s, exec (.vror u a) s = execVror u a s := by
  intros; rfl
@[simp] theorem exec_vrxor : ∀ u a s, exec (.vrxor u a) s = execVrxor u a s := by
  intros; rfl
@[simp] theorem exec_vssum : ∀ u a s, exec (.vssum u a) s = execVssum u a s := by
  intros; rfl
@[simp] theorem exec_vsmin : ∀ u a s, exec (.vsmin u a) s = execVsmin u a s := by
  intros; rfl
@[simp] theorem exec_vsmax : ∀ u a s, exec (.vsmax u a) s = execVsmax u a s := by
  intros; rfl
@[simp] theorem exec_vscnt : ∀ u a s, exec (.vscnt u a) s = execVscnt u a s := by
  intros; rfl
@[simp] theorem exec_vsand : ∀ u a s, exec (.vsand u a) s = execVsand u a s := by
  intros; rfl
@[simp] theorem exec_vsor : ∀ u a s, exec (.vsor u a) s = execVsor u a s := by
  intros; rfl
@[simp] theorem exec_vsxor : ∀ u a s, exec (.vsxor u a) s = execVsxor u a s := by
  intros; rfl
@[simp] theorem exec_vpsum : ∀ u a s, exec (.vpsum u a) s = execVpsum u a s := by
  intros; rfl
@[simp] theorem exec_vpsumx : ∀ u a s, exec (.vpsumx u a) s = execVpsumx u a s := by
  intros; rfl
@[simp] theorem exec_vmul : ∀ u a s, exec (.vmul u a) s = execVmul u a s := by
  intros; rfl
@[simp] theorem exec_vmulh : ∀ u a s, exec (.vmulh u a) s = execVmulh u a s := by
  intros; rfl
@[simp] theorem exec_vmulsat : ∀ u a s, exec (.vmulsat u a) s = execVmulsat u a s := by
  intros; rfl
@[simp] theorem exec_vdiv : ∀ u a s, exec (.vdiv u a) s = execVdiv u a s := by
  intros; rfl
@[simp] theorem exec_vrem : ∀ u a s, exec (.vrem u a) s = execVrem u a s := by
  intros; rfl
@[simp] theorem exec_vfdiv : ∀ u a s, exec (.vfdiv u a) s = execVfdiv u a s := by
  intros; rfl
@[simp] theorem exec_vfsqrt : ∀ u a s, exec (.vfsqrt u a) s = execVfsqrt u a s := by
  intros; rfl
@[simp] theorem exec_vfadd : ∀ u a s, exec (.vfadd u a) s = execVfadd u a s := by
  intros; rfl
@[simp] theorem exec_vfsub : ∀ u a s, exec (.vfsub u a) s = execVfsub u a s := by
  intros; rfl
@[simp] theorem exec_vfmul : ∀ u a s, exec (.vfmul u a) s = execVfmul u a s := by
  intros; rfl
@[simp] theorem exec_vfma : ∀ u a s, exec (.vfma u a) s = execVfma u a s := by
  intros; rfl
@[simp] theorem exec_vfms : ∀ u a s, exec (.vfms u a) s = execVfms u a s := by
  intros; rfl
@[simp] theorem exec_vfnma : ∀ u a s, exec (.vfnma u a) s = execVfnma u a s := by
  intros; rfl
@[simp] theorem exec_vfmin : ∀ u a s, exec (.vfmin u a) s = execVfmin u a s := by
  intros; rfl
@[simp] theorem exec_vfmax : ∀ u a s, exec (.vfmax u a) s = execVfmax u a s := by
  intros; rfl
@[simp] theorem exec_vfabs : ∀ u a s, exec (.vfabs u a) s = execVfabs u a s := by
  intros; rfl
@[simp] theorem exec_vfneg : ∀ u a s, exec (.vfneg u a) s = execVfneg u a s := by
  intros; rfl
@[simp] theorem exec_vfcmpeq : ∀ u a s, exec (.vfcmpeq u a) s = execVfcmpeq u a s := by
  intros; rfl
@[simp] theorem exec_vfcmpne : ∀ u a s, exec (.vfcmpne u a) s = execVfcmpne u a s := by
  intros; rfl
@[simp] theorem exec_vfcmplt : ∀ u a s, exec (.vfcmplt u a) s = execVfcmplt u a s := by
  intros; rfl
@[simp] theorem exec_vfcmple : ∀ u a s, exec (.vfcmple u a) s = execVfcmple u a s := by
  intros; rfl
@[simp] theorem exec_vfcmpgt : ∀ u a s, exec (.vfcmpgt u a) s = execVfcmpgt u a s := by
  intros; rfl
@[simp] theorem exec_vfcmpge : ∀ u a s, exec (.vfcmpge u a) s = execVfcmpge u a s := by
  intros; rfl
@[simp] theorem exec_vfcvt : ∀ u a s, exec (.vfcvt u a) s = execVfcvt u a s := by
  intros; rfl
@[simp] theorem exec_vfcvtz : ∀ u a s, exec (.vfcvtz u a) s = execVfcvtz u a s := by
  intros; rfl
@[simp] theorem exec_vfrsum : ∀ u a s, exec (.vfrsum u a) s = execVfrsum u a s := by
  intros; rfl
@[simp] theorem exec_vfrmin : ∀ u a s, exec (.vfrmin u a) s = execVfrmin u a s := by
  intros; rfl
@[simp] theorem exec_vfrmax : ∀ u a s, exec (.vfrmax u a) s = execVfrmax u a s := by
  intros; rfl
@[simp] theorem exec_vpermb : ∀ u a s, exec (.vpermb u a) s = execVpermb u a s := by
  intros; rfl
@[simp] theorem exec_vexpd : ∀ u a s, exec (.vexpd u a) s = execVexpd u a s := by
  intros; rfl
@[simp] theorem exec_vcmpr : ∀ u a s, exec (.vcmpr u a) s = execVcmpr u a s := by
  intros; rfl
@[simp] theorem exec_vperm : ∀ u a s, exec (.vperm u a) s = execVperm u a s := by
  intros; rfl
@[simp] theorem exec_vkpopc : ∀ u a s, exec (.vkpopc u a) s = execVkpopc u a s := by
  intros; rfl
@[simp] theorem exec_vhash : ∀ u a s, exec (.vhash u a) s = execVhash u a s := by
  intros; rfl
@[simp] theorem exec_dprobe : ∀ u a s, exec (.dprobe u a) s = execDprobe u a s := by
  intros; rfl
@[simp] theorem exec_dins : ∀ u a s, exec (.dins u a) s = execDins u a s := by
  intros; rfl
@[simp] theorem exec_dagg : ∀ u a s, exec (.dagg u a) s = execDagg u a s := by
  intros; rfl
@[simp] theorem exec_ddel : ∀ u a s, exec (.ddel u a) s = execDdel u a s := by
  intros; rfl
@[simp] theorem exec_fSlotOpComplete : ∀ q s, exec (.fSlotOpComplete q) s = execFSlotOpComplete q s := by
  intros; rfl
@[simp] theorem exec_longLoadDataArrival : ∀ q a s, exec (.longLoadDataArrival q a) s = execLongLoadDataArrival q a s := by
  intros; rfl
@[simp] theorem exec_storeBufferSend : ∀ q s, exec (.storeBufferSend q) s = execStoreBufferSend q s := by
  intros; rfl
@[simp] theorem exec_storeWriteAck : ∀ e s, exec (.storeWriteAck e) s = execStoreWriteAck e s := by
  intros; rfl
@[simp] theorem exec_portBCollidedAnswer : ∀ w s, exec (.portBCollidedAnswer w) s = execPortBCollidedAnswer w s := by
  intros; rfl
@[simp] theorem exec_ibufLineFill : ∀ q bank ga s, exec (.ibufLineFill q bank ga) s = execIbufLineFill q bank ga s := by
  intros; rfl
@[simp] theorem exec_sequencerInterruptTake : ∀ q s, exec (.sequencerInterruptTake q) s = execSequencerInterruptTake q s := by
  intros; rfl
@[simp] theorem exec_maskOverrun : ∀ q s, exec (.maskOverrun q) s = execMaskOverrun q s := by
  intros; rfl
@[simp] theorem exec_watchdogExpiry : ∀ q s, exec (.watchdogExpiry q) s = execWatchdogExpiry q s := by
  intros; rfl
@[simp] theorem exec_streamTableGrant : ∀ p s, exec (.streamTableGrant p) s = execStreamTableGrant p s := by
  intros; rfl
@[simp] theorem exec_streamStart : ∀ p e s, exec (.streamStart p e) s = execStreamStart p e s := by
  intros; rfl
@[simp] theorem exec_streamActivate : ∀ p e s, exec (.streamActivate p e) s = execStreamActivate p e s := by
  intros; rfl
@[simp] theorem exec_streamWave : ∀ w s, exec (.streamWave w) s = execStreamWave w s := by
  intros; rfl
@[simp] theorem exec_stripCommit : ∀ p e s, exec (.stripCommit p e) s = execStripCommit p e s := by
  intros; rfl
@[simp] theorem exec_streamEnd : ∀ p e s, exec (.streamEnd p e) s = execStreamEnd p e s := by
  intros; rfl
@[simp] theorem exec_pipeLaneFail : ∀ p lane s, exec (.pipeLaneFail p lane) s = execPipeLaneFail p lane s := by
  intros; rfl
@[simp] theorem exec_dirOpRetire : ∀ p s, exec (.dirOpRetire p) s = execDirOpRetire p s := by
  intros; rfl
@[simp] theorem exec_admissionSlotAdvance : ∀ s, exec (.admissionSlotAdvance) s = execAdmissionSlotAdvance s := by
  intros; rfl
@[simp] theorem exec_deadlineDemotion : ∀ s, exec (.deadlineDemotion) s = execDeadlineDemotion s := by
  intros; rfl
@[simp] theorem exec_releaseSlotReached : ∀ c s, exec (.releaseSlotReached c) s = execReleaseSlotReached c s := by
  intros; rfl
@[simp] theorem exec_meterReport : ∀ c s, exec (.meterReport c) s = execMeterReport c s := by
  intros; rfl
@[simp] theorem exec_dauDemandCredit : ∀ s, exec (.dauDemandCredit) s = execDauDemandCredit s := by
  intros; rfl
@[simp] theorem exec_budgetOverrun : ∀ c s, exec (.budgetOverrun c) s = execBudgetOverrun c s := by
  intros; rfl
@[simp] theorem exec_beSliceExpiry : ∀ q s, exec (.beSliceExpiry q) s = execBeSliceExpiry q s := by
  intros; rfl
@[simp] theorem exec_cscPlacement : ∀ s, exec (.cscPlacement) s = execCscPlacement s := by
  intros; rfl
@[simp] theorem exec_contextTransferComplete : ∀ q s, exec (.contextTransferComplete q) s = execContextTransferComplete q s := by
  intros; rfl
@[simp] theorem exec_bankSwitch : ∀ q s, exec (.bankSwitch q) s = execBankSwitch q s := by
  intros; rfl
@[simp] theorem exec_contextEnding : ∀ c s, exec (.contextEnding c) s = execContextEnding c s := by
  intros; rfl
@[simp] theorem exec_fmLinkDown : ∀ p why s, exec (.fmLinkDown p why) s = execFmLinkDown p why s := by
  intros; rfl
@[simp] theorem exec_fmViral : ∀ p s, exec (.fmViral p) s = execFmViral p s := by
  intros; rfl
@[simp] theorem exec_fmResponseLimitExpiry : ∀ p w ga s, exec (.fmResponseLimitExpiry p w ga) s = execFmResponseLimitExpiry p w ga s := by
  intros; rfl
@[simp] theorem exec_xptQualStart : ∀ p s, exec (.xptQualStart p) s = execXptQualStart p s := by
  intros; rfl
@[simp] theorem exec_fmQualStepEnd : ∀ p r s, exec (.fmQualStepEnd p r) s = execFmQualStepEnd p r s := by
  intros; rfl
@[simp] theorem exec_perstXpEnd : ∀ p r s, exec (.perstXpEnd p r) s = execPerstXpEnd p r s := by
  intros; rfl
@[simp] theorem exec_prsntXpRemoval : ∀ p pulseNs s, exec (.prsntXpRemoval p pulseNs) s = execPrsntXpRemoval p pulseNs s := by
  intros; rfl
@[simp] theorem exec_prsntXpInsert : ∀ p s, exec (.prsntXpInsert p) s = execPrsntXpInsert p s := by
  intros; rfl
@[simp] theorem exec_lmFrameStart : ∀ n s, exec (.lmFrameStart n) s = execLmFrameStart n s := by
  intros; rfl
@[simp] theorem exec_lmBeAging : ∀ n ix s, exec (.lmBeAging n ix) s = execLmBeAging n ix s := by
  intros; rfl
@[simp] theorem exec_lmCorrectedWriteback : ∀ n s, exec (.lmCorrectedWriteback n) s = execLmCorrectedWriteback n s := by
  intros; rfl
@[simp] theorem exec_lmPatrolScrub : ∀ n found s, exec (.lmPatrolScrub n found) s = execLmPatrolScrub n found s := by
  intros; rfl
@[simp] theorem exec_lmRowRetireSwitch : ∀ n s, exec (.lmRowRetireSwitch n) s = execLmRowRetireSwitch n s := by
  intros; rfl
@[simp] theorem exec_scratchpadBankCycle : ∀ sp bank a b s, exec (.scratchpadBankCycle sp bank a b) s = execScratchpadBankCycle sp bank a b s := by
  intros; rfl
@[simp] theorem exec_sramCorrectedWriteback : ∀ m s, exec (.sramCorrectedWriteback m) s = execSramCorrectedWriteback m s := by
  intros; rfl
@[simp] theorem exec_sramScrub : ∀ m found s, exec (.sramScrub m found) s = execSramScrub m found s := by
  intros; rfl
@[simp] theorem exec_termiteWipeComplete : ∀ bad s, exec (.termiteWipeComplete bad) s = execTermiteWipeComplete bad s := by
  intros; rfl
@[simp] theorem exec_crossingTransactionReceive : ∀ dst link t s, exec (.crossingTransactionReceive dst link t) s = execCrossingTransactionReceive dst link t s := by
  intros; rfl
@[simp] theorem exec_crossingCreditReturn : ∀ src dst link ch s, exec (.crossingCreditReturn src dst link ch) s = execCrossingCreditReturn src dst link ch s := by
  intros; rfl
@[simp] theorem exec_xrstN : ∀ isl s, exec (.xrstN isl) s = execXrstN isl s := by
  intros; rfl
@[simp] theorem exec_crossbarArbitration : ∀ isl t s, exec (.crossbarArbitration isl t) s = execCrossbarArbitration isl t s := by
  intros; rfl
@[simp] theorem exec_qosAgingStep : ∀ isl port ix s, exec (.qosAgingStep isl port ix) s = execQosAgingStep isl port ix s := by
  intros; rfl
@[simp] theorem exec_floorGrant : ∀ isl t s, exec (.floorGrant isl t) s = execFloorGrant isl t s := by
  intros; rfl
@[simp] theorem exec_fabricHoldbackRelease : ∀ isl tag s, exec (.fabricHoldbackRelease isl tag) s = execFabricHoldbackRelease isl tag s := by
  intros; rfl
@[simp] theorem exec_evcLevelInputChange : ∀ n s, exec (.evcLevelInputChange n) s = execEvcLevelInputChange n s := by
  intros; rfl
@[simp] theorem exec_evcPulse : ∀ n s, exec (.evcPulse n) s = execEvcPulse n s := by
  intros; rfl
@[simp] theorem exec_evcPendSet : ∀ w bits s, exec (.evcPendSet w bits) s = execEvcPendSet w bits s := by
  intros; rfl
@[simp] theorem exec_evcPendClr : ∀ w bits s, exec (.evcPendClr w bits) s = execEvcPendClr w bits s := by
  intros; rfl
@[simp] theorem exec_evcMaskSet : ∀ w bits s, exec (.evcMaskSet w bits) s = execEvcMaskSet w bits s := by
  intros; rfl
@[simp] theorem exec_evcMaskClr : ∀ w bits s, exec (.evcMaskClr w bits) s = execEvcMaskClr w bits s := by
  intros; rfl
@[simp] theorem exec_evcPresentation : ∀ t s, exec (.evcPresentation t) s = execEvcPresentation t s := by
  intros; rfl
@[simp] theorem exec_tgtClaim : ∀ ag t s, exec (.tgtClaim ag t) s = execTgtClaim ag t s := by
  intros; rfl
@[simp] theorem exec_tgtComplete : ∀ ag t src s, exec (.tgtComplete ag t src) s = execTgtComplete ag t src s := by
  intros; rfl
@[simp] theorem exec_evcHoldoffEnd : ∀ g s, exec (.evcHoldoffEnd g) s = execEvcHoldoffEnd g s := by
  intros; rfl
@[simp] theorem exec_evrRecordOffer : ∀ r s, exec (.evrRecordOffer r) s = execEvrRecordOffer r s := by
  intros; rfl
@[simp] theorem exec_evrTokenRefill : ∀ code s, exec (.evrTokenRefill code) s = execEvrTokenRefill code s := by
  intros; rfl
@[simp] theorem exec_evrRecordProgrammed : ∀ s, exec (.evrRecordProgrammed) s = execEvrRecordProgrammed s := by
  intros; rfl
@[simp] theorem exec_evrCtrlFlush : ∀ ag s, exec (.evrCtrlFlush ag) s = execEvrCtrlFlush ag s := by
  intros; rfl
@[simp] theorem exec_optTick : ∀ s, exec (.optTick) s = execOptTick s := by
  intros; rfl
@[simp] theorem exec_evrPersistCounts : ∀ s, exec (.evrPersistCounts) s = execEvrPersistCounts s := by
  intros; rfl
@[simp] theorem exec_powerFailWarning : ∀ mv slope s, exec (.powerFailWarning mv slope) s = execPowerFailWarning mv slope s := by
  intros; rfl
@[simp] theorem exec_graceExpiry : ∀ s, exec (.graceExpiry) s = execGraceExpiry s := by
  intros; rfl
@[simp] theorem exec_inputRecovery : ∀ mv s, exec (.inputRecovery mv) s = execInputRecovery mv s := by
  intros; rfl
@[simp] theorem exec_pwrMeasurement : ∀ m s, exec (.pwrMeasurement m) s = execPwrMeasurement m s := by
  intros; rfl
@[simp] theorem exec_throttleLower : ∀ s, exec (.throttleLower) s = execThrottleLower s := by
  intros; rfl
@[simp] theorem exec_guaranteeFloorCrossing : ∀ s, exec (.guaranteeFloorCrossing) s = execGuaranteeFloorCrossing s := by
  intros; rfl
@[simp] theorem exec_thermalTrip : ∀ sensor tenths s, exec (.thermalTrip sensor tenths) s = execThermalTrip sensor tenths s := by
  intros; rfl
@[simp] theorem exec_tamper : ∀ src s, exec (.tamper src) s = execTamper src s := by
  intros; rfl
@[simp] theorem exec_pwrHbBeat : ∀ s, exec (.pwrHbBeat) s = execPwrHbBeat s := by
  intros; rfl
@[simp] theorem exec_heartbeatLost : ∀ s, exec (.heartbeatLost) s = execHeartbeatLost s := by
  intros; rfl
@[simp] theorem exec_fwImageFallback : ∀ s, exec (.fwImageFallback) s = execFwImageFallback s := by
  intros; rfl
@[simp] theorem exec_coldReset : ∀ mgLost s, exec (.coldReset mgLost) s = execColdReset mgLost s := by
  intros; rfl
@[simp] theorem exec_warmReset : ∀ s, exec (.warmReset) s = execWarmReset s := by
  intros; rfl
@[simp] theorem exec_islandReset : ∀ isl s, exec (.islandReset isl) s = execIslandReset isl s := by
  intros; rfl
@[simp] theorem exec_sequencerReset : ∀ q s, exec (.sequencerReset q) s = execSequencerReset q s := by
  intros; rfl
@[simp] theorem exec_pipeReset : ∀ p s, exec (.pipeReset p) s = execPipeReset p s := by
  intros; rfl
@[simp] theorem exec_islandStateRequest : ∀ isl st s, exec (.islandStateRequest isl st) s = execIslandStateRequest isl st s := by
  intros; rfl
@[simp] theorem exec_islandWakeComplete : ∀ isl s, exec (.islandWakeComplete isl) s = execIslandWakeComplete isl s := by
  intros; rfl
@[simp] theorem exec_pageEnable : ∀ ag pg s, exec (.pageEnable ag pg) s = execPageEnable ag pg s := by
  intros; rfl
@[simp] theorem exec_pageDisable : ∀ ag pg s, exec (.pageDisable ag pg) s = execPageDisable ag pg s := by
  intros; rfl
@[simp] theorem exec_blockStop : ∀ pg s, exec (.blockStop pg) s = execBlockStop pg s := by
  intros; rfl
@[simp] theorem exec_pageCommit : ∀ ag pg s, exec (.pageCommit ag pg) s = execPageCommit ag pg s := by
  intros; rfl
@[simp] theorem exec_commitApply : ∀ pg s, exec (.commitApply pg) s = execCommitApply pg s := by
  intros; rfl
@[simp] theorem exec_pageSoftReset : ∀ ag pg s, exec (.pageSoftReset ag pg) s = execPageSoftReset ag pg s := by
  intros; rfl
@[simp] theorem exec_quiesceSet : ∀ ag pg s, exec (.quiesceSet ag pg) s = execQuiesceSet ag pg s := by
  intros; rfl
@[simp] theorem exec_quiesceClear : ∀ ag pg s, exec (.quiesceClear ag pg) s = execQuiesceClear ag pg s := by
  intros; rfl
@[simp] theorem exec_pgIrqSet : ∀ ag pg bits s, exec (.pgIrqSet ag pg bits) s = execPgIrqSet ag pg bits s := by
  intros; rfl
@[simp] theorem exec_pgIrqClr : ∀ ag pg bits s, exec (.pgIrqClr ag pg bits) s = execPgIrqClr ag pg bits s := by
  intros; rfl
@[simp] theorem exec_pgIrqMskSet : ∀ ag pg bits s, exec (.pgIrqMskSet ag pg bits) s = execPgIrqMskSet ag pg bits s := by
  intros; rfl
@[simp] theorem exec_pgIrqMskClr : ∀ ag pg bits s, exec (.pgIrqMskClr ag pg bits) s = execPgIrqMskClr ag pg bits s := by
  intros; rfl
@[simp] theorem exec_loRegisterRead : ∀ ag t s, exec (.loRegisterRead ag t) s = execLoRegisterRead ag t s := by
  intros; rfl
@[simp] theorem exec_dauOpenWrite : ∀ ag g b s, exec (.dauOpenWrite ag g b) s = execDauOpenWrite ag g b s := by
  intros; rfl
@[simp] theorem exec_registerWrite : ∀ ag t value s, exec (.registerWrite ag t value) s = execRegisterWrite ag t value s := by
  intros; rfl
@[simp] theorem exec_illegalInstruction : ∀ q words s, exec (.illegalInstruction q words) s = execIllegalInstruction q words s := by
  intros; rfl
@[simp] theorem exec_lmTrainingComplete : ∀ s, exec (.lmTrainingComplete) s = execLmTrainingComplete s := by
  intros; rfl
@[simp] theorem exec_coreRailsGood : ∀ s, exec (.coreRailsGood) s = execCoreRailsGood s := by
  intros; rfl
@[simp] theorem exec_lmStackTempChange : ∀ n tenths s, exec (.lmStackTempChange n tenths) s = execLmStackTempChange n tenths s := by
  intros; rfl
@[simp] theorem exec_mgPowerLoss : ∀ s, exec (.mgPowerLoss) s = execMgPowerLoss s := by
  intros; rfl
@[simp] theorem exec_hostLinkL0Entry : ∀ s, exec (.hostLinkL0Entry) s = execHostLinkL0Entry s := by
  intros; rfl
@[simp] theorem exec_ideKmRequest : ∀ session stream start s, exec (.ideKmRequest session stream start) s = execIdeKmRequest session stream start s := by
  intros; rfl
@[simp] theorem exec_doeDiscovery : ∀ index s, exec (.doeDiscovery index) s = execDoeDiscovery index s := by
  intros; rfl
@[simp] theorem exec_hostDmaComplete : ∀ s, exec (.hostDmaComplete) s = execHostDmaComplete s := by
  intros; rfl
@[simp] theorem exec_lmRowRetireStart : ∀ n pc bank row s, exec (.lmRowRetireStart n pc bank row) s = execLmRowRetireStart n pc bank row s := by
  intros; rfl
@[simp] theorem exec_sramRedundancyRemap : ∀ m s, exec (.sramRedundancyRemap m) s = execSramRedundancyRemap m s := by
  intros; rfl
@[simp] theorem exec_j9DebugAccess : ∀ a s, exec (.j9DebugAccess a) s = execJ9DebugAccess a s := by
  intros; rfl
@[simp] theorem exec_senseContactChange : ∀ p n s, exec (.senseContactChange p n) s = execSenseContactChange p n s := by
  intros; rfl

end Sys2Proof.Machine
end

