-- ==== Sys2Proof/Laws/State.lean ====
section
/-! SUPPORT. The named updates of the state, one lemma per field that an update leaves alone, and what it writes. -/

namespace Sys2Proof.Machine

/-! ## modSeq -/

@[simp] theorem modSeq_pending (s : State) (q : Fin 16) (f : Seq → Seq) : (modSeq s q f).pending = s.pending := rfl
@[simp] theorem modSeq_ml (s : State) (q : Fin 16) (f : Seq → Seq) : (modSeq s q f).ml = s.ml := rfl
@[simp] theorem modSeq_free (s : State) (q : Fin 16) (f : Seq → Seq) : (modSeq s q f).free = s.free := rfl
@[simp] theorem modSeq_out (s : State) (q : Fin 16) (f : Seq → Seq) : (modSeq s q f).out = s.out := rfl
@[simp] theorem modSeq_mem (s : State) (q : Fin 16) (f : Seq → Seq) : (modSeq s q f).mem = s.mem := rfl
@[simp] theorem modSeq_poison (s : State) (q : Fin 16) (f : Seq → Seq) : (modSeq s q f).poison = s.poison := rfl
@[simp] theorem modSeq_upset (s : State) (q : Fin 16) (f : Seq → Seq) : (modSeq s q f).upset = s.upset := rfl
@[simp] theorem modSeq_parked (s : State) (q : Fin 16) (f : Seq → Seq) : (modSeq s q f).parked = s.parked := rfl
@[simp] theorem modSeq_qmem (s : State) (q : Fin 16) (f : Seq → Seq) : (modSeq s q f).qmem = s.qmem := rfl
@[simp] theorem modSeq_pages (s : State) (q : Fin 16) (f : Seq → Seq) : (modSeq s q f).pages = s.pages := rfl
@[simp] theorem modSeq_latch (s : State) (q : Fin 16) (f : Seq → Seq) : (modSeq s q f).latch = s.latch := rfl
@[simp] theorem modSeq_glb (s : State) (q : Fin 16) (f : Seq → Seq) : (modSeq s q f).glb = s.glb := rfl
@[simp] theorem modSeq_pwr (s : State) (q : Fin 16) (f : Seq → Seq) : (modSeq s q f).pwr = s.pwr := rfl
@[simp] theorem modSeq_evr (s : State) (q : Fin 16) (f : Seq → Seq) : (modSeq s q f).evr = s.evr := rfl
@[simp] theorem modSeq_evc (s : State) (q : Fin 16) (f : Seq → Seq) : (modSeq s q f).evc = s.evc := rfl
@[simp] theorem modSeq_hl (s : State) (q : Fin 16) (f : Seq → Seq) : (modSeq s q f).hl = s.hl := rfl
@[simp] theorem modSeq_rqe (s : State) (q : Fin 16) (f : Seq → Seq) : (modSeq s q f).rqe = s.rqe := rfl
@[simp] theorem modSeq_dau (s : State) (q : Fin 16) (f : Seq → Seq) : (modSeq s q f).dau = s.dau := rfl
@[simp] theorem modSeq_csc (s : State) (q : Fin 16) (f : Seq → Seq) : (modSeq s q f).csc = s.csc := rfl
@[simp] theorem modSeq_ctxs (s : State) (q : Fin 16) (f : Seq → Seq) : (modSeq s q f).ctxs = s.ctxs := rfl
@[simp] theorem modSeq_objs (s : State) (q : Fin 16) (f : Seq → Seq) : (modSeq s q f).objs = s.objs := rfl
@[simp] theorem modSeq_lmcs (s : State) (q : Fin 16) (f : Seq → Seq) : (modSeq s q f).lmcs = s.lmcs := rfl
@[simp] theorem modSeq_xpts (s : State) (q : Fin 16) (f : Seq → Seq) : (modSeq s q f).xpts = s.xpts := rfl
@[simp] theorem modSeq_map (s : State) (q : Fin 16) (f : Seq → Seq) : (modSeq s q f).map = s.map := rfl
@[simp] theorem modSeq_pipes (s : State) (q : Fin 16) (f : Seq → Seq) : (modSeq s q f).pipes = s.pipes := rfl
@[simp] theorem modSeq_dir (s : State) (q : Fin 16) (f : Seq → Seq) : (modSeq s q f).dir = s.dir := rfl
@[simp] theorem modSeq_lms (s : State) (q : Fin 16) (f : Seq → Seq) : (modSeq s q f).lms = s.lms := rfl
@[simp] theorem modSeq_fab (s : State) (q : Fin 16) (f : Seq → Seq) : (modSeq s q f).fab = s.fab := rfl

/-! ## modBank -/

@[simp] theorem modBank_pending (s : State) (q : Fin 16) (b : Fin 8) (f : Bank → Bank) : (modBank s q b f).pending = s.pending := rfl
@[simp] theorem modBank_ml (s : State) (q : Fin 16) (b : Fin 8) (f : Bank → Bank) : (modBank s q b f).ml = s.ml := rfl
@[simp] theorem modBank_free (s : State) (q : Fin 16) (b : Fin 8) (f : Bank → Bank) : (modBank s q b f).free = s.free := rfl
@[simp] theorem modBank_out (s : State) (q : Fin 16) (b : Fin 8) (f : Bank → Bank) : (modBank s q b f).out = s.out := rfl
@[simp] theorem modBank_mem (s : State) (q : Fin 16) (b : Fin 8) (f : Bank → Bank) : (modBank s q b f).mem = s.mem := rfl
@[simp] theorem modBank_poison (s : State) (q : Fin 16) (b : Fin 8) (f : Bank → Bank) : (modBank s q b f).poison = s.poison := rfl
@[simp] theorem modBank_upset (s : State) (q : Fin 16) (b : Fin 8) (f : Bank → Bank) : (modBank s q b f).upset = s.upset := rfl
@[simp] theorem modBank_parked (s : State) (q : Fin 16) (b : Fin 8) (f : Bank → Bank) : (modBank s q b f).parked = s.parked := rfl
@[simp] theorem modBank_qmem (s : State) (q : Fin 16) (b : Fin 8) (f : Bank → Bank) : (modBank s q b f).qmem = s.qmem := rfl
@[simp] theorem modBank_pages (s : State) (q : Fin 16) (b : Fin 8) (f : Bank → Bank) : (modBank s q b f).pages = s.pages := rfl
@[simp] theorem modBank_latch (s : State) (q : Fin 16) (b : Fin 8) (f : Bank → Bank) : (modBank s q b f).latch = s.latch := rfl
@[simp] theorem modBank_glb (s : State) (q : Fin 16) (b : Fin 8) (f : Bank → Bank) : (modBank s q b f).glb = s.glb := rfl
@[simp] theorem modBank_pwr (s : State) (q : Fin 16) (b : Fin 8) (f : Bank → Bank) : (modBank s q b f).pwr = s.pwr := rfl
@[simp] theorem modBank_evr (s : State) (q : Fin 16) (b : Fin 8) (f : Bank → Bank) : (modBank s q b f).evr = s.evr := rfl
@[simp] theorem modBank_evc (s : State) (q : Fin 16) (b : Fin 8) (f : Bank → Bank) : (modBank s q b f).evc = s.evc := rfl
@[simp] theorem modBank_hl (s : State) (q : Fin 16) (b : Fin 8) (f : Bank → Bank) : (modBank s q b f).hl = s.hl := rfl
@[simp] theorem modBank_rqe (s : State) (q : Fin 16) (b : Fin 8) (f : Bank → Bank) : (modBank s q b f).rqe = s.rqe := rfl
@[simp] theorem modBank_dau (s : State) (q : Fin 16) (b : Fin 8) (f : Bank → Bank) : (modBank s q b f).dau = s.dau := rfl
@[simp] theorem modBank_csc (s : State) (q : Fin 16) (b : Fin 8) (f : Bank → Bank) : (modBank s q b f).csc = s.csc := rfl
@[simp] theorem modBank_ctxs (s : State) (q : Fin 16) (b : Fin 8) (f : Bank → Bank) : (modBank s q b f).ctxs = s.ctxs := rfl
@[simp] theorem modBank_objs (s : State) (q : Fin 16) (b : Fin 8) (f : Bank → Bank) : (modBank s q b f).objs = s.objs := rfl
@[simp] theorem modBank_lmcs (s : State) (q : Fin 16) (b : Fin 8) (f : Bank → Bank) : (modBank s q b f).lmcs = s.lmcs := rfl
@[simp] theorem modBank_xpts (s : State) (q : Fin 16) (b : Fin 8) (f : Bank → Bank) : (modBank s q b f).xpts = s.xpts := rfl
@[simp] theorem modBank_map (s : State) (q : Fin 16) (b : Fin 8) (f : Bank → Bank) : (modBank s q b f).map = s.map := rfl
@[simp] theorem modBank_pipes (s : State) (q : Fin 16) (b : Fin 8) (f : Bank → Bank) : (modBank s q b f).pipes = s.pipes := rfl
@[simp] theorem modBank_dir (s : State) (q : Fin 16) (b : Fin 8) (f : Bank → Bank) : (modBank s q b f).dir = s.dir := rfl
@[simp] theorem modBank_lms (s : State) (q : Fin 16) (b : Fin 8) (f : Bank → Bank) : (modBank s q b f).lms = s.lms := rfl
@[simp] theorem modBank_fab (s : State) (q : Fin 16) (b : Fin 8) (f : Bank → Bank) : (modBank s q b f).fab = s.fab := rfl

/-! ## modPipe -/

@[simp] theorem modPipe_pending (s : State) (p : Fin 8) (f : Pipe → Pipe) : (modPipe s p f).pending = s.pending := rfl
@[simp] theorem modPipe_ml (s : State) (p : Fin 8) (f : Pipe → Pipe) : (modPipe s p f).ml = s.ml := rfl
@[simp] theorem modPipe_free (s : State) (p : Fin 8) (f : Pipe → Pipe) : (modPipe s p f).free = s.free := rfl
@[simp] theorem modPipe_out (s : State) (p : Fin 8) (f : Pipe → Pipe) : (modPipe s p f).out = s.out := rfl
@[simp] theorem modPipe_mem (s : State) (p : Fin 8) (f : Pipe → Pipe) : (modPipe s p f).mem = s.mem := rfl
@[simp] theorem modPipe_poison (s : State) (p : Fin 8) (f : Pipe → Pipe) : (modPipe s p f).poison = s.poison := rfl
@[simp] theorem modPipe_upset (s : State) (p : Fin 8) (f : Pipe → Pipe) : (modPipe s p f).upset = s.upset := rfl
@[simp] theorem modPipe_parked (s : State) (p : Fin 8) (f : Pipe → Pipe) : (modPipe s p f).parked = s.parked := rfl
@[simp] theorem modPipe_qmem (s : State) (p : Fin 8) (f : Pipe → Pipe) : (modPipe s p f).qmem = s.qmem := rfl
@[simp] theorem modPipe_pages (s : State) (p : Fin 8) (f : Pipe → Pipe) : (modPipe s p f).pages = s.pages := rfl
@[simp] theorem modPipe_latch (s : State) (p : Fin 8) (f : Pipe → Pipe) : (modPipe s p f).latch = s.latch := rfl
@[simp] theorem modPipe_glb (s : State) (p : Fin 8) (f : Pipe → Pipe) : (modPipe s p f).glb = s.glb := rfl
@[simp] theorem modPipe_pwr (s : State) (p : Fin 8) (f : Pipe → Pipe) : (modPipe s p f).pwr = s.pwr := rfl
@[simp] theorem modPipe_evr (s : State) (p : Fin 8) (f : Pipe → Pipe) : (modPipe s p f).evr = s.evr := rfl
@[simp] theorem modPipe_evc (s : State) (p : Fin 8) (f : Pipe → Pipe) : (modPipe s p f).evc = s.evc := rfl
@[simp] theorem modPipe_hl (s : State) (p : Fin 8) (f : Pipe → Pipe) : (modPipe s p f).hl = s.hl := rfl
@[simp] theorem modPipe_rqe (s : State) (p : Fin 8) (f : Pipe → Pipe) : (modPipe s p f).rqe = s.rqe := rfl
@[simp] theorem modPipe_dau (s : State) (p : Fin 8) (f : Pipe → Pipe) : (modPipe s p f).dau = s.dau := rfl
@[simp] theorem modPipe_csc (s : State) (p : Fin 8) (f : Pipe → Pipe) : (modPipe s p f).csc = s.csc := rfl
@[simp] theorem modPipe_ctxs (s : State) (p : Fin 8) (f : Pipe → Pipe) : (modPipe s p f).ctxs = s.ctxs := rfl
@[simp] theorem modPipe_objs (s : State) (p : Fin 8) (f : Pipe → Pipe) : (modPipe s p f).objs = s.objs := rfl
@[simp] theorem modPipe_lmcs (s : State) (p : Fin 8) (f : Pipe → Pipe) : (modPipe s p f).lmcs = s.lmcs := rfl
@[simp] theorem modPipe_xpts (s : State) (p : Fin 8) (f : Pipe → Pipe) : (modPipe s p f).xpts = s.xpts := rfl
@[simp] theorem modPipe_map (s : State) (p : Fin 8) (f : Pipe → Pipe) : (modPipe s p f).map = s.map := rfl
@[simp] theorem modPipe_seqs (s : State) (p : Fin 8) (f : Pipe → Pipe) : (modPipe s p f).seqs = s.seqs := rfl
@[simp] theorem modPipe_dir (s : State) (p : Fin 8) (f : Pipe → Pipe) : (modPipe s p f).dir = s.dir := rfl
@[simp] theorem modPipe_lms (s : State) (p : Fin 8) (f : Pipe → Pipe) : (modPipe s p f).lms = s.lms := rfl
@[simp] theorem modPipe_fab (s : State) (p : Fin 8) (f : Pipe → Pipe) : (modPipe s p f).fab = s.fab := rfl

/-! ## setStream -/

@[simp] theorem setStream_pending (s : State) (p : Fin 8) (e : Fin 64) (x : Option Stream) : (setStream s p e x).pending = s.pending := rfl
@[simp] theorem setStream_ml (s : State) (p : Fin 8) (e : Fin 64) (x : Option Stream) : (setStream s p e x).ml = s.ml := rfl
@[simp] theorem setStream_free (s : State) (p : Fin 8) (e : Fin 64) (x : Option Stream) : (setStream s p e x).free = s.free := rfl
@[simp] theorem setStream_out (s : State) (p : Fin 8) (e : Fin 64) (x : Option Stream) : (setStream s p e x).out = s.out := rfl
@[simp] theorem setStream_mem (s : State) (p : Fin 8) (e : Fin 64) (x : Option Stream) : (setStream s p e x).mem = s.mem := rfl
@[simp] theorem setStream_poison (s : State) (p : Fin 8) (e : Fin 64) (x : Option Stream) : (setStream s p e x).poison = s.poison := rfl
@[simp] theorem setStream_upset (s : State) (p : Fin 8) (e : Fin 64) (x : Option Stream) : (setStream s p e x).upset = s.upset := rfl
@[simp] theorem setStream_parked (s : State) (p : Fin 8) (e : Fin 64) (x : Option Stream) : (setStream s p e x).parked = s.parked := rfl
@[simp] theorem setStream_qmem (s : State) (p : Fin 8) (e : Fin 64) (x : Option Stream) : (setStream s p e x).qmem = s.qmem := rfl
@[simp] theorem setStream_pages (s : State) (p : Fin 8) (e : Fin 64) (x : Option Stream) : (setStream s p e x).pages = s.pages := rfl
@[simp] theorem setStream_latch (s : State) (p : Fin 8) (e : Fin 64) (x : Option Stream) : (setStream s p e x).latch = s.latch := rfl
@[simp] theorem setStream_glb (s : State) (p : Fin 8) (e : Fin 64) (x : Option Stream) : (setStream s p e x).glb = s.glb := rfl
@[simp] theorem setStream_pwr (s : State) (p : Fin 8) (e : Fin 64) (x : Option Stream) : (setStream s p e x).pwr = s.pwr := rfl
@[simp] theorem setStream_evr (s : State) (p : Fin 8) (e : Fin 64) (x : Option Stream) : (setStream s p e x).evr = s.evr := rfl
@[simp] theorem setStream_evc (s : State) (p : Fin 8) (e : Fin 64) (x : Option Stream) : (setStream s p e x).evc = s.evc := rfl
@[simp] theorem setStream_hl (s : State) (p : Fin 8) (e : Fin 64) (x : Option Stream) : (setStream s p e x).hl = s.hl := rfl
@[simp] theorem setStream_rqe (s : State) (p : Fin 8) (e : Fin 64) (x : Option Stream) : (setStream s p e x).rqe = s.rqe := rfl
@[simp] theorem setStream_dau (s : State) (p : Fin 8) (e : Fin 64) (x : Option Stream) : (setStream s p e x).dau = s.dau := rfl
@[simp] theorem setStream_csc (s : State) (p : Fin 8) (e : Fin 64) (x : Option Stream) : (setStream s p e x).csc = s.csc := rfl
@[simp] theorem setStream_ctxs (s : State) (p : Fin 8) (e : Fin 64) (x : Option Stream) : (setStream s p e x).ctxs = s.ctxs := rfl
@[simp] theorem setStream_objs (s : State) (p : Fin 8) (e : Fin 64) (x : Option Stream) : (setStream s p e x).objs = s.objs := rfl
@[simp] theorem setStream_lmcs (s : State) (p : Fin 8) (e : Fin 64) (x : Option Stream) : (setStream s p e x).lmcs = s.lmcs := rfl
@[simp] theorem setStream_xpts (s : State) (p : Fin 8) (e : Fin 64) (x : Option Stream) : (setStream s p e x).xpts = s.xpts := rfl
@[simp] theorem setStream_map (s : State) (p : Fin 8) (e : Fin 64) (x : Option Stream) : (setStream s p e x).map = s.map := rfl
@[simp] theorem setStream_seqs (s : State) (p : Fin 8) (e : Fin 64) (x : Option Stream) : (setStream s p e x).seqs = s.seqs := rfl
@[simp] theorem setStream_dir (s : State) (p : Fin 8) (e : Fin 64) (x : Option Stream) : (setStream s p e x).dir = s.dir := rfl
@[simp] theorem setStream_lms (s : State) (p : Fin 8) (e : Fin 64) (x : Option Stream) : (setStream s p e x).lms = s.lms := rfl
@[simp] theorem setStream_fab (s : State) (p : Fin 8) (e : Fin 64) (x : Option Stream) : (setStream s p e x).fab = s.fab := rfl

/-! ## modHdr -/

@[simp] theorem modHdr_pending (s : State) (pg : PageId) (f : Hdr → Hdr) : (modHdr s pg f).pending = s.pending := rfl
@[simp] theorem modHdr_ml (s : State) (pg : PageId) (f : Hdr → Hdr) : (modHdr s pg f).ml = s.ml := rfl
@[simp] theorem modHdr_free (s : State) (pg : PageId) (f : Hdr → Hdr) : (modHdr s pg f).free = s.free := rfl
@[simp] theorem modHdr_out (s : State) (pg : PageId) (f : Hdr → Hdr) : (modHdr s pg f).out = s.out := rfl
@[simp] theorem modHdr_mem (s : State) (pg : PageId) (f : Hdr → Hdr) : (modHdr s pg f).mem = s.mem := rfl
@[simp] theorem modHdr_poison (s : State) (pg : PageId) (f : Hdr → Hdr) : (modHdr s pg f).poison = s.poison := rfl
@[simp] theorem modHdr_upset (s : State) (pg : PageId) (f : Hdr → Hdr) : (modHdr s pg f).upset = s.upset := rfl
@[simp] theorem modHdr_parked (s : State) (pg : PageId) (f : Hdr → Hdr) : (modHdr s pg f).parked = s.parked := rfl
@[simp] theorem modHdr_qmem (s : State) (pg : PageId) (f : Hdr → Hdr) : (modHdr s pg f).qmem = s.qmem := rfl
@[simp] theorem modHdr_latch (s : State) (pg : PageId) (f : Hdr → Hdr) : (modHdr s pg f).latch = s.latch := rfl
@[simp] theorem modHdr_glb (s : State) (pg : PageId) (f : Hdr → Hdr) : (modHdr s pg f).glb = s.glb := rfl
@[simp] theorem modHdr_pwr (s : State) (pg : PageId) (f : Hdr → Hdr) : (modHdr s pg f).pwr = s.pwr := rfl
@[simp] theorem modHdr_evr (s : State) (pg : PageId) (f : Hdr → Hdr) : (modHdr s pg f).evr = s.evr := rfl
@[simp] theorem modHdr_evc (s : State) (pg : PageId) (f : Hdr → Hdr) : (modHdr s pg f).evc = s.evc := rfl
@[simp] theorem modHdr_hl (s : State) (pg : PageId) (f : Hdr → Hdr) : (modHdr s pg f).hl = s.hl := rfl
@[simp] theorem modHdr_rqe (s : State) (pg : PageId) (f : Hdr → Hdr) : (modHdr s pg f).rqe = s.rqe := rfl
@[simp] theorem modHdr_dau (s : State) (pg : PageId) (f : Hdr → Hdr) : (modHdr s pg f).dau = s.dau := rfl
@[simp] theorem modHdr_csc (s : State) (pg : PageId) (f : Hdr → Hdr) : (modHdr s pg f).csc = s.csc := rfl
@[simp] theorem modHdr_ctxs (s : State) (pg : PageId) (f : Hdr → Hdr) : (modHdr s pg f).ctxs = s.ctxs := rfl
@[simp] theorem modHdr_objs (s : State) (pg : PageId) (f : Hdr → Hdr) : (modHdr s pg f).objs = s.objs := rfl
@[simp] theorem modHdr_lmcs (s : State) (pg : PageId) (f : Hdr → Hdr) : (modHdr s pg f).lmcs = s.lmcs := rfl
@[simp] theorem modHdr_xpts (s : State) (pg : PageId) (f : Hdr → Hdr) : (modHdr s pg f).xpts = s.xpts := rfl
@[simp] theorem modHdr_map (s : State) (pg : PageId) (f : Hdr → Hdr) : (modHdr s pg f).map = s.map := rfl
@[simp] theorem modHdr_pipes (s : State) (pg : PageId) (f : Hdr → Hdr) : (modHdr s pg f).pipes = s.pipes := rfl
@[simp] theorem modHdr_seqs (s : State) (pg : PageId) (f : Hdr → Hdr) : (modHdr s pg f).seqs = s.seqs := rfl
@[simp] theorem modHdr_dir (s : State) (pg : PageId) (f : Hdr → Hdr) : (modHdr s pg f).dir = s.dir := rfl
@[simp] theorem modHdr_lms (s : State) (pg : PageId) (f : Hdr → Hdr) : (modHdr s pg f).lms = s.lms := rfl
@[simp] theorem modHdr_fab (s : State) (pg : PageId) (f : Hdr → Hdr) : (modHdr s pg f).fab = s.fab := rfl

/-! ## countErr -/

@[simp] theorem countErr_pending (s : State) (pg : PageId) : (countErr s pg).pending = s.pending := rfl
@[simp] theorem countErr_ml (s : State) (pg : PageId) : (countErr s pg).ml = s.ml := rfl
@[simp] theorem countErr_free (s : State) (pg : PageId) : (countErr s pg).free = s.free := rfl
@[simp] theorem countErr_out (s : State) (pg : PageId) : (countErr s pg).out = s.out := rfl
@[simp] theorem countErr_mem (s : State) (pg : PageId) : (countErr s pg).mem = s.mem := rfl
@[simp] theorem countErr_poison (s : State) (pg : PageId) : (countErr s pg).poison = s.poison := rfl
@[simp] theorem countErr_upset (s : State) (pg : PageId) : (countErr s pg).upset = s.upset := rfl
@[simp] theorem countErr_parked (s : State) (pg : PageId) : (countErr s pg).parked = s.parked := rfl
@[simp] theorem countErr_qmem (s : State) (pg : PageId) : (countErr s pg).qmem = s.qmem := rfl
@[simp] theorem countErr_latch (s : State) (pg : PageId) : (countErr s pg).latch = s.latch := rfl
@[simp] theorem countErr_glb (s : State) (pg : PageId) : (countErr s pg).glb = s.glb := rfl
@[simp] theorem countErr_pwr (s : State) (pg : PageId) : (countErr s pg).pwr = s.pwr := rfl
@[simp] theorem countErr_evr (s : State) (pg : PageId) : (countErr s pg).evr = s.evr := rfl
@[simp] theorem countErr_evc (s : State) (pg : PageId) : (countErr s pg).evc = s.evc := rfl
@[simp] theorem countErr_hl (s : State) (pg : PageId) : (countErr s pg).hl = s.hl := rfl
@[simp] theorem countErr_rqe (s : State) (pg : PageId) : (countErr s pg).rqe = s.rqe := rfl
@[simp] theorem countErr_dau (s : State) (pg : PageId) : (countErr s pg).dau = s.dau := rfl
@[simp] theorem countErr_csc (s : State) (pg : PageId) : (countErr s pg).csc = s.csc := rfl
@[simp] theorem countErr_ctxs (s : State) (pg : PageId) : (countErr s pg).ctxs = s.ctxs := rfl
@[simp] theorem countErr_objs (s : State) (pg : PageId) : (countErr s pg).objs = s.objs := rfl
@[simp] theorem countErr_lmcs (s : State) (pg : PageId) : (countErr s pg).lmcs = s.lmcs := rfl
@[simp] theorem countErr_xpts (s : State) (pg : PageId) : (countErr s pg).xpts = s.xpts := rfl
@[simp] theorem countErr_map (s : State) (pg : PageId) : (countErr s pg).map = s.map := rfl
@[simp] theorem countErr_pipes (s : State) (pg : PageId) : (countErr s pg).pipes = s.pipes := rfl
@[simp] theorem countErr_seqs (s : State) (pg : PageId) : (countErr s pg).seqs = s.seqs := rfl
@[simp] theorem countErr_dir (s : State) (pg : PageId) : (countErr s pg).dir = s.dir := rfl
@[simp] theorem countErr_lms (s : State) (pg : PageId) : (countErr s pg).lms = s.lms := rfl
@[simp] theorem countErr_fab (s : State) (pg : PageId) : (countErr s pg).fab = s.fab := rfl

/-! ## raiseIrq -/

@[simp] theorem raiseIrq_pending (s : State) (pg : PageId) (b : Reg32) : (raiseIrq s pg b).pending = s.pending := rfl
@[simp] theorem raiseIrq_ml (s : State) (pg : PageId) (b : Reg32) : (raiseIrq s pg b).ml = s.ml := rfl
@[simp] theorem raiseIrq_free (s : State) (pg : PageId) (b : Reg32) : (raiseIrq s pg b).free = s.free := rfl
@[simp] theorem raiseIrq_out (s : State) (pg : PageId) (b : Reg32) : (raiseIrq s pg b).out = s.out := rfl
@[simp] theorem raiseIrq_mem (s : State) (pg : PageId) (b : Reg32) : (raiseIrq s pg b).mem = s.mem := rfl
@[simp] theorem raiseIrq_poison (s : State) (pg : PageId) (b : Reg32) : (raiseIrq s pg b).poison = s.poison := rfl
@[simp] theorem raiseIrq_upset (s : State) (pg : PageId) (b : Reg32) : (raiseIrq s pg b).upset = s.upset := rfl
@[simp] theorem raiseIrq_parked (s : State) (pg : PageId) (b : Reg32) : (raiseIrq s pg b).parked = s.parked := rfl
@[simp] theorem raiseIrq_qmem (s : State) (pg : PageId) (b : Reg32) : (raiseIrq s pg b).qmem = s.qmem := rfl
@[simp] theorem raiseIrq_latch (s : State) (pg : PageId) (b : Reg32) : (raiseIrq s pg b).latch = s.latch := rfl
@[simp] theorem raiseIrq_glb (s : State) (pg : PageId) (b : Reg32) : (raiseIrq s pg b).glb = s.glb := rfl
@[simp] theorem raiseIrq_pwr (s : State) (pg : PageId) (b : Reg32) : (raiseIrq s pg b).pwr = s.pwr := rfl
@[simp] theorem raiseIrq_evr (s : State) (pg : PageId) (b : Reg32) : (raiseIrq s pg b).evr = s.evr := rfl
@[simp] theorem raiseIrq_evc (s : State) (pg : PageId) (b : Reg32) : (raiseIrq s pg b).evc = s.evc := rfl
@[simp] theorem raiseIrq_hl (s : State) (pg : PageId) (b : Reg32) : (raiseIrq s pg b).hl = s.hl := rfl
@[simp] theorem raiseIrq_rqe (s : State) (pg : PageId) (b : Reg32) : (raiseIrq s pg b).rqe = s.rqe := rfl
@[simp] theorem raiseIrq_dau (s : State) (pg : PageId) (b : Reg32) : (raiseIrq s pg b).dau = s.dau := rfl
@[simp] theorem raiseIrq_csc (s : State) (pg : PageId) (b : Reg32) : (raiseIrq s pg b).csc = s.csc := rfl
@[simp] theorem raiseIrq_ctxs (s : State) (pg : PageId) (b : Reg32) : (raiseIrq s pg b).ctxs = s.ctxs := rfl
@[simp] theorem raiseIrq_objs (s : State) (pg : PageId) (b : Reg32) : (raiseIrq s pg b).objs = s.objs := rfl
@[simp] theorem raiseIrq_lmcs (s : State) (pg : PageId) (b : Reg32) : (raiseIrq s pg b).lmcs = s.lmcs := rfl
@[simp] theorem raiseIrq_xpts (s : State) (pg : PageId) (b : Reg32) : (raiseIrq s pg b).xpts = s.xpts := rfl
@[simp] theorem raiseIrq_map (s : State) (pg : PageId) (b : Reg32) : (raiseIrq s pg b).map = s.map := rfl
@[simp] theorem raiseIrq_pipes (s : State) (pg : PageId) (b : Reg32) : (raiseIrq s pg b).pipes = s.pipes := rfl
@[simp] theorem raiseIrq_seqs (s : State) (pg : PageId) (b : Reg32) : (raiseIrq s pg b).seqs = s.seqs := rfl
@[simp] theorem raiseIrq_dir (s : State) (pg : PageId) (b : Reg32) : (raiseIrq s pg b).dir = s.dir := rfl
@[simp] theorem raiseIrq_lms (s : State) (pg : PageId) (b : Reg32) : (raiseIrq s pg b).lms = s.lms := rfl
@[simp] theorem raiseIrq_fab (s : State) (pg : PageId) (b : Reg32) : (raiseIrq s pg b).fab = s.fab := rfl

/-! ## modLmc -/

@[simp] theorem modLmc_pending (s : State) (n : Fin 12) (f : Lmc → Lmc) : (modLmc s n f).pending = s.pending := rfl
@[simp] theorem modLmc_ml (s : State) (n : Fin 12) (f : Lmc → Lmc) : (modLmc s n f).ml = s.ml := rfl
@[simp] theorem modLmc_free (s : State) (n : Fin 12) (f : Lmc → Lmc) : (modLmc s n f).free = s.free := rfl
@[simp] theorem modLmc_out (s : State) (n : Fin 12) (f : Lmc → Lmc) : (modLmc s n f).out = s.out := rfl
@[simp] theorem modLmc_mem (s : State) (n : Fin 12) (f : Lmc → Lmc) : (modLmc s n f).mem = s.mem := rfl
@[simp] theorem modLmc_poison (s : State) (n : Fin 12) (f : Lmc → Lmc) : (modLmc s n f).poison = s.poison := rfl
@[simp] theorem modLmc_upset (s : State) (n : Fin 12) (f : Lmc → Lmc) : (modLmc s n f).upset = s.upset := rfl
@[simp] theorem modLmc_parked (s : State) (n : Fin 12) (f : Lmc → Lmc) : (modLmc s n f).parked = s.parked := rfl
@[simp] theorem modLmc_qmem (s : State) (n : Fin 12) (f : Lmc → Lmc) : (modLmc s n f).qmem = s.qmem := rfl
@[simp] theorem modLmc_pages (s : State) (n : Fin 12) (f : Lmc → Lmc) : (modLmc s n f).pages = s.pages := rfl
@[simp] theorem modLmc_latch (s : State) (n : Fin 12) (f : Lmc → Lmc) : (modLmc s n f).latch = s.latch := rfl
@[simp] theorem modLmc_glb (s : State) (n : Fin 12) (f : Lmc → Lmc) : (modLmc s n f).glb = s.glb := rfl
@[simp] theorem modLmc_pwr (s : State) (n : Fin 12) (f : Lmc → Lmc) : (modLmc s n f).pwr = s.pwr := rfl
@[simp] theorem modLmc_evr (s : State) (n : Fin 12) (f : Lmc → Lmc) : (modLmc s n f).evr = s.evr := rfl
@[simp] theorem modLmc_evc (s : State) (n : Fin 12) (f : Lmc → Lmc) : (modLmc s n f).evc = s.evc := rfl
@[simp] theorem modLmc_hl (s : State) (n : Fin 12) (f : Lmc → Lmc) : (modLmc s n f).hl = s.hl := rfl
@[simp] theorem modLmc_rqe (s : State) (n : Fin 12) (f : Lmc → Lmc) : (modLmc s n f).rqe = s.rqe := rfl
@[simp] theorem modLmc_dau (s : State) (n : Fin 12) (f : Lmc → Lmc) : (modLmc s n f).dau = s.dau := rfl
@[simp] theorem modLmc_csc (s : State) (n : Fin 12) (f : Lmc → Lmc) : (modLmc s n f).csc = s.csc := rfl
@[simp] theorem modLmc_ctxs (s : State) (n : Fin 12) (f : Lmc → Lmc) : (modLmc s n f).ctxs = s.ctxs := rfl
@[simp] theorem modLmc_objs (s : State) (n : Fin 12) (f : Lmc → Lmc) : (modLmc s n f).objs = s.objs := rfl
@[simp] theorem modLmc_xpts (s : State) (n : Fin 12) (f : Lmc → Lmc) : (modLmc s n f).xpts = s.xpts := rfl
@[simp] theorem modLmc_map (s : State) (n : Fin 12) (f : Lmc → Lmc) : (modLmc s n f).map = s.map := rfl
@[simp] theorem modLmc_pipes (s : State) (n : Fin 12) (f : Lmc → Lmc) : (modLmc s n f).pipes = s.pipes := rfl
@[simp] theorem modLmc_seqs (s : State) (n : Fin 12) (f : Lmc → Lmc) : (modLmc s n f).seqs = s.seqs := rfl
@[simp] theorem modLmc_dir (s : State) (n : Fin 12) (f : Lmc → Lmc) : (modLmc s n f).dir = s.dir := rfl
@[simp] theorem modLmc_lms (s : State) (n : Fin 12) (f : Lmc → Lmc) : (modLmc s n f).lms = s.lms := rfl
@[simp] theorem modLmc_fab (s : State) (n : Fin 12) (f : Lmc → Lmc) : (modLmc s n f).fab = s.fab := rfl

/-! ## modXpt -/

@[simp] theorem modXpt_pending (s : State) (p : Fin 6) (f : Xpt → Xpt) : (modXpt s p f).pending = s.pending := rfl
@[simp] theorem modXpt_ml (s : State) (p : Fin 6) (f : Xpt → Xpt) : (modXpt s p f).ml = s.ml := rfl
@[simp] theorem modXpt_free (s : State) (p : Fin 6) (f : Xpt → Xpt) : (modXpt s p f).free = s.free := rfl
@[simp] theorem modXpt_out (s : State) (p : Fin 6) (f : Xpt → Xpt) : (modXpt s p f).out = s.out := rfl
@[simp] theorem modXpt_mem (s : State) (p : Fin 6) (f : Xpt → Xpt) : (modXpt s p f).mem = s.mem := rfl
@[simp] theorem modXpt_poison (s : State) (p : Fin 6) (f : Xpt → Xpt) : (modXpt s p f).poison = s.poison := rfl
@[simp] theorem modXpt_upset (s : State) (p : Fin 6) (f : Xpt → Xpt) : (modXpt s p f).upset = s.upset := rfl
@[simp] theorem modXpt_parked (s : State) (p : Fin 6) (f : Xpt → Xpt) : (modXpt s p f).parked = s.parked := rfl
@[simp] theorem modXpt_qmem (s : State) (p : Fin 6) (f : Xpt → Xpt) : (modXpt s p f).qmem = s.qmem := rfl
@[simp] theorem modXpt_pages (s : State) (p : Fin 6) (f : Xpt → Xpt) : (modXpt s p f).pages = s.pages := rfl
@[simp] theorem modXpt_latch (s : State) (p : Fin 6) (f : Xpt → Xpt) : (modXpt s p f).latch = s.latch := rfl
@[simp] theorem modXpt_glb (s : State) (p : Fin 6) (f : Xpt → Xpt) : (modXpt s p f).glb = s.glb := rfl
@[simp] theorem modXpt_pwr (s : State) (p : Fin 6) (f : Xpt → Xpt) : (modXpt s p f).pwr = s.pwr := rfl
@[simp] theorem modXpt_evr (s : State) (p : Fin 6) (f : Xpt → Xpt) : (modXpt s p f).evr = s.evr := rfl
@[simp] theorem modXpt_evc (s : State) (p : Fin 6) (f : Xpt → Xpt) : (modXpt s p f).evc = s.evc := rfl
@[simp] theorem modXpt_hl (s : State) (p : Fin 6) (f : Xpt → Xpt) : (modXpt s p f).hl = s.hl := rfl
@[simp] theorem modXpt_rqe (s : State) (p : Fin 6) (f : Xpt → Xpt) : (modXpt s p f).rqe = s.rqe := rfl
@[simp] theorem modXpt_dau (s : State) (p : Fin 6) (f : Xpt → Xpt) : (modXpt s p f).dau = s.dau := rfl
@[simp] theorem modXpt_csc (s : State) (p : Fin 6) (f : Xpt → Xpt) : (modXpt s p f).csc = s.csc := rfl
@[simp] theorem modXpt_ctxs (s : State) (p : Fin 6) (f : Xpt → Xpt) : (modXpt s p f).ctxs = s.ctxs := rfl
@[simp] theorem modXpt_objs (s : State) (p : Fin 6) (f : Xpt → Xpt) : (modXpt s p f).objs = s.objs := rfl
@[simp] theorem modXpt_lmcs (s : State) (p : Fin 6) (f : Xpt → Xpt) : (modXpt s p f).lmcs = s.lmcs := rfl
@[simp] theorem modXpt_map (s : State) (p : Fin 6) (f : Xpt → Xpt) : (modXpt s p f).map = s.map := rfl
@[simp] theorem modXpt_pipes (s : State) (p : Fin 6) (f : Xpt → Xpt) : (modXpt s p f).pipes = s.pipes := rfl
@[simp] theorem modXpt_seqs (s : State) (p : Fin 6) (f : Xpt → Xpt) : (modXpt s p f).seqs = s.seqs := rfl
@[simp] theorem modXpt_dir (s : State) (p : Fin 6) (f : Xpt → Xpt) : (modXpt s p f).dir = s.dir := rfl
@[simp] theorem modXpt_lms (s : State) (p : Fin 6) (f : Xpt → Xpt) : (modXpt s p f).lms = s.lms := rfl
@[simp] theorem modXpt_fab (s : State) (p : Fin 6) (f : Xpt → Xpt) : (modXpt s p f).fab = s.fab := rfl

/-! ## modIsl -/

@[simp] theorem modIsl_pending (s : State) (i : Fin 34) (f : Island → Island) : (modIsl s i f).pending = s.pending := rfl
@[simp] theorem modIsl_ml (s : State) (i : Fin 34) (f : Island → Island) : (modIsl s i f).ml = s.ml := rfl
@[simp] theorem modIsl_free (s : State) (i : Fin 34) (f : Island → Island) : (modIsl s i f).free = s.free := rfl
@[simp] theorem modIsl_out (s : State) (i : Fin 34) (f : Island → Island) : (modIsl s i f).out = s.out := rfl
@[simp] theorem modIsl_mem (s : State) (i : Fin 34) (f : Island → Island) : (modIsl s i f).mem = s.mem := rfl
@[simp] theorem modIsl_poison (s : State) (i : Fin 34) (f : Island → Island) : (modIsl s i f).poison = s.poison := rfl
@[simp] theorem modIsl_upset (s : State) (i : Fin 34) (f : Island → Island) : (modIsl s i f).upset = s.upset := rfl
@[simp] theorem modIsl_parked (s : State) (i : Fin 34) (f : Island → Island) : (modIsl s i f).parked = s.parked := rfl
@[simp] theorem modIsl_qmem (s : State) (i : Fin 34) (f : Island → Island) : (modIsl s i f).qmem = s.qmem := rfl
@[simp] theorem modIsl_pages (s : State) (i : Fin 34) (f : Island → Island) : (modIsl s i f).pages = s.pages := rfl
@[simp] theorem modIsl_latch (s : State) (i : Fin 34) (f : Island → Island) : (modIsl s i f).latch = s.latch := rfl
@[simp] theorem modIsl_glb (s : State) (i : Fin 34) (f : Island → Island) : (modIsl s i f).glb = s.glb := rfl
@[simp] theorem modIsl_evr (s : State) (i : Fin 34) (f : Island → Island) : (modIsl s i f).evr = s.evr := rfl
@[simp] theorem modIsl_evc (s : State) (i : Fin 34) (f : Island → Island) : (modIsl s i f).evc = s.evc := rfl
@[simp] theorem modIsl_hl (s : State) (i : Fin 34) (f : Island → Island) : (modIsl s i f).hl = s.hl := rfl
@[simp] theorem modIsl_rqe (s : State) (i : Fin 34) (f : Island → Island) : (modIsl s i f).rqe = s.rqe := rfl
@[simp] theorem modIsl_dau (s : State) (i : Fin 34) (f : Island → Island) : (modIsl s i f).dau = s.dau := rfl
@[simp] theorem modIsl_csc (s : State) (i : Fin 34) (f : Island → Island) : (modIsl s i f).csc = s.csc := rfl
@[simp] theorem modIsl_ctxs (s : State) (i : Fin 34) (f : Island → Island) : (modIsl s i f).ctxs = s.ctxs := rfl
@[simp] theorem modIsl_objs (s : State) (i : Fin 34) (f : Island → Island) : (modIsl s i f).objs = s.objs := rfl
@[simp] theorem modIsl_lmcs (s : State) (i : Fin 34) (f : Island → Island) : (modIsl s i f).lmcs = s.lmcs := rfl
@[simp] theorem modIsl_xpts (s : State) (i : Fin 34) (f : Island → Island) : (modIsl s i f).xpts = s.xpts := rfl
@[simp] theorem modIsl_map (s : State) (i : Fin 34) (f : Island → Island) : (modIsl s i f).map = s.map := rfl
@[simp] theorem modIsl_pipes (s : State) (i : Fin 34) (f : Island → Island) : (modIsl s i f).pipes = s.pipes := rfl
@[simp] theorem modIsl_seqs (s : State) (i : Fin 34) (f : Island → Island) : (modIsl s i f).seqs = s.seqs := rfl
@[simp] theorem modIsl_dir (s : State) (i : Fin 34) (f : Island → Island) : (modIsl s i f).dir = s.dir := rfl
@[simp] theorem modIsl_lms (s : State) (i : Fin 34) (f : Island → Island) : (modIsl s i f).lms = s.lms := rfl
@[simp] theorem modIsl_fab (s : State) (i : Fin 34) (f : Island → Island) : (modIsl s i f).fab = s.fab := rfl

/-! ## bumpEpoch -/

@[simp] theorem bumpEpoch_pending (s : State) : (bumpEpoch s).pending = s.pending := rfl
@[simp] theorem bumpEpoch_ml (s : State) : (bumpEpoch s).ml = s.ml := rfl
@[simp] theorem bumpEpoch_free (s : State) : (bumpEpoch s).free = s.free := rfl
@[simp] theorem bumpEpoch_out (s : State) : (bumpEpoch s).out = s.out := rfl
@[simp] theorem bumpEpoch_mem (s : State) : (bumpEpoch s).mem = s.mem := rfl
@[simp] theorem bumpEpoch_poison (s : State) : (bumpEpoch s).poison = s.poison := rfl
@[simp] theorem bumpEpoch_upset (s : State) : (bumpEpoch s).upset = s.upset := rfl
@[simp] theorem bumpEpoch_parked (s : State) : (bumpEpoch s).parked = s.parked := rfl
@[simp] theorem bumpEpoch_qmem (s : State) : (bumpEpoch s).qmem = s.qmem := rfl
@[simp] theorem bumpEpoch_pages (s : State) : (bumpEpoch s).pages = s.pages := rfl
@[simp] theorem bumpEpoch_latch (s : State) : (bumpEpoch s).latch = s.latch := rfl
@[simp] theorem bumpEpoch_glb (s : State) : (bumpEpoch s).glb = s.glb := rfl
@[simp] theorem bumpEpoch_evr (s : State) : (bumpEpoch s).evr = s.evr := rfl
@[simp] theorem bumpEpoch_evc (s : State) : (bumpEpoch s).evc = s.evc := rfl
@[simp] theorem bumpEpoch_hl (s : State) : (bumpEpoch s).hl = s.hl := rfl
@[simp] theorem bumpEpoch_rqe (s : State) : (bumpEpoch s).rqe = s.rqe := rfl
@[simp] theorem bumpEpoch_dau (s : State) : (bumpEpoch s).dau = s.dau := rfl
@[simp] theorem bumpEpoch_csc (s : State) : (bumpEpoch s).csc = s.csc := rfl
@[simp] theorem bumpEpoch_ctxs (s : State) : (bumpEpoch s).ctxs = s.ctxs := rfl
@[simp] theorem bumpEpoch_objs (s : State) : (bumpEpoch s).objs = s.objs := rfl
@[simp] theorem bumpEpoch_lmcs (s : State) : (bumpEpoch s).lmcs = s.lmcs := rfl
@[simp] theorem bumpEpoch_xpts (s : State) : (bumpEpoch s).xpts = s.xpts := rfl
@[simp] theorem bumpEpoch_map (s : State) : (bumpEpoch s).map = s.map := rfl
@[simp] theorem bumpEpoch_pipes (s : State) : (bumpEpoch s).pipes = s.pipes := rfl
@[simp] theorem bumpEpoch_seqs (s : State) : (bumpEpoch s).seqs = s.seqs := rfl
@[simp] theorem bumpEpoch_dir (s : State) : (bumpEpoch s).dir = s.dir := rfl
@[simp] theorem bumpEpoch_lms (s : State) : (bumpEpoch s).lms = s.lms := rfl
@[simp] theorem bumpEpoch_fab (s : State) : (bumpEpoch s).fab = s.fab := rfl

/-! ## setCtx -/

@[simp] theorem setCtx_pending (s : State) (c : Nat) (x : Ctx) : (setCtx s c x).pending = s.pending := rfl
@[simp] theorem setCtx_ml (s : State) (c : Nat) (x : Ctx) : (setCtx s c x).ml = s.ml := rfl
@[simp] theorem setCtx_free (s : State) (c : Nat) (x : Ctx) : (setCtx s c x).free = s.free := rfl
@[simp] theorem setCtx_out (s : State) (c : Nat) (x : Ctx) : (setCtx s c x).out = s.out := rfl
@[simp] theorem setCtx_mem (s : State) (c : Nat) (x : Ctx) : (setCtx s c x).mem = s.mem := rfl
@[simp] theorem setCtx_poison (s : State) (c : Nat) (x : Ctx) : (setCtx s c x).poison = s.poison := rfl
@[simp] theorem setCtx_upset (s : State) (c : Nat) (x : Ctx) : (setCtx s c x).upset = s.upset := rfl
@[simp] theorem setCtx_parked (s : State) (c : Nat) (x : Ctx) : (setCtx s c x).parked = s.parked := rfl
@[simp] theorem setCtx_qmem (s : State) (c : Nat) (x : Ctx) : (setCtx s c x).qmem = s.qmem := rfl
@[simp] theorem setCtx_pages (s : State) (c : Nat) (x : Ctx) : (setCtx s c x).pages = s.pages := rfl
@[simp] theorem setCtx_latch (s : State) (c : Nat) (x : Ctx) : (setCtx s c x).latch = s.latch := rfl
@[simp] theorem setCtx_glb (s : State) (c : Nat) (x : Ctx) : (setCtx s c x).glb = s.glb := rfl
@[simp] theorem setCtx_pwr (s : State) (c : Nat) (x : Ctx) : (setCtx s c x).pwr = s.pwr := rfl
@[simp] theorem setCtx_evr (s : State) (c : Nat) (x : Ctx) : (setCtx s c x).evr = s.evr := rfl
@[simp] theorem setCtx_evc (s : State) (c : Nat) (x : Ctx) : (setCtx s c x).evc = s.evc := rfl
@[simp] theorem setCtx_hl (s : State) (c : Nat) (x : Ctx) : (setCtx s c x).hl = s.hl := rfl
@[simp] theorem setCtx_rqe (s : State) (c : Nat) (x : Ctx) : (setCtx s c x).rqe = s.rqe := rfl
@[simp] theorem setCtx_dau (s : State) (c : Nat) (x : Ctx) : (setCtx s c x).dau = s.dau := rfl
@[simp] theorem setCtx_csc (s : State) (c : Nat) (x : Ctx) : (setCtx s c x).csc = s.csc := rfl
@[simp] theorem setCtx_objs (s : State) (c : Nat) (x : Ctx) : (setCtx s c x).objs = s.objs := rfl
@[simp] theorem setCtx_lmcs (s : State) (c : Nat) (x : Ctx) : (setCtx s c x).lmcs = s.lmcs := rfl
@[simp] theorem setCtx_xpts (s : State) (c : Nat) (x : Ctx) : (setCtx s c x).xpts = s.xpts := rfl
@[simp] theorem setCtx_map (s : State) (c : Nat) (x : Ctx) : (setCtx s c x).map = s.map := rfl
@[simp] theorem setCtx_pipes (s : State) (c : Nat) (x : Ctx) : (setCtx s c x).pipes = s.pipes := rfl
@[simp] theorem setCtx_seqs (s : State) (c : Nat) (x : Ctx) : (setCtx s c x).seqs = s.seqs := rfl
@[simp] theorem setCtx_dir (s : State) (c : Nat) (x : Ctx) : (setCtx s c x).dir = s.dir := rfl
@[simp] theorem setCtx_lms (s : State) (c : Nat) (x : Ctx) : (setCtx s c x).lms = s.lms := rfl
@[simp] theorem setCtx_fab (s : State) (c : Nat) (x : Ctx) : (setCtx s c x).fab = s.fab := rfl

/-! ## modCtx -/

@[simp] theorem modCtx_pending (s : State) (c : Nat) (f : Ctx → Ctx) : (modCtx s c f).pending = s.pending := rfl
@[simp] theorem modCtx_ml (s : State) (c : Nat) (f : Ctx → Ctx) : (modCtx s c f).ml = s.ml := rfl
@[simp] theorem modCtx_free (s : State) (c : Nat) (f : Ctx → Ctx) : (modCtx s c f).free = s.free := rfl
@[simp] theorem modCtx_out (s : State) (c : Nat) (f : Ctx → Ctx) : (modCtx s c f).out = s.out := rfl
@[simp] theorem modCtx_mem (s : State) (c : Nat) (f : Ctx → Ctx) : (modCtx s c f).mem = s.mem := rfl
@[simp] theorem modCtx_poison (s : State) (c : Nat) (f : Ctx → Ctx) : (modCtx s c f).poison = s.poison := rfl
@[simp] theorem modCtx_upset (s : State) (c : Nat) (f : Ctx → Ctx) : (modCtx s c f).upset = s.upset := rfl
@[simp] theorem modCtx_parked (s : State) (c : Nat) (f : Ctx → Ctx) : (modCtx s c f).parked = s.parked := rfl
@[simp] theorem modCtx_qmem (s : State) (c : Nat) (f : Ctx → Ctx) : (modCtx s c f).qmem = s.qmem := rfl
@[simp] theorem modCtx_pages (s : State) (c : Nat) (f : Ctx → Ctx) : (modCtx s c f).pages = s.pages := rfl
@[simp] theorem modCtx_latch (s : State) (c : Nat) (f : Ctx → Ctx) : (modCtx s c f).latch = s.latch := rfl
@[simp] theorem modCtx_glb (s : State) (c : Nat) (f : Ctx → Ctx) : (modCtx s c f).glb = s.glb := rfl
@[simp] theorem modCtx_pwr (s : State) (c : Nat) (f : Ctx → Ctx) : (modCtx s c f).pwr = s.pwr := rfl
@[simp] theorem modCtx_evr (s : State) (c : Nat) (f : Ctx → Ctx) : (modCtx s c f).evr = s.evr := rfl
@[simp] theorem modCtx_evc (s : State) (c : Nat) (f : Ctx → Ctx) : (modCtx s c f).evc = s.evc := rfl
@[simp] theorem modCtx_hl (s : State) (c : Nat) (f : Ctx → Ctx) : (modCtx s c f).hl = s.hl := rfl
@[simp] theorem modCtx_rqe (s : State) (c : Nat) (f : Ctx → Ctx) : (modCtx s c f).rqe = s.rqe := rfl
@[simp] theorem modCtx_dau (s : State) (c : Nat) (f : Ctx → Ctx) : (modCtx s c f).dau = s.dau := rfl
@[simp] theorem modCtx_csc (s : State) (c : Nat) (f : Ctx → Ctx) : (modCtx s c f).csc = s.csc := rfl
@[simp] theorem modCtx_objs (s : State) (c : Nat) (f : Ctx → Ctx) : (modCtx s c f).objs = s.objs := rfl
@[simp] theorem modCtx_lmcs (s : State) (c : Nat) (f : Ctx → Ctx) : (modCtx s c f).lmcs = s.lmcs := rfl
@[simp] theorem modCtx_xpts (s : State) (c : Nat) (f : Ctx → Ctx) : (modCtx s c f).xpts = s.xpts := rfl
@[simp] theorem modCtx_map (s : State) (c : Nat) (f : Ctx → Ctx) : (modCtx s c f).map = s.map := rfl
@[simp] theorem modCtx_pipes (s : State) (c : Nat) (f : Ctx → Ctx) : (modCtx s c f).pipes = s.pipes := rfl
@[simp] theorem modCtx_seqs (s : State) (c : Nat) (f : Ctx → Ctx) : (modCtx s c f).seqs = s.seqs := rfl
@[simp] theorem modCtx_dir (s : State) (c : Nat) (f : Ctx → Ctx) : (modCtx s c f).dir = s.dir := rfl
@[simp] theorem modCtx_lms (s : State) (c : Nat) (f : Ctx → Ctx) : (modCtx s c f).lms = s.lms := rfl
@[simp] theorem modCtx_fab (s : State) (c : Nat) (f : Ctx → Ctx) : (modCtx s c f).fab = s.fab := rfl

/-! ## charge -/

@[simp] theorem charge_pending (s : State) (c : Nat) (k : Fin 11) (n : Nat) : (charge s c k n).pending = s.pending := rfl
@[simp] theorem charge_ml (s : State) (c : Nat) (k : Fin 11) (n : Nat) : (charge s c k n).ml = s.ml := rfl
@[simp] theorem charge_free (s : State) (c : Nat) (k : Fin 11) (n : Nat) : (charge s c k n).free = s.free := rfl
@[simp] theorem charge_out (s : State) (c : Nat) (k : Fin 11) (n : Nat) : (charge s c k n).out = s.out := rfl
@[simp] theorem charge_mem (s : State) (c : Nat) (k : Fin 11) (n : Nat) : (charge s c k n).mem = s.mem := rfl
@[simp] theorem charge_poison (s : State) (c : Nat) (k : Fin 11) (n : Nat) : (charge s c k n).poison = s.poison := rfl
@[simp] theorem charge_upset (s : State) (c : Nat) (k : Fin 11) (n : Nat) : (charge s c k n).upset = s.upset := rfl
@[simp] theorem charge_parked (s : State) (c : Nat) (k : Fin 11) (n : Nat) : (charge s c k n).parked = s.parked := rfl
@[simp] theorem charge_qmem (s : State) (c : Nat) (k : Fin 11) (n : Nat) : (charge s c k n).qmem = s.qmem := rfl
@[simp] theorem charge_pages (s : State) (c : Nat) (k : Fin 11) (n : Nat) : (charge s c k n).pages = s.pages := rfl
@[simp] theorem charge_latch (s : State) (c : Nat) (k : Fin 11) (n : Nat) : (charge s c k n).latch = s.latch := rfl
@[simp] theorem charge_glb (s : State) (c : Nat) (k : Fin 11) (n : Nat) : (charge s c k n).glb = s.glb := rfl
@[simp] theorem charge_pwr (s : State) (c : Nat) (k : Fin 11) (n : Nat) : (charge s c k n).pwr = s.pwr := rfl
@[simp] theorem charge_evr (s : State) (c : Nat) (k : Fin 11) (n : Nat) : (charge s c k n).evr = s.evr := rfl
@[simp] theorem charge_evc (s : State) (c : Nat) (k : Fin 11) (n : Nat) : (charge s c k n).evc = s.evc := rfl
@[simp] theorem charge_hl (s : State) (c : Nat) (k : Fin 11) (n : Nat) : (charge s c k n).hl = s.hl := rfl
@[simp] theorem charge_rqe (s : State) (c : Nat) (k : Fin 11) (n : Nat) : (charge s c k n).rqe = s.rqe := rfl
@[simp] theorem charge_dau (s : State) (c : Nat) (k : Fin 11) (n : Nat) : (charge s c k n).dau = s.dau := rfl
@[simp] theorem charge_csc (s : State) (c : Nat) (k : Fin 11) (n : Nat) : (charge s c k n).csc = s.csc := rfl
@[simp] theorem charge_objs (s : State) (c : Nat) (k : Fin 11) (n : Nat) : (charge s c k n).objs = s.objs := rfl
@[simp] theorem charge_lmcs (s : State) (c : Nat) (k : Fin 11) (n : Nat) : (charge s c k n).lmcs = s.lmcs := rfl
@[simp] theorem charge_xpts (s : State) (c : Nat) (k : Fin 11) (n : Nat) : (charge s c k n).xpts = s.xpts := rfl
@[simp] theorem charge_map (s : State) (c : Nat) (k : Fin 11) (n : Nat) : (charge s c k n).map = s.map := rfl
@[simp] theorem charge_pipes (s : State) (c : Nat) (k : Fin 11) (n : Nat) : (charge s c k n).pipes = s.pipes := rfl
@[simp] theorem charge_seqs (s : State) (c : Nat) (k : Fin 11) (n : Nat) : (charge s c k n).seqs = s.seqs := rfl
@[simp] theorem charge_dir (s : State) (c : Nat) (k : Fin 11) (n : Nat) : (charge s c k n).dir = s.dir := rfl
@[simp] theorem charge_lms (s : State) (c : Nat) (k : Fin 11) (n : Nat) : (charge s c k n).lms = s.lms := rfl
@[simp] theorem charge_fab (s : State) (c : Nat) (k : Fin 11) (n : Nat) : (charge s c k n).fab = s.fab := rfl

/-! ## setQp -/

@[simp] theorem setQp_pending (s : State) (g : Nat) (x : Qp) : (setQp s g x).pending = s.pending := rfl
@[simp] theorem setQp_ml (s : State) (g : Nat) (x : Qp) : (setQp s g x).ml = s.ml := rfl
@[simp] theorem setQp_free (s : State) (g : Nat) (x : Qp) : (setQp s g x).free = s.free := rfl
@[simp] theorem setQp_out (s : State) (g : Nat) (x : Qp) : (setQp s g x).out = s.out := rfl
@[simp] theorem setQp_mem (s : State) (g : Nat) (x : Qp) : (setQp s g x).mem = s.mem := rfl
@[simp] theorem setQp_poison (s : State) (g : Nat) (x : Qp) : (setQp s g x).poison = s.poison := rfl
@[simp] theorem setQp_upset (s : State) (g : Nat) (x : Qp) : (setQp s g x).upset = s.upset := rfl
@[simp] theorem setQp_parked (s : State) (g : Nat) (x : Qp) : (setQp s g x).parked = s.parked := rfl
@[simp] theorem setQp_qmem (s : State) (g : Nat) (x : Qp) : (setQp s g x).qmem = s.qmem := rfl
@[simp] theorem setQp_pages (s : State) (g : Nat) (x : Qp) : (setQp s g x).pages = s.pages := rfl
@[simp] theorem setQp_latch (s : State) (g : Nat) (x : Qp) : (setQp s g x).latch = s.latch := rfl
@[simp] theorem setQp_glb (s : State) (g : Nat) (x : Qp) : (setQp s g x).glb = s.glb := rfl
@[simp] theorem setQp_pwr (s : State) (g : Nat) (x : Qp) : (setQp s g x).pwr = s.pwr := rfl
@[simp] theorem setQp_evr (s : State) (g : Nat) (x : Qp) : (setQp s g x).evr = s.evr := rfl
@[simp] theorem setQp_evc (s : State) (g : Nat) (x : Qp) : (setQp s g x).evc = s.evc := rfl
@[simp] theorem setQp_hl (s : State) (g : Nat) (x : Qp) : (setQp s g x).hl = s.hl := rfl
@[simp] theorem setQp_dau (s : State) (g : Nat) (x : Qp) : (setQp s g x).dau = s.dau := rfl
@[simp] theorem setQp_csc (s : State) (g : Nat) (x : Qp) : (setQp s g x).csc = s.csc := rfl
@[simp] theorem setQp_ctxs (s : State) (g : Nat) (x : Qp) : (setQp s g x).ctxs = s.ctxs := rfl
@[simp] theorem setQp_objs (s : State) (g : Nat) (x : Qp) : (setQp s g x).objs = s.objs := rfl
@[simp] theorem setQp_lmcs (s : State) (g : Nat) (x : Qp) : (setQp s g x).lmcs = s.lmcs := rfl
@[simp] theorem setQp_xpts (s : State) (g : Nat) (x : Qp) : (setQp s g x).xpts = s.xpts := rfl
@[simp] theorem setQp_map (s : State) (g : Nat) (x : Qp) : (setQp s g x).map = s.map := rfl
@[simp] theorem setQp_pipes (s : State) (g : Nat) (x : Qp) : (setQp s g x).pipes = s.pipes := rfl
@[simp] theorem setQp_seqs (s : State) (g : Nat) (x : Qp) : (setQp s g x).seqs = s.seqs := rfl
@[simp] theorem setQp_dir (s : State) (g : Nat) (x : Qp) : (setQp s g x).dir = s.dir := rfl
@[simp] theorem setQp_lms (s : State) (g : Nat) (x : Qp) : (setQp s g x).lms = s.lms := rfl
@[simp] theorem setQp_fab (s : State) (g : Nat) (x : Qp) : (setQp s g x).fab = s.fab := rfl

/-! ## setDir -/

@[simp] theorem setDir_pending (s : State) (h : Nat) (x : Directory) : (setDir s h x).pending = s.pending := rfl
@[simp] theorem setDir_ml (s : State) (h : Nat) (x : Directory) : (setDir s h x).ml = s.ml := rfl
@[simp] theorem setDir_free (s : State) (h : Nat) (x : Directory) : (setDir s h x).free = s.free := rfl
@[simp] theorem setDir_out (s : State) (h : Nat) (x : Directory) : (setDir s h x).out = s.out := rfl
@[simp] theorem setDir_mem (s : State) (h : Nat) (x : Directory) : (setDir s h x).mem = s.mem := rfl
@[simp] theorem setDir_poison (s : State) (h : Nat) (x : Directory) : (setDir s h x).poison = s.poison := rfl
@[simp] theorem setDir_upset (s : State) (h : Nat) (x : Directory) : (setDir s h x).upset = s.upset := rfl
@[simp] theorem setDir_parked (s : State) (h : Nat) (x : Directory) : (setDir s h x).parked = s.parked := rfl
@[simp] theorem setDir_qmem (s : State) (h : Nat) (x : Directory) : (setDir s h x).qmem = s.qmem := rfl
@[simp] theorem setDir_pages (s : State) (h : Nat) (x : Directory) : (setDir s h x).pages = s.pages := rfl
@[simp] theorem setDir_latch (s : State) (h : Nat) (x : Directory) : (setDir s h x).latch = s.latch := rfl
@[simp] theorem setDir_glb (s : State) (h : Nat) (x : Directory) : (setDir s h x).glb = s.glb := rfl
@[simp] theorem setDir_pwr (s : State) (h : Nat) (x : Directory) : (setDir s h x).pwr = s.pwr := rfl
@[simp] theorem setDir_evr (s : State) (h : Nat) (x : Directory) : (setDir s h x).evr = s.evr := rfl
@[simp] theorem setDir_evc (s : State) (h : Nat) (x : Directory) : (setDir s h x).evc = s.evc := rfl
@[simp] theorem setDir_hl (s : State) (h : Nat) (x : Directory) : (setDir s h x).hl = s.hl := rfl
@[simp] theorem setDir_rqe (s : State) (h : Nat) (x : Directory) : (setDir s h x).rqe = s.rqe := rfl
@[simp] theorem setDir_dau (s : State) (h : Nat) (x : Directory) : (setDir s h x).dau = s.dau := rfl
@[simp] theorem setDir_csc (s : State) (h : Nat) (x : Directory) : (setDir s h x).csc = s.csc := rfl
@[simp] theorem setDir_ctxs (s : State) (h : Nat) (x : Directory) : (setDir s h x).ctxs = s.ctxs := rfl
@[simp] theorem setDir_objs (s : State) (h : Nat) (x : Directory) : (setDir s h x).objs = s.objs := rfl
@[simp] theorem setDir_lmcs (s : State) (h : Nat) (x : Directory) : (setDir s h x).lmcs = s.lmcs := rfl
@[simp] theorem setDir_xpts (s : State) (h : Nat) (x : Directory) : (setDir s h x).xpts = s.xpts := rfl
@[simp] theorem setDir_map (s : State) (h : Nat) (x : Directory) : (setDir s h x).map = s.map := rfl
@[simp] theorem setDir_pipes (s : State) (h : Nat) (x : Directory) : (setDir s h x).pipes = s.pipes := rfl
@[simp] theorem setDir_seqs (s : State) (h : Nat) (x : Directory) : (setDir s h x).seqs = s.seqs := rfl
@[simp] theorem setDir_lms (s : State) (h : Nat) (x : Directory) : (setDir s h x).lms = s.lms := rfl
@[simp] theorem setDir_fab (s : State) (h : Nat) (x : Directory) : (setDir s h x).fab = s.fab := rfl

/-! ## setVault -/

@[simp] theorem setVault_pending (s : State) (k : Nat) (x : VaultSlot) : (setVault s k x).pending = s.pending := rfl
@[simp] theorem setVault_ml (s : State) (k : Nat) (x : VaultSlot) : (setVault s k x).ml = s.ml := rfl
@[simp] theorem setVault_free (s : State) (k : Nat) (x : VaultSlot) : (setVault s k x).free = s.free := rfl
@[simp] theorem setVault_out (s : State) (k : Nat) (x : VaultSlot) : (setVault s k x).out = s.out := rfl
@[simp] theorem setVault_mem (s : State) (k : Nat) (x : VaultSlot) : (setVault s k x).mem = s.mem := rfl
@[simp] theorem setVault_poison (s : State) (k : Nat) (x : VaultSlot) : (setVault s k x).poison = s.poison := rfl
@[simp] theorem setVault_upset (s : State) (k : Nat) (x : VaultSlot) : (setVault s k x).upset = s.upset := rfl
@[simp] theorem setVault_parked (s : State) (k : Nat) (x : VaultSlot) : (setVault s k x).parked = s.parked := rfl
@[simp] theorem setVault_qmem (s : State) (k : Nat) (x : VaultSlot) : (setVault s k x).qmem = s.qmem := rfl
@[simp] theorem setVault_pages (s : State) (k : Nat) (x : VaultSlot) : (setVault s k x).pages = s.pages := rfl
@[simp] theorem setVault_latch (s : State) (k : Nat) (x : VaultSlot) : (setVault s k x).latch = s.latch := rfl
@[simp] theorem setVault_glb (s : State) (k : Nat) (x : VaultSlot) : (setVault s k x).glb = s.glb := rfl
@[simp] theorem setVault_pwr (s : State) (k : Nat) (x : VaultSlot) : (setVault s k x).pwr = s.pwr := rfl
@[simp] theorem setVault_evr (s : State) (k : Nat) (x : VaultSlot) : (setVault s k x).evr = s.evr := rfl
@[simp] theorem setVault_evc (s : State) (k : Nat) (x : VaultSlot) : (setVault s k x).evc = s.evc := rfl
@[simp] theorem setVault_hl (s : State) (k : Nat) (x : VaultSlot) : (setVault s k x).hl = s.hl := rfl
@[simp] theorem setVault_rqe (s : State) (k : Nat) (x : VaultSlot) : (setVault s k x).rqe = s.rqe := rfl
@[simp] theorem setVault_dau (s : State) (k : Nat) (x : VaultSlot) : (setVault s k x).dau = s.dau := rfl
@[simp] theorem setVault_csc (s : State) (k : Nat) (x : VaultSlot) : (setVault s k x).csc = s.csc := rfl
@[simp] theorem setVault_ctxs (s : State) (k : Nat) (x : VaultSlot) : (setVault s k x).ctxs = s.ctxs := rfl
@[simp] theorem setVault_lmcs (s : State) (k : Nat) (x : VaultSlot) : (setVault s k x).lmcs = s.lmcs := rfl
@[simp] theorem setVault_xpts (s : State) (k : Nat) (x : VaultSlot) : (setVault s k x).xpts = s.xpts := rfl
@[simp] theorem setVault_map (s : State) (k : Nat) (x : VaultSlot) : (setVault s k x).map = s.map := rfl
@[simp] theorem setVault_pipes (s : State) (k : Nat) (x : VaultSlot) : (setVault s k x).pipes = s.pipes := rfl
@[simp] theorem setVault_seqs (s : State) (k : Nat) (x : VaultSlot) : (setVault s k x).seqs = s.seqs := rfl
@[simp] theorem setVault_dir (s : State) (k : Nat) (x : VaultSlot) : (setVault s k x).dir = s.dir := rfl
@[simp] theorem setVault_lms (s : State) (k : Nat) (x : VaultSlot) : (setVault s k x).lms = s.lms := rfl
@[simp] theorem setVault_fab (s : State) (k : Nat) (x : VaultSlot) : (setVault s k x).fab = s.fab := rfl

/-! ## setSeg -/

@[simp] theorem setSeg_pending (s : State) (h : Nat) (x : Option SegObj) : (setSeg s h x).pending = s.pending := rfl
@[simp] theorem setSeg_ml (s : State) (h : Nat) (x : Option SegObj) : (setSeg s h x).ml = s.ml := rfl
@[simp] theorem setSeg_free (s : State) (h : Nat) (x : Option SegObj) : (setSeg s h x).free = s.free := rfl
@[simp] theorem setSeg_out (s : State) (h : Nat) (x : Option SegObj) : (setSeg s h x).out = s.out := rfl
@[simp] theorem setSeg_mem (s : State) (h : Nat) (x : Option SegObj) : (setSeg s h x).mem = s.mem := rfl
@[simp] theorem setSeg_poison (s : State) (h : Nat) (x : Option SegObj) : (setSeg s h x).poison = s.poison := rfl
@[simp] theorem setSeg_upset (s : State) (h : Nat) (x : Option SegObj) : (setSeg s h x).upset = s.upset := rfl
@[simp] theorem setSeg_parked (s : State) (h : Nat) (x : Option SegObj) : (setSeg s h x).parked = s.parked := rfl
@[simp] theorem setSeg_qmem (s : State) (h : Nat) (x : Option SegObj) : (setSeg s h x).qmem = s.qmem := rfl
@[simp] theorem setSeg_pages (s : State) (h : Nat) (x : Option SegObj) : (setSeg s h x).pages = s.pages := rfl
@[simp] theorem setSeg_latch (s : State) (h : Nat) (x : Option SegObj) : (setSeg s h x).latch = s.latch := rfl
@[simp] theorem setSeg_glb (s : State) (h : Nat) (x : Option SegObj) : (setSeg s h x).glb = s.glb := rfl
@[simp] theorem setSeg_pwr (s : State) (h : Nat) (x : Option SegObj) : (setSeg s h x).pwr = s.pwr := rfl
@[simp] theorem setSeg_evr (s : State) (h : Nat) (x : Option SegObj) : (setSeg s h x).evr = s.evr := rfl
@[simp] theorem setSeg_evc (s : State) (h : Nat) (x : Option SegObj) : (setSeg s h x).evc = s.evc := rfl
@[simp] theorem setSeg_hl (s : State) (h : Nat) (x : Option SegObj) : (setSeg s h x).hl = s.hl := rfl
@[simp] theorem setSeg_rqe (s : State) (h : Nat) (x : Option SegObj) : (setSeg s h x).rqe = s.rqe := rfl
@[simp] theorem setSeg_dau (s : State) (h : Nat) (x : Option SegObj) : (setSeg s h x).dau = s.dau := rfl
@[simp] theorem setSeg_csc (s : State) (h : Nat) (x : Option SegObj) : (setSeg s h x).csc = s.csc := rfl
@[simp] theorem setSeg_ctxs (s : State) (h : Nat) (x : Option SegObj) : (setSeg s h x).ctxs = s.ctxs := rfl
@[simp] theorem setSeg_lmcs (s : State) (h : Nat) (x : Option SegObj) : (setSeg s h x).lmcs = s.lmcs := rfl
@[simp] theorem setSeg_xpts (s : State) (h : Nat) (x : Option SegObj) : (setSeg s h x).xpts = s.xpts := rfl
@[simp] theorem setSeg_map (s : State) (h : Nat) (x : Option SegObj) : (setSeg s h x).map = s.map := rfl
@[simp] theorem setSeg_pipes (s : State) (h : Nat) (x : Option SegObj) : (setSeg s h x).pipes = s.pipes := rfl
@[simp] theorem setSeg_seqs (s : State) (h : Nat) (x : Option SegObj) : (setSeg s h x).seqs = s.seqs := rfl
@[simp] theorem setSeg_dir (s : State) (h : Nat) (x : Option SegObj) : (setSeg s h x).dir = s.dir := rfl
@[simp] theorem setSeg_lms (s : State) (h : Nat) (x : Option SegObj) : (setSeg s h x).lms = s.lms := rfl
@[simp] theorem setSeg_fab (s : State) (h : Nat) (x : Option SegObj) : (setSeg s h x).fab = s.fab := rfl

/-! ## setProg -/

@[simp] theorem setProg_pending (s : State) (h : Nat) (x : Option Prog) : (setProg s h x).pending = s.pending := rfl
@[simp] theorem setProg_ml (s : State) (h : Nat) (x : Option Prog) : (setProg s h x).ml = s.ml := rfl
@[simp] theorem setProg_free (s : State) (h : Nat) (x : Option Prog) : (setProg s h x).free = s.free := rfl
@[simp] theorem setProg_out (s : State) (h : Nat) (x : Option Prog) : (setProg s h x).out = s.out := rfl
@[simp] theorem setProg_mem (s : State) (h : Nat) (x : Option Prog) : (setProg s h x).mem = s.mem := rfl
@[simp] theorem setProg_poison (s : State) (h : Nat) (x : Option Prog) : (setProg s h x).poison = s.poison := rfl
@[simp] theorem setProg_upset (s : State) (h : Nat) (x : Option Prog) : (setProg s h x).upset = s.upset := rfl
@[simp] theorem setProg_parked (s : State) (h : Nat) (x : Option Prog) : (setProg s h x).parked = s.parked := rfl
@[simp] theorem setProg_qmem (s : State) (h : Nat) (x : Option Prog) : (setProg s h x).qmem = s.qmem := rfl
@[simp] theorem setProg_pages (s : State) (h : Nat) (x : Option Prog) : (setProg s h x).pages = s.pages := rfl
@[simp] theorem setProg_latch (s : State) (h : Nat) (x : Option Prog) : (setProg s h x).latch = s.latch := rfl
@[simp] theorem setProg_glb (s : State) (h : Nat) (x : Option Prog) : (setProg s h x).glb = s.glb := rfl
@[simp] theorem setProg_pwr (s : State) (h : Nat) (x : Option Prog) : (setProg s h x).pwr = s.pwr := rfl
@[simp] theorem setProg_evr (s : State) (h : Nat) (x : Option Prog) : (setProg s h x).evr = s.evr := rfl
@[simp] theorem setProg_evc (s : State) (h : Nat) (x : Option Prog) : (setProg s h x).evc = s.evc := rfl
@[simp] theorem setProg_hl (s : State) (h : Nat) (x : Option Prog) : (setProg s h x).hl = s.hl := rfl
@[simp] theorem setProg_rqe (s : State) (h : Nat) (x : Option Prog) : (setProg s h x).rqe = s.rqe := rfl
@[simp] theorem setProg_dau (s : State) (h : Nat) (x : Option Prog) : (setProg s h x).dau = s.dau := rfl
@[simp] theorem setProg_csc (s : State) (h : Nat) (x : Option Prog) : (setProg s h x).csc = s.csc := rfl
@[simp] theorem setProg_ctxs (s : State) (h : Nat) (x : Option Prog) : (setProg s h x).ctxs = s.ctxs := rfl
@[simp] theorem setProg_lmcs (s : State) (h : Nat) (x : Option Prog) : (setProg s h x).lmcs = s.lmcs := rfl
@[simp] theorem setProg_xpts (s : State) (h : Nat) (x : Option Prog) : (setProg s h x).xpts = s.xpts := rfl
@[simp] theorem setProg_map (s : State) (h : Nat) (x : Option Prog) : (setProg s h x).map = s.map := rfl
@[simp] theorem setProg_pipes (s : State) (h : Nat) (x : Option Prog) : (setProg s h x).pipes = s.pipes := rfl
@[simp] theorem setProg_seqs (s : State) (h : Nat) (x : Option Prog) : (setProg s h x).seqs = s.seqs := rfl
@[simp] theorem setProg_dir (s : State) (h : Nat) (x : Option Prog) : (setProg s h x).dir = s.dir := rfl
@[simp] theorem setProg_lms (s : State) (h : Nat) (x : Option Prog) : (setProg s h x).lms = s.lms := rfl
@[simp] theorem setProg_fab (s : State) (h : Nat) (x : Option Prog) : (setProg s h x).fab = s.fab := rfl

/-! ## modMem -/

@[simp] theorem modMem_pending (s : State) (i : Nat) (f : MemErr → MemErr) : (modMem s i f).pending = s.pending := rfl
@[simp] theorem modMem_ml (s : State) (i : Nat) (f : MemErr → MemErr) : (modMem s i f).ml = s.ml := rfl
@[simp] theorem modMem_free (s : State) (i : Nat) (f : MemErr → MemErr) : (modMem s i f).free = s.free := rfl
@[simp] theorem modMem_out (s : State) (i : Nat) (f : MemErr → MemErr) : (modMem s i f).out = s.out := rfl
@[simp] theorem modMem_mem (s : State) (i : Nat) (f : MemErr → MemErr) : (modMem s i f).mem = s.mem := rfl
@[simp] theorem modMem_poison (s : State) (i : Nat) (f : MemErr → MemErr) : (modMem s i f).poison = s.poison := rfl
@[simp] theorem modMem_upset (s : State) (i : Nat) (f : MemErr → MemErr) : (modMem s i f).upset = s.upset := rfl
@[simp] theorem modMem_parked (s : State) (i : Nat) (f : MemErr → MemErr) : (modMem s i f).parked = s.parked := rfl
@[simp] theorem modMem_qmem (s : State) (i : Nat) (f : MemErr → MemErr) : (modMem s i f).qmem = s.qmem := rfl
@[simp] theorem modMem_pages (s : State) (i : Nat) (f : MemErr → MemErr) : (modMem s i f).pages = s.pages := rfl
@[simp] theorem modMem_latch (s : State) (i : Nat) (f : MemErr → MemErr) : (modMem s i f).latch = s.latch := rfl
@[simp] theorem modMem_glb (s : State) (i : Nat) (f : MemErr → MemErr) : (modMem s i f).glb = s.glb := rfl
@[simp] theorem modMem_pwr (s : State) (i : Nat) (f : MemErr → MemErr) : (modMem s i f).pwr = s.pwr := rfl
@[simp] theorem modMem_evr (s : State) (i : Nat) (f : MemErr → MemErr) : (modMem s i f).evr = s.evr := rfl
@[simp] theorem modMem_evc (s : State) (i : Nat) (f : MemErr → MemErr) : (modMem s i f).evc = s.evc := rfl
@[simp] theorem modMem_hl (s : State) (i : Nat) (f : MemErr → MemErr) : (modMem s i f).hl = s.hl := rfl
@[simp] theorem modMem_rqe (s : State) (i : Nat) (f : MemErr → MemErr) : (modMem s i f).rqe = s.rqe := rfl
@[simp] theorem modMem_dau (s : State) (i : Nat) (f : MemErr → MemErr) : (modMem s i f).dau = s.dau := rfl
@[simp] theorem modMem_csc (s : State) (i : Nat) (f : MemErr → MemErr) : (modMem s i f).csc = s.csc := rfl
@[simp] theorem modMem_ctxs (s : State) (i : Nat) (f : MemErr → MemErr) : (modMem s i f).ctxs = s.ctxs := rfl
@[simp] theorem modMem_objs (s : State) (i : Nat) (f : MemErr → MemErr) : (modMem s i f).objs = s.objs := rfl
@[simp] theorem modMem_lmcs (s : State) (i : Nat) (f : MemErr → MemErr) : (modMem s i f).lmcs = s.lmcs := rfl
@[simp] theorem modMem_xpts (s : State) (i : Nat) (f : MemErr → MemErr) : (modMem s i f).xpts = s.xpts := rfl
@[simp] theorem modMem_map (s : State) (i : Nat) (f : MemErr → MemErr) : (modMem s i f).map = s.map := rfl
@[simp] theorem modMem_pipes (s : State) (i : Nat) (f : MemErr → MemErr) : (modMem s i f).pipes = s.pipes := rfl
@[simp] theorem modMem_seqs (s : State) (i : Nat) (f : MemErr → MemErr) : (modMem s i f).seqs = s.seqs := rfl
@[simp] theorem modMem_dir (s : State) (i : Nat) (f : MemErr → MemErr) : (modMem s i f).dir = s.dir := rfl
@[simp] theorem modMem_fab (s : State) (i : Nat) (f : MemErr → MemErr) : (modMem s i f).fab = s.fab := rfl

/-! ## send -/

@[simp] theorem send_pending (s : State) (m : Msg) : (send s m).pending = s.pending := rfl
@[simp] theorem send_ml (s : State) (m : Msg) : (send s m).ml = s.ml := rfl
@[simp] theorem send_free (s : State) (m : Msg) : (send s m).free = s.free := rfl
@[simp] theorem send_mem (s : State) (m : Msg) : (send s m).mem = s.mem := rfl
@[simp] theorem send_poison (s : State) (m : Msg) : (send s m).poison = s.poison := rfl
@[simp] theorem send_upset (s : State) (m : Msg) : (send s m).upset = s.upset := rfl
@[simp] theorem send_parked (s : State) (m : Msg) : (send s m).parked = s.parked := rfl
@[simp] theorem send_qmem (s : State) (m : Msg) : (send s m).qmem = s.qmem := rfl
@[simp] theorem send_pages (s : State) (m : Msg) : (send s m).pages = s.pages := rfl
@[simp] theorem send_latch (s : State) (m : Msg) : (send s m).latch = s.latch := rfl
@[simp] theorem send_glb (s : State) (m : Msg) : (send s m).glb = s.glb := rfl
@[simp] theorem send_pwr (s : State) (m : Msg) : (send s m).pwr = s.pwr := rfl
@[simp] theorem send_evr (s : State) (m : Msg) : (send s m).evr = s.evr := rfl
@[simp] theorem send_evc (s : State) (m : Msg) : (send s m).evc = s.evc := rfl
@[simp] theorem send_hl (s : State) (m : Msg) : (send s m).hl = s.hl := rfl
@[simp] theorem send_rqe (s : State) (m : Msg) : (send s m).rqe = s.rqe := rfl
@[simp] theorem send_dau (s : State) (m : Msg) : (send s m).dau = s.dau := rfl
@[simp] theorem send_csc (s : State) (m : Msg) : (send s m).csc = s.csc := rfl
@[simp] theorem send_ctxs (s : State) (m : Msg) : (send s m).ctxs = s.ctxs := rfl
@[simp] theorem send_objs (s : State) (m : Msg) : (send s m).objs = s.objs := rfl
@[simp] theorem send_lmcs (s : State) (m : Msg) : (send s m).lmcs = s.lmcs := rfl
@[simp] theorem send_xpts (s : State) (m : Msg) : (send s m).xpts = s.xpts := rfl
@[simp] theorem send_map (s : State) (m : Msg) : (send s m).map = s.map := rfl
@[simp] theorem send_pipes (s : State) (m : Msg) : (send s m).pipes = s.pipes := rfl
@[simp] theorem send_seqs (s : State) (m : Msg) : (send s m).seqs = s.seqs := rfl
@[simp] theorem send_dir (s : State) (m : Msg) : (send s m).dir = s.dir := rfl
@[simp] theorem send_lms (s : State) (m : Msg) : (send s m).lms = s.lms := rfl
@[simp] theorem send_fab (s : State) (m : Msg) : (send s m).fab = s.fab := rfl

/-! ## countHlk -/

@[simp] theorem countHlk_pending (s : State) : (countHlk s).pending = s.pending := rfl
@[simp] theorem countHlk_ml (s : State) : (countHlk s).ml = s.ml := rfl
@[simp] theorem countHlk_free (s : State) : (countHlk s).free = s.free := rfl
@[simp] theorem countHlk_out (s : State) : (countHlk s).out = s.out := rfl
@[simp] theorem countHlk_mem (s : State) : (countHlk s).mem = s.mem := rfl
@[simp] theorem countHlk_poison (s : State) : (countHlk s).poison = s.poison := rfl
@[simp] theorem countHlk_upset (s : State) : (countHlk s).upset = s.upset := rfl
@[simp] theorem countHlk_parked (s : State) : (countHlk s).parked = s.parked := rfl
@[simp] theorem countHlk_qmem (s : State) : (countHlk s).qmem = s.qmem := rfl
@[simp] theorem countHlk_pages (s : State) : (countHlk s).pages = s.pages := rfl
@[simp] theorem countHlk_latch (s : State) : (countHlk s).latch = s.latch := rfl
@[simp] theorem countHlk_glb (s : State) : (countHlk s).glb = s.glb := rfl
@[simp] theorem countHlk_pwr (s : State) : (countHlk s).pwr = s.pwr := rfl
@[simp] theorem countHlk_evr (s : State) : (countHlk s).evr = s.evr := rfl
@[simp] theorem countHlk_evc (s : State) : (countHlk s).evc = s.evc := rfl
@[simp] theorem countHlk_rqe (s : State) : (countHlk s).rqe = s.rqe := rfl
@[simp] theorem countHlk_dau (s : State) : (countHlk s).dau = s.dau := rfl
@[simp] theorem countHlk_csc (s : State) : (countHlk s).csc = s.csc := rfl
@[simp] theorem countHlk_ctxs (s : State) : (countHlk s).ctxs = s.ctxs := rfl
@[simp] theorem countHlk_objs (s : State) : (countHlk s).objs = s.objs := rfl
@[simp] theorem countHlk_lmcs (s : State) : (countHlk s).lmcs = s.lmcs := rfl
@[simp] theorem countHlk_xpts (s : State) : (countHlk s).xpts = s.xpts := rfl
@[simp] theorem countHlk_map (s : State) : (countHlk s).map = s.map := rfl
@[simp] theorem countHlk_pipes (s : State) : (countHlk s).pipes = s.pipes := rfl
@[simp] theorem countHlk_seqs (s : State) : (countHlk s).seqs = s.seqs := rfl
@[simp] theorem countHlk_dir (s : State) : (countHlk s).dir = s.dir := rfl
@[simp] theorem countHlk_lms (s : State) : (countHlk s).lms = s.lms := rfl
@[simp] theorem countHlk_fab (s : State) : (countHlk s).fab = s.fab := rfl

/-! ## wrByte -/

@[simp] theorem wrByte_pending (s : State) (k : Nat) (b : Byte) : (wrByte s k b).pending = s.pending := rfl
@[simp] theorem wrByte_ml (s : State) (k : Nat) (b : Byte) : (wrByte s k b).ml = s.ml := rfl
@[simp] theorem wrByte_free (s : State) (k : Nat) (b : Byte) : (wrByte s k b).free = s.free := rfl
@[simp] theorem wrByte_out (s : State) (k : Nat) (b : Byte) : (wrByte s k b).out = s.out := rfl
@[simp] theorem wrByte_poison (s : State) (k : Nat) (b : Byte) : (wrByte s k b).poison = s.poison := rfl
@[simp] theorem wrByte_upset (s : State) (k : Nat) (b : Byte) : (wrByte s k b).upset = s.upset := rfl
@[simp] theorem wrByte_parked (s : State) (k : Nat) (b : Byte) : (wrByte s k b).parked = s.parked := rfl
@[simp] theorem wrByte_qmem (s : State) (k : Nat) (b : Byte) : (wrByte s k b).qmem = s.qmem := rfl
@[simp] theorem wrByte_pages (s : State) (k : Nat) (b : Byte) : (wrByte s k b).pages = s.pages := rfl
@[simp] theorem wrByte_latch (s : State) (k : Nat) (b : Byte) : (wrByte s k b).latch = s.latch := rfl
@[simp] theorem wrByte_glb (s : State) (k : Nat) (b : Byte) : (wrByte s k b).glb = s.glb := rfl
@[simp] theorem wrByte_pwr (s : State) (k : Nat) (b : Byte) : (wrByte s k b).pwr = s.pwr := rfl
@[simp] theorem wrByte_evr (s : State) (k : Nat) (b : Byte) : (wrByte s k b).evr = s.evr := rfl
@[simp] theorem wrByte_evc (s : State) (k : Nat) (b : Byte) : (wrByte s k b).evc = s.evc := rfl
@[simp] theorem wrByte_hl (s : State) (k : Nat) (b : Byte) : (wrByte s k b).hl = s.hl := rfl
@[simp] theorem wrByte_rqe (s : State) (k : Nat) (b : Byte) : (wrByte s k b).rqe = s.rqe := rfl
@[simp] theorem wrByte_dau (s : State) (k : Nat) (b : Byte) : (wrByte s k b).dau = s.dau := rfl
@[simp] theorem wrByte_csc (s : State) (k : Nat) (b : Byte) : (wrByte s k b).csc = s.csc := rfl
@[simp] theorem wrByte_ctxs (s : State) (k : Nat) (b : Byte) : (wrByte s k b).ctxs = s.ctxs := rfl
@[simp] theorem wrByte_objs (s : State) (k : Nat) (b : Byte) : (wrByte s k b).objs = s.objs := rfl
@[simp] theorem wrByte_lmcs (s : State) (k : Nat) (b : Byte) : (wrByte s k b).lmcs = s.lmcs := rfl
@[simp] theorem wrByte_xpts (s : State) (k : Nat) (b : Byte) : (wrByte s k b).xpts = s.xpts := rfl
@[simp] theorem wrByte_map (s : State) (k : Nat) (b : Byte) : (wrByte s k b).map = s.map := rfl
@[simp] theorem wrByte_pipes (s : State) (k : Nat) (b : Byte) : (wrByte s k b).pipes = s.pipes := rfl
@[simp] theorem wrByte_seqs (s : State) (k : Nat) (b : Byte) : (wrByte s k b).seqs = s.seqs := rfl
@[simp] theorem wrByte_dir (s : State) (k : Nat) (b : Byte) : (wrByte s k b).dir = s.dir := rfl
@[simp] theorem wrByte_lms (s : State) (k : Nat) (b : Byte) : (wrByte s k b).lms = s.lms := rfl
@[simp] theorem wrByte_fab (s : State) (k : Nat) (b : Byte) : (wrByte s k b).fab = s.fab := rfl

/-! ## What the updates write -/

@[simp] theorem modSeq_seqs (s : State) (q : Fin 16) (f : Seq → Seq) : (modSeq s q f).seqs = vmod s.seqs q f := rfl
@[simp] theorem modBank_seqs (s : State) (q : Fin 16) (b : Fin 8) (f : Bank → Bank) :
    (modBank s q b f).seqs = vmod s.seqs q (fun x => { x with banks := vmod x.banks b f }) := rfl
@[simp] theorem modPipe_pipes (s : State) (p : Fin 8) (f : Pipe → Pipe) : (modPipe s p f).pipes = vmod s.pipes p f := rfl
@[simp] theorem modHdr_pages (s : State) (pg : PageId) (f : Hdr → Hdr) :
    (modHdr s pg f).pages = vmod s.pages (pageIdx pg) f := rfl
@[simp] theorem modLmc_lmcs (s : State) (n : Fin 12) (f : Lmc → Lmc) : (modLmc s n f).lmcs = vmod s.lmcs n f := rfl
@[simp] theorem modXpt_xpts (s : State) (p : Fin 6) (f : Xpt → Xpt) : (modXpt s p f).xpts = vmod s.xpts p f := rfl
@[simp] theorem setCtx_ctxs (s : State) (c : Nat) (x : Ctx) : (setCtx s c x).ctxs = tset Ctx.free s.ctxs c x := rfl
@[simp] theorem send_out (s : State) (m : Msg) : (send s m).out = s.out ++ [m] := rfl
@[simp] theorem wrByte_mem (s : State) (k : Nat) (b : Byte) : (wrByte s k b).mem = tset 0 s.mem k b := rfl

/-! ## Vectors -/

@[simp] theorem vmod_same {α : Type} {n : Nat} (v : Vector α n) (i : Fin n) (f : α → α) :
    (vmod v i f)[i.val] = f v[i.val] := by simp [vmod]
theorem vmod_other {α : Type} {n : Nat} (v : Vector α n) (i : Fin n) (f : α → α) (j : Fin n) (h : j ≠ i) :
    (vmod v i f)[j.val] = v[j.val] := by
  have : i.val ≠ j.val := fun e => h (Fin.ext e.symm)
  simp [vmod, this]
@[simp] theorem vset_same {α : Type} {n : Nat} (v : Vector α n) (i : Fin n) (a : α) : (vset v i a)[i.val] = a := by simp [vset]
theorem vset_other {α : Type} {n : Nat} (v : Vector α n) (i : Fin n) (a : α) (j : Fin n) (h : j ≠ i) :
    (vset v i a)[j.val] = v[j.val] := by
  have : i.val ≠ j.val := fun e => h (Fin.ext e.symm)
  simp [vset, this]
/-- Changing an element to itself changes nothing. -/
theorem vmod_id {α : Type} {n : Nat} (v : Vector α n) (i : Fin n) (f : α → α) (h : f v[i.val] = v[i.val]) : vmod v i f = v := by
  simp [vmod, h]

end Sys2Proof.Machine
end

