-- ==== Sys2Proof/Laws/Table.lean ====
section
/-! SUPPORT. Sparse arrays: read after write, and the canonical form, which every write keeps. -/

namespace Sys2Proof.Machine

/-- Every key of a canonical table lies above a bound that its first key lies above. -/
def Above {α : Type} (n : Nat) : Table α → Prop
  | [] => True
  | (k, _) :: _ => n < k

theorem twf_cons {α : Type} [DecidableEq α] (d : α) (k : Nat) (v : α) (t : Table α) :
    twf d ((k, v) :: t) = true ↔ Above k t ∧ v ≠ d ∧ twf d t = true := by
  cases t with
  | nil => simp [twf, Above]
  | cons e t => obtain ⟨k', v'⟩ := e; simp [twf, Above, and_assoc]

/-- A canonical table reads as its default below its first key. -/
theorem tget_below {α : Type} [DecidableEq α] (d : α) (t : Table α) (n j : Nat) (ha : Above n t) (ht : twf d t = true)
    (hj : j ≤ n) : tget d t j = d := by
  induction t generalizing n with
  | nil => rfl
  | cons e t ih =>
    obtain ⟨k, v⟩ := e
    have h3 := (twf_cons d k v t).1 ht
    simp only [Above] at ha
    have hne : j ≠ k := by omega
    simp only [tget, hne, if_false]
    exact ih k h3.1 h3.2.2 (by omega)

/-- What was written is read back. -/
@[simp] theorem tget_tset_same {α : Type} [DecidableEq α] (d : α) (t : Table α) (k : Nat) (v : α) (h : twf d t = true) :
    tget d (tset d t k v) k = v := by
  induction t with
  | nil => by_cases hv : v = d <;> simp [tset, tget, hv]
  | cons e t ih =>
    obtain ⟨k', v'⟩ := e
    have h3 := (twf_cons d k' v' t).1 h
    by_cases h1 : k < k'
    · by_cases hv : v = d
      · have hne : k ≠ k' := by omega
        simp only [tset, h1, hv, tget, hne, if_true, if_false]
        exact tget_below d t k' k h3.1 h3.2.2 (by omega)
      · simp [tset, h1, hv, tget]
    · by_cases h2 : k = k'
      · by_cases hv : v = d
        · subst h2
          simp only [tset, hv, Nat.lt_irrefl, if_true, if_false]
          exact tget_below d t k k h3.1 h3.2.2 (Nat.le_refl _)
        · simp [tset, h2, hv, tget]
      · simp [tset, h1, h2, tget, ih h3.2.2]

/-- Every other key reads as before. -/
theorem tget_tset_other {α : Type} [DecidableEq α] (d : α) (t : Table α) (k j : Nat) (v : α) (h : j ≠ k) :
    tget d (tset d t k v) j = tget d t j := by
  induction t with
  | nil => by_cases hv : v = d <;> simp [tset, tget, hv, h]
  | cons e t ih =>
    obtain ⟨k', v'⟩ := e
    by_cases h1 : k < k'
    · by_cases hv : v = d <;> simp [tset, h1, hv, tget, h]
    · by_cases h2 : k = k'
      · subst h2
        by_cases hv : v = d <;> simp [tset, hv, tget, h]
      · simp [tset, h1, h2, tget, ih]

theorem above_tset {α : Type} [DecidableEq α] (d : α) (t : Table α) (n k : Nat) (v : α) (hn : n < k) (ha : Above n t)
    (ht : twf d t = true) : Above n (tset d t k v) := by
  cases t with
  | nil => by_cases hv : v = d <;> simp [tset, hv, Above, hn]
  | cons e t =>
    obtain ⟨k', v'⟩ := e
    simp only [Above] at ha
    have h3 := (twf_cons d k' v' t).1 ht
    unfold tset
    split
    · split <;> simp_all [Above]
    · split
      · split
        · subst k; cases t with
          | nil => trivial
          | cons e t => obtain ⟨k2, v2⟩ := e; simp [Above] at h3 ⊢; omega
        · simpa [Above] using hn
      · simpa [Above] using ha

/-- A write keeps the canonical form. -/
theorem twf_tset {α : Type} [DecidableEq α] (d : α) (t : Table α) (k : Nat) (v : α) (h : twf d t = true) :
    twf d (tset d t k v) = true := by
  induction t with
  | nil => by_cases hv : v = d <;> simp [tset, hv, twf]
  | cons e t ih =>
    obtain ⟨k', v'⟩ := e
    have h3 := (twf_cons d k' v' t).1 h
    unfold tset
    split
    · split
      · exact h
      · rename_i h1 hv; exact (twf_cons _ _ _ _).2 ⟨h1, hv, h⟩
    · split
      · split
        · exact h3.2.2
        · rename_i h1 h2 hv; subst h2; exact (twf_cons _ _ _ _).2 ⟨h3.1, hv, h3.2.2⟩
      · rename_i h1 h2
        exact (twf_cons _ _ _ _).2 ⟨above_tset d t k' k v (by omega) h3.1 h3.2.2, h3.2.1, ih h3.2.2⟩

/-- Dropping entries keeps the canonical form. -/
theorem twf_filter {α : Type} [DecidableEq α] (d : α) (t : Table α) (p : Nat × α → Bool) (h : twf d t = true) :
    twf d (t.filter p) = true := by
  have key : ∀ (t : Table α), twf d t = true → twf d (t.filter p) = true ∧ ∀ n, Above n t → Above n (t.filter p) := by
    intro t
    induction t with
    | nil => intro _; exact ⟨rfl, fun _ h => h⟩
    | cons e t ih =>
      obtain ⟨k, v⟩ := e
      intro h
      have h3 := (twf_cons d k v t).1 h
      obtain ⟨i1, i2⟩ := ih h3.2.2
      by_cases hp : p (k, v) = true
      · rw [List.filter_cons_of_pos hp]
        exact ⟨(twf_cons _ _ _ _).2 ⟨i2 k h3.1, h3.2.1, i1⟩, fun n hn => hn⟩
      · rw [List.filter_cons_of_neg (by simpa using hp)]
        refine ⟨i1, fun n hn => i2 n ?_⟩
        cases t with
        | nil => trivial
        | cons e t => obtain ⟨k2, v2⟩ := e; simp [Above] at hn h3 ⊢; omega
  exact (key t h).1

end Sys2Proof.Machine
end

