-- ==== Sys2Proof/Laws/Issue.lean ====
section
/-! SUPPORT. What issuing one bundle does: the bookkeeping of fetch and issue, and the effect of a bundle of one syllable. -/

namespace Sys2Proof.Machine

/-! ## Contexts -/

theorem getCtx_modCtx_same (s : State) (c : Nat) (f : Ctx → Ctx) (h : twf Ctx.free s.ctxs = true) :
    getCtx (modCtx s c f) c = f (getCtx s c) := tget_tset_same _ _ _ _ h
theorem getCtx_modCtx_other (s : State) (c d : Nat) (f : Ctx → Ctx) (h : d ≠ c) :
    getCtx (modCtx s c f) d = getCtx s d := tget_tset_other _ _ _ _ _ h
theorem twf_modCtx (s : State) (c : Nat) (f : Ctx → Ctx) (h : twf Ctx.free s.ctxs = true) :
    twf Ctx.free (modCtx s c f).ctxs = true := twf_tset _ _ _ _ h
@[simp] theorem getCtx_modSeq (s : State) (q : Fin 16) (f : Seq → Seq) (c : Nat) : getCtx (modSeq s q f) c = getCtx s c := rfl
@[simp] theorem getCtx_modBank (s : State) (q : Fin 16) (b : Fin 8) (f : Bank → Bank) (c : Nat) :
    getCtx (modBank s q b f) c = getCtx s c := rfl

/-! ## Banks -/

theorem bankOf_modBank_same (s : State) (q : Fin 16) (b : Fin 8) (f : Bank → Bank) :
    bankOf (modBank s q b f) q b = f (bankOf s q b) := by simp [bankOf, modBank, modSeq, vmod]

theorem bankOf_modBank_other (s : State) (q : Fin 16) (b d : Fin 8) (f : Bank → Bank) (h : d ≠ b) :
    bankOf (modBank s q b f) q d = bankOf s q d := by
  simp only [bankOf, modBank_seqs, vmod_same]
  exact vmod_other _ _ _ _ h

/-! ## Bookkeeping -/

/-- Bookkeeping that keeps the contexts' table canonical. -/
def Bk (s t : State) (q : Fin 16) (b : Fin 8) (c : Nat) : Prop := Book s t q b c ∧ twf Ctx.free t.ctxs = true

theorem bk_refl {s : State} {q : Fin 16} {b : Fin 8} {c : Nat} (h : twf Ctx.free s.ctxs = true) : Bk s s q b c :=
  ⟨⟨rfl, fun _ => rfl, fun _ _ => rfl, rfl, fun _ _ => rfl, rfl, fun _ _ => rfl, rfl⟩, h⟩

theorem bk_trans {s t u : State} {q : Fin 16} {b : Fin 8} {c : Nat} (h : Bk s t q b c) (g : Bk t u q b c) : Bk s u q b c := by
  obtain ⟨⟨a1, a0, a2, a3, a4, a5, a6, a7⟩, _⟩ := h
  obtain ⟨⟨b1, b0, b2, b3, b4, b5, b6, b7⟩, b8⟩ := g
  refine ⟨⟨?_, fun n => ?_, fun p hp => (b2 p hp).trans (a2 p hp), ?_, fun d hd => (b4 d hd).trans (a4 d hd), ?_,
    fun d hd => (b6 d hd).trans (a6 d hd), ?_⟩, b8⟩
  · rw [← a1, ← b1]
  · rw [← a0 n, ← b0 n]
  · rw [← a3, ← b3]
  · rw [← a5, ← b5]
  · rw [← a7, ← b7]

theorem bk_modCtx {s : State} {q : Fin 16} {b : Fin 8} {c : Nat} (f : Ctx → Ctx) (h : twf Ctx.free s.ctxs = true)
    (hf : ∀ x : Ctx, { f x with meter := x.meter, maskq := x.maskq } = x) : Bk s (modCtx s c f) q b c := by
  refine ⟨⟨rfl, fun _ => rfl, fun _ _ => rfl, rfl, fun _ _ => rfl, rfl, fun d hd => getCtx_modCtx_other s c d f hd, ?_⟩, twf_modCtx s c f h⟩
  rw [getCtx_modCtx_same s c f h]
  exact hf _

theorem bk_modBank {s : State} {q : Fin 16} {b : Fin 8} {c : Nat} (f : Bank → Bank) (h : twf Ctx.free s.ctxs = true)
    (hf : ∀ k : Bank, { f k with ibuf := k.ibuf, btb := k.btb } = k) : Bk s (modBank s q b f) q b c := by
  refine ⟨⟨rfl, fun _ => rfl, fun p hp => ?_, ?_, fun d hd => bankOf_modBank_other s q b d f hd, ?_, fun _ _ => rfl, rfl⟩, h⟩
  · exact vmod_other _ _ _ _ hp
  · simp
  · rw [bankOf_modBank_same]; exact hf _

theorem bk_modSeq {s : State} {q : Fin 16} {b : Fin 8} {c : Nat} (f : Seq → Seq) (h : twf Ctx.free s.ctxs = true)
    (hf : { f s.seqs[q.val] with bundles := (s.seqs[q.val]).bundles, mispred := (s.seqs[q.val]).mispred,
                                 ibMiss := (s.seqs[q.val]).ibMiss, issued := (s.seqs[q.val]).issued,
                                 stalls := (s.seqs[q.val]).stalls, held := (s.seqs[q.val]).held,
                                 slow := (s.seqs[q.val]).slow } = s.seqs[q.val]) : Bk s (modSeq s q f) q b c := by
  have hb : (f s.seqs[q.val]).banks = (s.seqs[q.val]).banks := congrArg (·.banks) hf
  have hbank : ∀ d : Fin 8, bankOf (modSeq s q f) q d = bankOf s q d := by
    intro d; simp [bankOf, hb]
  refine ⟨⟨rfl, fun _ => rfl, fun p hp => ?_, ?_, fun d _ => hbank d, ?_, fun _ _ => rfl, rfl⟩, h⟩
  · exact vmod_other _ _ _ _ hp
  · simp only [modSeq_seqs, vmod_same, ← hb]; exact hf
  · rw [hbank]

theorem bk_charge {s : State} {q : Fin 16} {b : Fin 8} {c : Nat} (k : Fin 11) (n : Nat) (h : twf Ctx.free s.ctxs = true) :
    Bk s (charge s c k n) q b c := by
  refine bk_modCtx _ h (fun x => ?_)
  split <;> rfl

theorem bk_chargeQ {s : State} {q : Fin 16} {b : Fin 8} {c : Nat} (n : Nat) (h : twf Ctx.free s.ctxs = true) :
    Bk s (chargeQ s c n) q b c := by
  unfold chargeQ
  split
  · exact bk_refl h
  · exact bk_charge 9 n h

theorem bk_countMask {s : State} {q : Fin 16} {b : Fin 8} {c : Nat} (n : Nat) (h : twf Ctx.free s.ctxs = true) :
    Bk s (countMask s q b c n) q b c := by
  refine bk_modCtx (fun x => if x.st = .free then x else
    { x with maskq := if masked x s.seqs[q.val].banks[b.val] then satAdd x.maskq n else 0 }) h (fun x => ?_)
  split <;> rfl

theorem bk_foldl {α : Type} {q : Fin 16} {b : Fin 8} {c : Nat} (f : State → α → State)
    (hf : ∀ a x, twf Ctx.free a.ctxs = true → Bk a (f a x) q b c) (l : List α) :
    ∀ s : State, twf Ctx.free s.ctxs = true → Bk s (l.foldl f s) q b c := by
  induction l with
  | nil => exact fun s h => bk_refl h
  | cons x l ih => exact fun s h => bk_trans (hf s x h) (ih _ (hf s x h).2)

theorem bk_modLmc {s : State} {q : Fin 16} {b : Fin 8} {c : Nat} (n : Fin 12) (h : twf Ctx.free s.ctxs = true) :
    Bk s (modLmc s n (fun x => { x with used := x.used + 1 })) q b c := by
  refine ⟨⟨rfl, fun m => ?_, fun _ _ => rfl, rfl, fun _ _ => rfl, rfl, fun _ _ => rfl, rfl⟩, h⟩
  by_cases hm : m = n
  · subst hm; simp [modLmc]
  · simp only [modLmc]; rw [vmod_other _ _ _ _ hm]

/-- Eighth-slots are bookkeeping (R33). -/
theorem bk_useSlots {s : State} {q : Fin 16} {b : Fin 8} {c : Nat} (m : Master) (d : Nat) (secs : List Nat)
    (h : twf Ctx.free s.ctxs = true) : Bk s (useSlots s m d secs) q b c := by
  unfold useSlots
  split
  · refine bk_foldl _ (fun a x ha => ?_) _ s h
    split
    · dsimp only
      split
      · split
        · exact bk_modLmc _ ha
        · exact bk_refl ha
      · exact bk_refl ha
    · exact bk_refl ha
  · exact bk_refl h

/-- No error waits to be met, so a read meets none. -/
theorem touch_none {s : State} (m : Master) (ga len : Nat) (h : s.upset = []) : touch s m ga len = s := by simp [touch, h]

/-- Bookkeeping leaves the pages and the errors that no read has met alone. -/
theorem Book.pages {s t : State} {q : Fin 16} {b : Fin 8} {c : Nat} (h : Book s t q b c) : t.pages = s.pages :=
  congrArg (·.pages) h.rest
theorem Book.upset {s t : State} {q : Fin 16} {b : Fin 8} {c : Nat} (h : Book s t q b c) : t.upset = s.upset :=
  congrArg (·.upset) h.rest

/-- A line that was absent is put into the partition, and counted. -/
theorem bk_missLine {s : State} {q : Fin 16} {b : Fin 8} {c : Nat} (l : IbLine) (h : twf Ctx.free s.ctxs = true) :
    Bk s (modSeq (modBank s q b (fun y => putLine y l)) q (fun x => { x with ibMiss := satInc x.ibMiss })) q b c := by
  have h1 : Bk s (modBank s q b (fun y => putLine y l)) q b c := bk_modBank _ h (fun _ => rfl)
  exact bk_trans h1 (bk_modSeq _ h1.2 rfl)

theorem bk_needLine {s : State} {q : Fin 16} {b : Fin 8} {c : Nat} (ga : Nat) (hu : s.upset = []) (h : twf Ctx.free s.ctxs = true) :
    Bk s (needLine s q b ga) q b c := by
  unfold needLine
  dsimp only
  split
  · exact bk_modBank _ h (fun _ => rfl)
  · rw [touch_none _ _ _ hu]
    split
    · exact bk_trans (bk_useSlots (.seq q false) _ (sectorsOf ga 64) h) (bk_missLine _ (bk_useSlots _ _ _ h (q := q) (b := b) (c := c)).2)
    · exact bk_missLine _ h

theorem bk_fetchLines {q : Fin 16} {b : Fin 8} {c : Nat} (l : List Nat) :
    ∀ s : State, s.upset = [] → twf Ctx.free s.ctxs = true → Bk s (l.foldl (fun a g => needLine a q b g) s) q b c := by
  induction l with
  | nil => exact fun s _ h => bk_refl h
  | cons x l ih =>
    intro s hu h
    have h1 := bk_needLine (q := q) (b := b) (c := c) x hu h
    exact bk_trans h1 (ih _ (h1.1.upset.trans hu) h1.2)

theorem bk_fetchBundle {s : State} {q : Fin 16} {b : Fin 8} {c : Nat} (len : Nat) (hu : s.upset = []) (h : twf Ctx.free s.ctxs = true) :
    Bk s (fetchBundle s q b len).1 q b c := by
  have hf := bk_fetchLines (q := q) (b := b) (c := c)
    (codeLines (dBase (segReg (bankOf s q b).lo 1) + (bankOf s q b).pc.toNat) len) s hu h
  unfold fetchBundle
  dsimp only
  split
  · exact bk_refl h
  · split
    · exact bk_refl h
    · split
      · exact hf
      · exact hf

theorem bk_useLines {s : State} {q : Fin 16} {b : Fin 8} {c : Nat} (ga len : Nat) (h : twf Ctx.free s.ctxs = true) :
    Bk s (useLines s q b c ga len) q b c := by
  refine bk_foldl _ (fun a x ha => ?_) _ s h
  split
  · split
    · exact bk_refl ha
    · refine bk_trans ?_ (bk_charge 0 64 ha)
      exact bk_modBank _ ha (fun _ => rfl)
  · exact bk_refl ha

theorem bk_mispredict {s : State} {q : Fin 16} {b : Fin 8} {c : Nat} (h : twf Ctx.free s.ctxs = true) :
    Bk s (mispredict s q b c) q b c := by
  have h1 : Bk s (modSeq s q (fun x => { x with mispred := satInc x.mispred, stalls := x.stalls + 3 })) q b c := bk_modSeq _ h rfl
  have h2 := bk_trans h1 (bk_chargeQ (q := q) (b := b) 3 h1.2)
  unfold mispredict
  exact bk_trans h2 (bk_countMask 3 h2.2)

theorem bk_resolveBranch {s : State} {q : Fin 16} {b : Fin 8} {c : Nat} (ga : Nat) (taken : Bool) (target : Nat)
    (h : twf Ctx.free s.ctxs = true) : Bk s (resolveBranch s q b c ga taken target) q b c := by
  unfold resolveBranch
  dsimp only
  split
  · exact bk_refl h
  · exact bk_trans (bk_modBank (fun y => { y with btb := ((ga, target) :: y.btb.filter (fun e => e.1 ≠ ga)).take 64 }) h (fun _ => rfl))
      (bk_mispredict h)
  · split
    · exact bk_modBank _ h (fun _ => rfl)
    · exact bk_trans (bk_modBank (fun y => { y with btb := ((ga, target) :: y.btb.filter (fun e => e.1 ≠ ga)).take 64 }) h (fun _ => rfl))
        (bk_mispredict h)
  · exact bk_trans (bk_modBank (fun y => { y with btb := y.btb.filter (fun e => e.1 ≠ ga) }) h (fun _ => rfl)) (bk_mispredict h)

/-! ## Bookkeeping beside an effect -/

theorem Bk.symm {s t : State} {q : Fin 16} {b : Fin 8} {c : Nat} (h : Bk s t q b c) (hs : twf Ctx.free s.ctxs = true) :
    Bk t s q b c := by
  obtain ⟨⟨a1, a0, a2, a3, a4, a5, a6, a7⟩, _⟩ := h
  refine ⟨⟨?_, fun n => ?_, fun p hp => (a2 p hp).symm, ?_, fun d hd => (a4 d hd).symm, ?_, fun d hd => (a6 d hd).symm, ?_⟩, hs⟩
  · rw [← a1]
  · rw [← a0 n]
  · rw [← a3]
  · rw [← a5]
  · rw [← a7]

/-- An effect on the bank that does not touch what the bank has cached. -/
theorem bk_map_bank {s t : State} {q : Fin 16} {b : Fin 8} {c : Nat} (h : Bk s t q b c) (W : Bank → Bank)
    (hW : ∀ k i j, W { k with ibuf := i, btb := j } = { W k with ibuf := i, btb := j }) :
    Bk (modBank s q b W) (modBank t q b W) q b c := by
  obtain ⟨⟨a1, a0, a2, a3, a4, a5, a6, a7⟩, a8⟩ := h
  refine ⟨⟨?_, a0, fun p hp => ?_, ?_, fun d hd => ?_, ?_, a6, a7⟩, a8⟩
  · have : ∀ X : State, { X with seqs := (modBank s q b W).seqs, ctxs := s.ctxs, lmcs := s.lmcs }
        = modBank { X with seqs := s.seqs, ctxs := s.ctxs, lmcs := s.lmcs } q b W := fun _ => rfl
    rw [show (modBank s q b W).ctxs = s.ctxs from rfl, show (modBank s q b W).lmcs = s.lmcs from rfl, this]
    exact congrArg (fun X => modBank X q b W) a1
  · simp only [modBank_seqs]
    rw [vmod_other _ _ _ _ hp, vmod_other _ _ _ _ hp]
    exact a2 p hp
  · simp only [modBank_seqs, vmod_same]
    have hs := congrArg (fun x => ({ x with banks := vmod (s.seqs[q.val]).banks b W } : Seq)) a3
    exact hs
  · rw [bankOf_modBank_other _ _ _ _ _ hd, bankOf_modBank_other _ _ _ _ _ hd]
    exact a4 d hd
  · rw [bankOf_modBank_same, bankOf_modBank_same]
    have h5 := congrArg W a5
    rw [hW] at h5
    rw [← h5]

/-- An effect on the sequencer beside its banks and counters. -/
theorem bk_map_seq {s t : State} {q : Fin 16} {b : Fin 8} {c : Nat} (h : Bk s t q b c) (X : Seq → Seq)
    (hX : ∀ x n m i k j a d e, X { x with bundles := n, mispred := m, ibMiss := i, banks := k, issued := j, stalls := a, held := d, slow := e }
      = { X x with bundles := n, mispred := m, ibMiss := i, banks := k, issued := j, stalls := a, held := d, slow := e }) :
    Bk (modSeq s q X) (modSeq t q X) q b c := by
  obtain ⟨⟨a1, a0, a2, a3, a4, a5, a6, a7⟩, a8⟩ := h
  have hself : ∀ x : Seq, (X x).banks = x.banks ∧ (X x).bundles = x.bundles ∧ (X x).mispred = x.mispred ∧ (X x).ibMiss = x.ibMiss
      ∧ (X x).issued = x.issued ∧ (X x).stalls = x.stalls ∧ (X x).held = x.held ∧ (X x).slow = x.slow := by
    intro x
    have := hX x x.bundles x.mispred x.ibMiss x.banks x.issued x.stalls x.held x.slow
    exact ⟨congrArg (·.banks) this, congrArg (·.bundles) this, congrArg (·.mispred) this, congrArg (·.ibMiss) this,
      congrArg (·.issued) this, congrArg (·.stalls) this, congrArg (·.held) this, congrArg (·.slow) this⟩
  have hbank : ∀ (y : State) (d : Fin 8), bankOf (modSeq y q X) q d = bankOf y q d := by
    intro y d; simp [bankOf, (hself y.seqs[q.val]).1]
  refine ⟨⟨?_, a0, fun p hp => ?_, ?_, fun d hd => ?_, ?_, a6, a7⟩, a8⟩
  · have : ∀ Y : State, { Y with seqs := (modSeq s q X).seqs, ctxs := s.ctxs, lmcs := s.lmcs }
        = modSeq { Y with seqs := s.seqs, ctxs := s.ctxs, lmcs := s.lmcs } q X := fun _ => rfl
    rw [show (modSeq s q X).ctxs = s.ctxs from rfl, show (modSeq s q X).lmcs = s.lmcs from rfl, this]
    exact congrArg (fun Y => modSeq Y q X) a1
  · simp only [modSeq_seqs]
    rw [vmod_other _ _ _ _ hp, vmod_other _ _ _ _ hp]
    exact a2 p hp
  · simp only [modSeq_seqs, vmod_same]
    obtain ⟨e1, e2, e3, e4, e5, e6, e7, e8⟩ := hself s.seqs[q.val]
    have h3 := congrArg X a3
    rw [hX] at h3
    rw [e1, e2, e3, e4, e5, e6, e7, e8, ← h3]
  · rw [hbank, hbank]; exact a4 d hd
  · rw [hbank, hbank]; exact a5

/-! ## The end of a bundle -/

/-- The end of a bundle changes the PC, the loop level and the loop counts of a bank, and nothing else. -/
theorem loopEnd_frame (addr : Word) (n : Nat) (l : Lower) (nx : Word) :
    (loopEnd addr n l nx).1 = { l with lpc := (loopEnd addr n l nx).1.lpc,
                                       stat := { l.stat with ld := (loopEnd addr n l nx).1.stat.ld } } := by
  induction n generalizing l with
  | zero => rfl
  | succ n ih =>
    unfold loopEnd
    dsimp only
    split
    · rfl
    · split
      · split
        · rfl
        · rw [ih]
      · rfl

theorem closeLoops_frame (target : Word) (n : Nat) (l : Lower) :
    closeLoops target n l = { l with stat := { l.stat with ld := (closeLoops target n l).stat.ld } } := by
  induction n generalizing l with
  | zero => rfl
  | succ n ih =>
    unfold closeLoops
    dsimp only
    split
    · rfl
    · split
      · rfl
      · rw [ih]

theorem advance_cache (addr : Word) (len : Nat) (fl : Flow) (k : Bank) (i : List IbLine) (j : List (Nat × Nat)) :
    advance addr len fl { k with ibuf := i, btb := j } = { advance addr len fl k with ibuf := i, btb := j } := by
  cases fl with
  | taken t p => cases p <;> rfl
  | _ => rfl

theorem applyWrite_cache (win : Fin 8) (k : Bank) (w : RegW) (i : List IbLine) (j : List (Nat × Nat)) :
    applyWrite win { k with ibuf := i, btb := j } w = { applyWrite win k w with ibuf := i, btb := j } := by
  cases w with
  | ctl cr v =>
    simp only [applyWrite, wrCtl]
    split <;> rfl
  | _ => rfl

theorem applyWrites_cache (win : Fin 8) (ws : List RegW) (k : Bank) (i : List IbLine) (j : List (Nat × Nat)) :
    ws.foldl (applyWrite win) { k with ibuf := i, btb := j } = { ws.foldl (applyWrite win) k with ibuf := i, btb := j } := by
  induction ws generalizing k with
  | nil => rfl
  | cons w ws ih => simp only [List.foldl_cons, applyWrite_cache, ih]

/-! ## A bundle of one syllable -/

/-- An act is a LOOP. -/
def isLoopAct (a : Act) : Bool := match a with | .loop _ _ => true | _ => false

/-- What a syllable must be to issue as a bundle of its own: nothing holds it, nothing faults, nothing waits, and its place in the
bundle changes none of its acts. -/
structure Goes (s : State) (q : Fin 16) (c : Nat) (y : SyllOut) : Prop where
  hold : y.hold = false
  faults : y.faults = []
  loop : loopFaults (bankOf s q ((s.seqs[q.val]).run.getD 0)).pc (4 * y.words) 0 [y] = []
  wait : mustWait (fetchBundle s q ((s.seqs[q.val]).run.getD 0) (4 * y.words)).1 q c y.acts = none
  place : y.acts.map (placeAct (restores [y]) 0) = y.acts
  order : actsOf [y] = y.acts
  whole : waitsForLoad [y] = false
  room : noRoom s.seqs[q.val] q [y] = false
  few : manyLoads s.seqs[q.val] [y] = false
  jend : y.acts.contains .jend = false
  regs : retRegs [y] = []

theorem modSeq_id (s : State) (q : Fin 16) (f : Seq → Seq) (h : f s.seqs[q.val] = s.seqs[q.val]) : modSeq s q f = s := by
  unfold modSeq; rw [vmod_id _ _ _ h]

theorem modBank_id (s : State) (q : Fin 16) (b : Fin 8) : modBank s q b (fun k => k) = s :=
  modSeq_id _ _ _ (by rw [show vmod (s.seqs[q.val]).banks b (fun k => k) = (s.seqs[q.val]).banks from vmod_id _ _ _ rfl])

theorem running_run {s : State} {q : Fin 16} {b : Fin 8} {c : Nat} (h : running s q = some (b, c)) :
    (s.seqs[q.val]).run = some b := by
  unfold running at h
  dsimp only at h
  split at h
  · cases h
  · split at h
    · rename_i _ b' h1 _ _ _; cases h; exact h1
    · cases h

/-- Loads outstanding, staged syllables and store-buffer entries are no bookkeeping. -/
theorem Book.loads {s t : State} {q : Fin 16} {b : Fin 8} {c : Nat} (h : Book s t q b c) :
    (t.seqs[q.val]).loads = (s.seqs[q.val]).loads := congrArg (·.loads) h.seq
theorem Book.lost {s t : State} {q : Fin 16} {b : Fin 8} {c : Nat} (h : Book s t q b c) :
    (t.seqs[q.val]).lost = (s.seqs[q.val]).lost := congrArg (·.lost) h.seq
theorem Book.md {s t : State} {q : Fin 16} {b : Fin 8} {c : Nat} (h : Book s t q b c) :
    (t.seqs[q.val]).md = (s.seqs[q.val]).md := congrArg (·.md) h.seq
theorem Book.fq {s t : State} {q : Fin 16} {b : Fin 8} {c : Nat} (h : Book s t q b c) :
    (t.seqs[q.val]).fq = (s.seqs[q.val]).fq := congrArg (·.fq) h.seq
theorem Book.sb {s t : State} {q : Fin 16} {b : Fin 8} {c : Nat} (h : Book s t q b c) :
    (t.seqs[q.val]).sb = (s.seqs[q.val]).sb := congrArg (·.sb) h.seq
theorem Book.lo {s t : State} {q : Fin 16} {b : Fin 8} {c : Nat} (h : Book s t q b c) :
    (bankOf t q b).lo = (bankOf s q b).lo := congrArg (·.lo) h.bank
theorem Book.up {s t : State} {q : Fin 16} {b : Fin 8} {c : Nat} (h : Book s t q b c) :
    (bankOf t q b).up = (bankOf s q b).up := congrArg (·.up) h.bank
theorem Book.pc {s t : State} {q : Fin 16} {b : Fin 8} {c : Nat} (h : Book s t q b c) :
    (bankOf t q b).pc = (bankOf s q b).pc := congrArg (·.pc) h.bank

/-- A syllable that is no LOOP has no fault of R260. -/
theorem loopFaults_lone (pc : Word) (n : Nat) (y : SyllOut) (hl : y.acts.any isLoopAct = false) : loopFaults pc n 0 [y] = [] := by
  have hl' : ∀ a ∈ y.acts, isLoopAct a = false := by simpa using hl
  unfold loopFaults
  rw [if_neg]
  · rfl
  · rw [Bool.not_eq_true, List.any_eq_false]
    intro a ha
    have := hl' a ha
    cases a <;> simp_all [isLoopAct]

/-- A lone syllable whose bundle ends with it issues. -/
theorem issue_alone {s : State} {u : Syl} {b : Fin 8} {c : Nat} {o : Env → SyllOut}
    (h : AtBundle s u.seq b c (4 * (o (envOf s u.seq b c)).words)) (hu : u.stop = true)
    (g : Goes s u.seq c (o (envOf s u.seq b c))) :
    issue s u o = issueBundle (fetchBundle s u.seq b (4 * (o (envOf s u.seq b c)).words)).1 u.seq b c [o (envOf s u.seq b c)] := by
  have hrun := running_run h.running
  unfold issue
  simp only [h.running, h.runs, h.alive, hu, h.unstaged, Bool.not_true, Bool.or_false, Bool.false_eq_true, if_false,
    List.nil_append, Bool.true_or, if_true]
  show commit s u.seq b c [o (envOf s u.seq b c)] = _
  generalize hy : o (envOf s u.seq b c) = y at *
  have h0 : modSeq s u.seq (fun x => { x with open_ := [] }) = s := modSeq_id _ _ _ (by
    rw [← h.unstaged])
  have hidx : sylIndex [y] 1 = y.words := by simp [sylIndex]
  have c1 : breaksAt [y] = none := rfl
  have c2 : sylFaults 0 [y] = [] := by simp [sylFaults, g.faults]
  have c3 : dupFaults 0 [] [y] = [] := by simp [dupFaults]
  have hw := g.wait
  have c4 := g.loop
  have hm : min 12 y.words = y.words := by have := h.size; omega
  rw [hrun, Option.getD_some] at hw c4
  simp only [bankOf] at c4
  unfold commit
  dsimp only
  simp only [h0, Option.isNone_iff_eq_none.1 h.item, bundleWaits, h.served, bundleBytes, List.length_singleton, hidx, hm, c1, c2, c3, c4,
    Option.isNone_iff_eq_none.1 h.code]
  simp only [List.any_cons, List.any_nil, g.hold, g.room, g.few, g.jend, jendHolds, Bool.false_and, Bool.or_false, segBusy, loadsHold, h.loads,
    h.slow, List.contains_nil, Bool.false_eq_true, if_false, Option.toList_none, List.append_nil, firstFault, List.flatMap_cons,
    List.flatMap_nil, hw]

/-- A bundle leaves DE, with no load outstanding: counters and a charge. -/
theorem bk_leaveDE {f : State} {q : Fin 16} {b : Fin 8} {c : Nat} (hl : (f.seqs[q.val]).loads = []) (ho : (f.seqs[q.val]).lost = [])
    (h : twf Ctx.free f.ctxs = true) : Bk f (leaveDE f q c) q b c := by
  have h1 : Bk f (modSeq f q (fun x =>
      { x with lost := [], bundles := x.bundles + 1, issued := x.issued + 1, stalls := x.stalls + BitVec.ofNat 64 (stallOf f q),
               held := .nothing, slow := [], loads := x.loads.map (fun y => { y with since := y.since + 1 }) })) q b c :=
    bk_modSeq _ h (by rw [hl]; simp only [List.map_nil]; rw [← hl, ← ho])
  exact bk_trans h1 (bk_chargeQ (1 + stallOf f q) h1.2)

/-- The end of a bundle after its effect. -/
theorem issued_of {a r : State} {q : Fin 16} {b : Fin 8} {c : Nat} (h : Bk a r q b c) (pc : Word) (len n : Nat) (fl : Flow)
    (hpc : pc = (bankOf a q b).pc) (hfl : fl ≠ .exited) : Issued a (endBundle q b c pc len n (r, fl)) q b c len fl := by
  have he : endBundle q b c pc len n (r, fl) = countMask (modBank r q b (advance pc len fl)) q b c n := by
    cases fl <;> first | rfl | exact absurd rfl hfl
  rw [he, hpc]
  exact (bk_trans (bk_map_bank h _ (fun k i j => advance_cache _ len fl k i j)) (bk_countMask n h.2)).1

/-- Register writes leave the PC alone. -/
theorem applyWrite_pc (win : Fin 8) (k : Bank) (w : RegW) : (applyWrite win k w).pc = k.pc := by
  cases w with
  | ctl cr v =>
    simp only [applyWrite, wrCtl]
    split <;> rfl
  | _ => rfl

theorem applyWrites_pc (win : Fin 8) (ws : List RegW) (k : Bank) : (ws.foldl (applyWrite win) k).pc = k.pc := by
  induction ws generalizing k with
  | nil => rfl
  | cons w ws ih => rw [List.foldl_cons, ih, applyWrite_pc]

/-- The register writes of a syllable, into the window of issue. -/
def writesIn (k : Bank) (y : SyllOut) : Bank := y.writes.foldl (applyWrite (winIdx k.lo.stat)) k

/-- The effect of a lone syllable: its register writes, then its acts, then the end of the bundle. -/
theorem issue_effect {s : State} {u : Syl} {b : Fin 8} {c : Nat} {o : Env → SyllOut}
    (h : AtBundle s u.seq b c (4 * (o (envOf s u.seq b c)).words)) (hu : u.stop = true)
    (g : Goes s u.seq c (o (envOf s u.seq b c))) (hd : (o (envOf s u.seq b c)).acts.any isDirAct = false) :
    ∃ (s3 : State) (k : Bank) (n : Nat),
      Bk (modBank s u.seq b (fun k => writesIn k (o (envOf s u.seq b c)))) s3 u.seq b c
      ∧ { k with ibuf := (bankOf s u.seq b).ibuf, btb := (bankOf s u.seq b).btb } = bankOf s u.seq b
      ∧ issue s u o =
        endBundle u.seq b c k.pc (4 * (o (envOf s u.seq b c)).words) n
          (runActs u.seq b c k (4 * (o (envOf s u.seq b c)).words) s3 .seqn (o (envOf s u.seq b c)).acts) := by
  rw [issue_alone h hu g]
  generalize o (envOf s u.seq b c) = y at *
  generalize hf : (fetchBundle s u.seq b (4 * y.words)).1 = f
  have hfb : Bk s f u.seq b c := hf ▸ bk_fetchBundle _ h.errors h.tables
  have hl : (f.seqs[u.seq.val]).loads = [] := (Book.loads hfb.1).trans h.loads
  have hlost : (f.seqs[u.seq.val]).lost = [] := (Book.lost hfb.1).trans h.lost
  have h2 := bk_trans hfb (bk_leaveDE hl hlost hfb.2)
  have h3 := bk_trans h2 (bk_useLines (dBase (segReg (bankOf f u.seq b).lo 1) + (bankOf f u.seq b).pc.toNat) (4 * y.words) h2.2)
  have hidx : sylIndex [y] 1 = y.words := by simp [sylIndex]
  have hnd : ∀ a ∈ y.acts, isDirAct a = false := by simpa using hd
  have hacts := g.order
  have hpart : y.acts.partition isDirAct = ([], y.acts) := by
    rw [List.partition_eq_filter_filter, List.filter_eq_nil_iff.2 (by simpa using hnd),
      List.filter_eq_self.2 (fun a ha => by simp [hnd a ha])]
  have hw : writesOf [y] = y.writes := by
    unfold writesOf
    by_cases hs : y.slot = .b <;> simp [hs]
  have hpl : placeActs (restores [y]) 0 [y] = [y] := by simp [placeActs, g.place]
  generalize hX : useLines (leaveDE f u.seq c) u.seq b c
    (dBase (segReg (bankOf f u.seq b).lo 1) + (bankOf f u.seq b).pc.toNat) (4 * y.words) = X at h3
  have hB := bk_map_bank h3 (fun k => y.writes.foldl (applyWrite (winIdx (bankOf s u.seq b).lo.stat)) k)
    (fun k i j => applyWrites_cache _ _ k i j)
  have hput : (if y.writes.isEmpty then X else modBank X u.seq b (fun k => y.writes.foldl (applyWrite (winIdx (bankOf s u.seq b).lo.stat)) k))
      = modBank X u.seq b (fun k => y.writes.foldl (applyWrite (winIdx (bankOf s u.seq b).lo.stat)) k) := by
    split
    · rename_i he
      rw [List.isEmpty_iff.1 he]
      exact (modBank_id X u.seq b).symm
    · rfl
  have hwin : (bankOf X u.seq b).lo = (bankOf s u.seq b).lo := Book.lo h3.1
  refine ⟨_, bankOf X u.seq b, 1 + stallOf f u.seq, hB, h3.1.bank, ?_⟩
  unfold issueBundle
  dsimp only
  simp only [List.length_singleton, hidx, hpl, g.whole, Bool.false_eq_true, if_false]
  simp only [bankOf] at hX
  rw [hX]
  unfold finishBundle
  dsimp only
  simp only [List.length_singleton, hidx, hacts, hpart, runActs, hw, g.regs, List.isEmpty_nil, if_true]
  rw [if_neg (by simp)]
  simp only [bankOf] at hwin hput ⊢
  rw [hwin, hput]
  congr 1
  split <;> simp_all

/-- A lone syllable that only writes registers completes. -/
theorem issue_writes {s : State} {u : Syl} {b : Fin 8} {c : Nat} {o : Env → SyllOut}
    (h : AtBundle s u.seq b c (4 * (o (envOf s u.seq b c)).words)) (hu : u.stop = true)
    (hh : (o (envOf s u.seq b c)).hold = false) (hf : (o (envOf s u.seq b c)).faults = [])
    (ha : (o (envOf s u.seq b c)).acts = []) (hr : retRegs [o (envOf s u.seq b c)] = []) :
    ∃ t, issue s u o = t ∧ Issued (modBank s u.seq b (fun k => writesIn k (o (envOf s u.seq b c)))) t u.seq b c
      (4 * (o (envOf s u.seq b c)).words) .seqn := by
  obtain ⟨s3, k, n, h3, hk, e⟩ := issue_effect h hu
    ⟨hh, hf, loopFaults_lone _ _ _ (by rw [ha]; rfl), by rw [ha]; rfl, by rw [ha]; rfl, by simp only [actsOf, List.flatMap_cons, List.flatMap_nil, ha]; (by_cases hs : (o (envOf s u.seq b c)).slot = .b <;> simp [hs, ha]), by simp [waitsForLoad, ha],
      by simp [noRoom, ha], by simp [manyLoads, ha], by simp [ha], hr⟩ (by rw [ha]; rfl)
  rw [ha] at e
  refine ⟨_, e, issued_of h3 _ _ _ _ ?_ (by simp)⟩
  rw [bankOf_modBank_same, writesIn, applyWrites_pc]
  exact congrArg (·.pc) hk

/-- Between bundles no register has a result outstanding. -/
theorem intBusy_idle {s : State} {q : Fin 16} {b : Fin 8} {c len : Nat} (h : AtBundle s q b c len) (r : Fin 32) :
    intBusy s.seqs[q.val] b r = false := by
  simp [intBusy, h.loads, h.md, h.fq, h.slow]

theorem busy_idle {s : State} {q : Fin 16} {b : Fin 8} {c len : Nat} (h : AtBundle s q b c len) (rs : List (Fin 32)) :
    (envOf s q b c).busy rs = false := by
  simp [Env.busy, envOf, intBusy_idle h]

theorem loadsOut_idle {s : State} {q : Fin 16} {b : Fin 8} {c len : Nat} (h : AtBundle s q b c len) :
    (envOf s q b c).loadsOut = false := by
  simp [Env.loadsOut, envOf, h.loads]

theorem fops_idle {s : State} {q : Fin 16} {b : Fin 8} {c len : Nat} (h : AtBundle s q b c len) :
    (envOf s q b c).fops = false := by
  simp [Env.fops, envOf, h.fq]

theorem resOut_idle {s : State} {q : Fin 16} {b : Fin 8} {c len : Nat} (h : AtBundle s q b c len) :
    (envOf s q b c).resOut = false := by
  simp [Env.resOut, envOf, h.fq, h.md, h.loads]

theorem segBusy_idle {s : State} {q : Fin 16} {b : Fin 8} {c len : Nat} (h : AtBundle s q b c len) (n : Fin 16) :
    segBusy s.seqs[q.val] b n = false := by
  simp [segBusy, h.loads, h.slow]

/-- An I syllable that writes RD completes. -/
theorem issue_iOut {s : State} {u : ISyl} {b : Fin 8} {c : Nat} {w : Nat} {rs : List (Fin 32)} {rd : Fin 32} {v : Env → Word}
    {len : Nat} (h : AtBundle s u.seq b c len) (hl : len = 4 * w) (hu : u.stop = true) :
    ∃ t, issue s (ISyl.syl u) (fun e => iOut u e w rs rd (v e) []) = t ∧
      Issued (modBank s u.seq b (fun k => { k with lo := wrInt k.lo rd (v (envOf s u.seq b c)) })) t u.seq b c len .seqn := by
  subst hl
  exact issue_writes (u := ISyl.syl u) (o := fun e => iOut u e w rs rd (v e) []) h hu (busy_idle h _) rfl rfl rfl

/-- A lone syllable whose acts have a known effect completes. The bank at issue is that of the state but for its cached code. -/
theorem issue_acts {s : State} {u : Syl} {b : Fin 8} {c : Nat} {o : Env → SyllOut} {len : Nat}
    (h : AtBundle s u.seq b c len) (hl : len = 4 * (o (envOf s u.seq b c)).words) (hu : u.stop = true)
    (g : Goes s u.seq c (o (envOf s u.seq b c))) (hd : (o (envOf s u.seq b c)).acts.any isDirAct = false)
    (A : Bank → State) (fl : Flow) (hfl : fl ≠ .exited)
    (hrun : ∀ (s3 : State) (k : Bank), Bk (modBank s u.seq b (fun k => writesIn k (o (envOf s u.seq b c)))) s3 u.seq b c →
      { k with ibuf := (bankOf s u.seq b).ibuf, btb := (bankOf s u.seq b).btb } = bankOf s u.seq b →
      ∃ r, runActs u.seq b c k len s3 .seqn (o (envOf s u.seq b c)).acts = (r, fl) ∧ Bk (A k) r u.seq b c
        ∧ (bankOf (A k) u.seq b).pc = (bankOf s u.seq b).pc) :
    ∃ t k, { k with ibuf := (bankOf s u.seq b).ibuf, btb := (bankOf s u.seq b).btb } = bankOf s u.seq b
      ∧ issue s u o = t ∧ Issued (A k) t u.seq b c len fl := by
  subst hl
  obtain ⟨s3, k, n, h3, hk, e⟩ := issue_effect h hu g hd
  obtain ⟨r, hr, hb, hp⟩ := hrun s3 k h3 hk
  rw [hr] at e
  refine ⟨_, k, hk, e, issued_of hb _ _ _ _ ?_ hfl⟩
  rw [hp]
  exact congrArg (·.pc) hk

/-- A lone syllable with one illegal field raises Illegal Instruction, after the bookkeeping of its fetch. -/
theorem issue_illegal {s : State} {u : Syl} {b : Fin 8} {c : Nat} {o : Env → SyllOut} {f : SFault}
    (h : AtBundle s u.seq b c (4 * (o (envOf s u.seq b c)).words)) (hu : u.stop = true)
    (hh : (o (envOf s u.seq b c)).hold = false) (hf : (o (envOf s u.seq b c)).faults = [f]) (hp : f.phase = 3) (hc : f.code = 1)
    (hl : loopFaults (bankOf s u.seq b).pc (4 * (o (envOf s u.seq b c)).words) 0 [o (envOf s u.seq b c)] = [])
    (hm : manyLoads s.seqs[u.seq.val] [o (envOf s u.seq b c)] = false) :
    ∃ g, Book s g u.seq b c ∧
      issue s u o = raiseExc g u.seq b c (Exc.plain 0x01 f.sub.toNat (bankOf s u.seq b).pc f.faddr.toNat (some 0)) := by
  unfold issue
  simp only [h.running, h.runs, h.alive, hu, h.unstaged, Bool.not_true, Bool.or_false, Bool.false_eq_true, if_false,
    List.nil_append, Bool.true_or, if_true]
  show ∃ g, Book s g u.seq b c ∧ commit s u.seq b c [o (envOf s u.seq b c)] = _
  generalize hy : o (envOf s u.seq b c) = y at *
  have h0 : modSeq s u.seq (fun x => { x with open_ := [] }) = s := modSeq_id _ _ _ (by rw [← h.unstaged])
  have hidx : sylIndex [y] 1 = y.words := by simp [sylIndex]
  have c1 : breaksAt [y] = none := rfl
  have c3 : dupFaults 0 [] [y] = [] := by simp [dupFaults]
  have hfb : Bk s (fetchBundle s u.seq b (4 * y.words)).1 u.seq b c := bk_fetchBundle _ h.errors h.tables
  refine ⟨(fetchBundle s u.seq b (4 * y.words)).1, hfb.1, ?_⟩
  have hb : entryBusy (fetchBundle s u.seq b (4 * y.words)).1 u.seq b = false := by
    simp [entryBusy, hfb.1.loads, hfb.1.fq, hfb.1.md, h.loads, h.fq, h.md]
  have hpc : ((fetchBundle s u.seq b (4 * y.words)).1.seqs[u.seq.val].banks[b.val]).pc = (bankOf s u.seq b).pc := hfb.1.pc
  have hlost : ((fetchBundle s u.seq b (4 * y.words)).1.seqs[u.seq.val]).lost = [] := hfb.1.lost.trans h.lost
  have hid : modSeq (fetchBundle s u.seq b (4 * y.words)).1 u.seq (fun x => { x with lost := [] }) = (fetchBundle s u.seq b (4 * y.words)).1 :=
    modSeq_id _ _ _ (by rw [← hlost])
  have hpages : (fetchBundle s u.seq b (4 * y.words)).1.pages.any (·.held) = false := by rw [hfb.1.pages]; exact h.served
  have hm12 : min 12 y.words = y.words := by have := h.size; omega
  unfold commit
  dsimp only
  simp only [bankOf] at hl
  simp only [h0, Option.isNone_iff_eq_none.1 h.item, List.length_singleton, hidx, c1, c3, hl, sylFaults, hf, List.map_cons, List.map_nil,
    bundleBytes, hm12, bundleWaits, h.served, Option.isNone_iff_eq_none.1 h.code, List.any_cons, List.any_nil, hh, hm, Bool.false_and,
    Bool.or_false, segBusy, loadsHold, h.loads, h.slow, List.contains_nil, Bool.false_eq_true, if_false, Option.toList_none, List.append_nil,
    List.nil_append, firstFault, entryStops, entryWaits, hb, hpages]
  unfold raiseFault
  split
  · rename_i hq
    simp only [faultInEX, hp] at hq ⊢
    simp at hq
    simp [raiseExc, hq, Exc.plain, hpc, bankOf]
  · rename_i hq
    simp only [faultInEX, hp] at hq
    simp at hq
    simp [hq, hp, hc, faultInEX, faultActs, hid, runPartial, sylAt, hpc, bankOf, faultExc]

end Sys2Proof.Machine
end

