-- ==== Sys2Proof/Laws/Memory.lean ====
section
/-! SUPPORT. Every memory operation keeps the canonical form; what a byte reads as after a write; and a sequencer's own
scratchpad as a sequencer, a pipe or the host DMA sees it. -/

namespace Sys2Proof.Machine

/-! ## The canonical form -/

theorem memWf_wrByte (s : State) (k : Nat) (b : Byte) (h : memWf s.mem = true) : memWf (wrByte s k b).mem = true :=
  twf_tset _ _ _ _ h

theorem memWf_wrBytes (s : State) (k : Nat) (bs : List Byte) (h : memWf s.mem = true) : memWf (wrBytes s k bs).mem = true := by
  induction bs generalizing s k with
  | nil => exact h
  | cons b bs ih => exact ih _ _ (memWf_wrByte s k b h)

/-- What a write does to errors before it writes leaves memory alone. -/
@[simp] theorem meetUnit_mem (s : State) (p : Place) (c : CodeWord) : (meetUnit s p c).mem = s.mem := by
  unfold meetUnit correctUnit
  split <;> try rfl
  split
  · dsimp only; split <;> rfl
  · split <;> rfl

@[simp] theorem meetUpset_mem (s : State) (p : Place) : (meetUpset s p).mem = s.mem := by
  unfold meetUpset; split <;> simp

@[simp] theorem dropBack_mem (s : State) (p : Place) : (dropBack s p).mem = s.mem := by
  unfold dropBack; split
  · split <;> rfl
  · rfl

@[simp] theorem freshUnit_mem (s : State) (p : Place) : (freshUnit s p).mem = s.mem := by simp [freshUnit]

theorem memWf_wrChunk (s : State) (m : Master) (c : Chunk) (h : memWf s.mem = true) : memWf (wrChunk s m c).1.mem = true := by
  unfold wrChunk
  generalize place s m c.ga = o
  cases o with
  | none => exact h
  | some p =>
    dsimp only
    split
    · exact h
    · split
      · exact h
      · split
        · exact memWf_wrBytes _ _ _ (by simpa using h)
        · split
          · simpa using h
          · exact memWf_wrBytes _ _ _ (by simpa using h)

theorem memWf_wrChunks (s : State) (m : Master) (cs : List Chunk) (h : memWf s.mem = true) :
    memWf (wrChunks s m cs).1.mem = true := by
  induction cs generalizing s with
  | nil => rw [wrChunks]; exact h
  | cons c cs ih => rw [wrChunks]; exact ih _ (memWf_wrChunk s m c h)

/-- The end of COLLIDED answers leaves memory alone. -/
theorem endAnswers_mem (s : State) (m : Master) (ga len : Nat) : (endAnswers s m ga len).mem = s.mem := by
  unfold endAnswers; split <;> rfl

theorem memWf_gaWrite (s : State) (m : Master) (ga : Nat) (bs : List Byte) (h : memWf s.mem = true) :
    memWf (gaWrite s m ga bs).1.mem = true := by
  rw [gaWrite, endAnswers_mem]; exact memWf_wrChunks s m _ h

theorem memWf_clearRange (s : State) (lo hi : Nat) (h : memWf s.mem = true) : memWf (clearRange s lo hi).mem = true :=
  twf_filter _ _ _ h

theorem memWf_qmWrite (s : State) (off : Nat) (bs : List Byte) (h : memWf s.qmem = true) :
    memWf (qmWrite s off bs).qmem = true := by
  induction bs generalizing s off with
  | nil => exact h
  | cons b bs ih => exact ih _ _ (twf_tset _ _ _ _ h)

/-- A write through the fabric keeps queue memory, and a write to queue memory keeps the rest. -/
theorem qmWrite_mem (s : State) (off : Nat) (bs : List Byte) : (qmWrite s off bs).mem = s.mem := by
  induction bs generalizing s off with
  | nil => rfl
  | cons b bs ih => exact ih _ _

theorem memOk_reset : State.reset.MemOk := ⟨rfl, rfl⟩

/-! ## Reading back -/

theorem rdByte_wrByte_same (s : State) (k : Nat) (b : Byte) (h : memWf s.mem = true) : rdByte (wrByte s k b) k = b :=
  tget_tset_same _ _ _ _ h

theorem rdByte_wrByte_other (s : State) (k j : Nat) (b : Byte) (h : j ≠ k) : rdByte (wrByte s k b) j = rdByte s j :=
  tget_tset_other _ _ _ _ _ h

theorem rdByte_wrBytes_outside (s : State) (k j : Nat) (bs : List Byte) (h : j < k ∨ k + bs.length ≤ j) :
    rdByte (wrBytes s k bs) j = rdByte s j := by
  induction bs generalizing s k with
  | nil => rfl
  | cons b bs ih =>
    simp only [List.length_cons] at h
    rw [wrBytes, ih _ _ (by omega), rdByte_wrByte_other _ _ _ _ (by omega)]

theorem rdByte_wrBytes_inside (s : State) (k i : Nat) (bs : List Byte) (h : memWf s.mem = true) (hi : i < bs.length) :
    rdByte (wrBytes s k bs) (k + i) = bs[i] := by
  induction bs generalizing s k i with
  | nil => simp at hi
  | cons b bs ih =>
    rw [wrBytes]
    cases i with
    | zero =>
      rw [rdByte_wrBytes_outside _ _ _ _ (by omega)]
      exact rdByte_wrByte_same s k b h
    | succ i =>
      rw [show k + (i + 1) = k + 1 + i by omega]
      exact ih _ _ _ (memWf_wrByte s k b h) (by simpa using hi)

/-! ## A sequencer's scratchpad -/

/-- The bytes of a sequencer's scratchpad that software uses (R406). -/
def InScratch (q : Fin 16) (ga : Nat) : Prop := onDieBase + q.val * 0x100000 ≤ ga ∧ ga < onDieBase + q.val * 0x100000 + 0xFF000

theorem place_scratch (s : State) (m : Master) (q : Fin 16) (ga : Nat) (hm' : portAdmits m = true) (h : InScratch q ga) :
    place s m ga = some ⟨.scratch q, ga⟩ := by
  obtain ⟨h1, h2⟩ := h
  have hq := q.isLt
  have hm : lmTopG s ≤ 576 := by unfold lmTopG; split <;> omega
  have e1 : ga % 0x100000000 / 0x100000 = q.val := by unfold onDieBase at *; omega
  have e2 : ga % 0x100000000 % 0x100000 < 0xFF000 := by unfold onDieBase at *; omega
  unfold place
  rw [if_neg (by unfold onDieBase GiB at *; omega), if_pos (by unfold onDieBase at *; omega)]
  simp only [e1, e2, hq, dif_pos, if_pos, Fin.eta, hm']

/-- With no poison and no error that waits to be met, no unit is poisoned. -/
theorem poisoned_none (s : State) (p : Place) (hp : s.poison = []) (hu : s.upset = []) : poisoned s p = false := by
  simp [poisoned, hp, hu, tget]

/-- A scratchpad range of an island that runs, with no poison anywhere, reads clean, byte by byte. -/
theorem gaRead_scratch (s : State) (m : Master) (q : Fin 16) (n ga : Nat) (hm : portAdmits m = true)
    (hup : islandUp s (islSQ q) = true) (hp : s.poison = []) (hu : s.upset = []) (h : n ≠ 0 → InScratch q ga ∧ InScratch q (ga + n - 1)) :
    gaRead s m ga n = ⟨(List.range n).map (fun i => rdByte s (ga + i)), none, none, none⟩ := by
  induction n generalizing ga with
  | zero => rfl
  | succ n ih =>
    obtain ⟨ha, hb⟩ := h (by omega)
    have hi := ih (ga + 1) (fun hn => ⟨⟨by have := ha.1; omega, by have := hb.2; omega⟩, by rw [show ga + 1 + n - 1 = ga + (n + 1) - 1 by omega]; exact hb⟩)
    have hpo : poisoned s ⟨.scratch q, ga⟩ = false := poisoned_none s _ hp hu
    have her : errorAt s ⟨.scratch q, ga⟩ = false := by simp [errorAt, hup]
    simp only [gaRead, place_scratch s m q ga hm ha, hi, hpo, her, List.range_succ_eq_map, List.map_cons, List.map_map]
    simp [Function.comp_def, Nat.add_assoc, Nat.add_comm 1]

theorem mem_ite {α : Type} {p : Prop} [Decidable p] {a : α} {x y : List α} (h : a ∈ if p then x else y) : a ∈ x ∨ a ∈ y := by
  split at h
  · exact .inl h
  · exact .inr h

theorem natOf_append (xs ys : List Byte) : natOf (xs ++ ys) = natOf xs + 256 ^ xs.length * natOf ys := by
  induction xs with
  | nil => simp [natOf]
  | cons b xs ih => simp only [List.cons_append, natOf, ih, List.length_cons, Nat.pow_succ]; ring

/-- A range of bytes of which at most one differs from zero. -/
theorem natOf_one (f : Nat → Byte) (n i : Nat) (h : ∀ j, j ≠ i → f j = 0) :
    natOf ((List.range n).map f) = if i < n then 256 ^ i * (f i).toNat else 0 := by
  induction n with
  | zero => simp [natOf]
  | succ n ih =>
    rw [List.range_succ, List.map_append, natOf_append, ih]
    simp only [List.length_map, List.length_range, List.map_cons, List.map_nil, natOf]
    rcases Nat.lt_trichotomy i n with hl | rfl | hl
    · rw [if_pos hl, if_pos (by omega), h n (by omega)]; simp
    · rw [if_neg (by omega), if_pos (by omega)]; simp
    · rw [if_neg (by omega), if_neg (by omega), h n (by omega)]; simp

/-- The first byte of every chunk lies in the range. -/
theorem chunks_within (s : State) (m : Master) (ga : Nat) (bs : List Byte) :
    ∀ c ∈ chunks s m ga bs, ga ≤ c.ga ∧ c.ga < ga + bs.length := by
  induction bs generalizing ga with
  | nil => simp [chunks]
  | cons b bs ih =>
    intro c hc
    simp only [List.length_cons]
    simp only [chunks] at hc
    have hh := ih (ga + 1)
    revert hc
    cases hr : chunks s m (ga + 1) bs with
    | nil => intro hc; simp at hc; subst hc; simp
    | cons d ds =>
      intro hc
      rw [hr] at hh
      dsimp only at hc
      rcases mem_ite hc with hc | hc
      · rcases List.mem_cons.mp hc with rfl | hc
        · simp
        · have := hh c hc; omega
      · rcases List.mem_cons.mp hc with rfl | hc
        · simp
        · have := hh c (List.mem_cons_of_mem _ hc); omega

theorem wrBytes_only (s : State) (k : Nat) (bs : List Byte) : ∃ m, wrBytes s k bs = { s with mem := m } := by
  induction bs generalizing s k with
  | nil => exact ⟨s.mem, rfl⟩
  | cons b bs ih => obtain ⟨m, hm⟩ := ih (wrByte s k b) (k + 1); exact ⟨m, by rw [wrBytes, hm]; rfl⟩

/-- Where no error waits to be met or to be written back, a write changes memory alone. -/
theorem meetUpset_none (s : State) (p : Place) (hu : s.upset = []) : meetUpset s p = s := by simp [meetUpset, hu, tget]

theorem dropBack_scratch (s : State) (q : Fin 16) (ga : Nat) (hc : (getMem s q.val).correct = []) :
    dropBack s ⟨.scratch q, ga⟩ = s := by simp [dropBack, memIndex, hc]

theorem freshUnit_scratch (s : State) (q : Fin 16) (ga : Nat) (hp : s.poison = []) (hu : s.upset = [])
    (hc : (getMem s q.val).correct = []) : freshUnit s ⟨.scratch q, ga⟩ = s := by
  unfold freshUnit
  rw [dropBack_scratch _ _ _ (by simpa [getMem] using hc)]
  cases s; simp_all [tset]

theorem wrChunk_scratch (s : State) (m : Master) (q : Fin 16) (c : Chunk) (hm : portAdmits m = true) (hup : islandUp s (islSQ q) = true)
    (hp : s.poison = []) (hu : s.upset = []) (hc : (getMem s q.val).correct = []) (ha : s.lms.answers = []) (h : InScratch q c.ga) :
    ∃ x, wrChunk s m c = ({ s with mem := x }, none) := by
  unfold wrChunk
  rw [place_scratch s m q c.ga hm h]
  have her : errorAt s ⟨.scratch q, c.ga⟩ = false := by simp [errorAt, hup]
  have hpo : poisoned s ⟨.scratch q, c.ga⟩ = false := poisoned_none s _ hp hu
  simp only [her, meetUpset_none s _ hu, hpo, freshUnit_scratch s q c.ga hp hu hc, dropBack_scratch s q c.ga hc]
  simp only [Bool.false_eq_true, if_false]
  rw [if_neg (by simp [fourthAnswer, ha]), if_neg (by simp)]
  obtain ⟨x, hx⟩ := wrBytes_only s c.ga c.bytes
  exact ⟨x, by rw [hx]; split <;> rfl⟩

/-- A write to a scratchpad range of an island that runs, with no poison or error anywhere and no port-B write answered COLLIDED, succeeds
and changes memory alone. -/
theorem gaWrite_scratch (s : State) (m : Master) (q : Fin 16) (ga : Nat) (bs : List Byte) (hm : portAdmits m = true)
    (hup : islandUp s (islSQ q) = true) (hp : s.poison = []) (hu : s.upset = []) (hk : (getMem s q.val).correct = []) (ha : s.lms.answers = []) (h : bs ≠ [] → InScratch q ga ∧ InScratch q (ga + bs.length - 1)) :
    ∃ x, gaWrite s m ga bs = ({ s with mem := x }, none) := by
  have hc : ∀ c ∈ chunks s m ga bs, InScratch q c.ga := by
    intro c hc
    have hw := chunks_within s m ga bs c hc
    have hb := h (by rintro rfl; simp [chunks] at hc)
    exact ⟨by have := hb.1.1; omega, by have := hb.2.2; omega⟩
  have hw : ∃ x, wrChunks s m (chunks s m ga bs) = ({ s with mem := x }, none) := by
    generalize chunks s m ga bs = cs at hc
    clear h
    induction cs generalizing s with
    | nil => exact ⟨s.mem, rfl⟩
    | cons c cs ih =>
      obtain ⟨x, hx⟩ := wrChunk_scratch s m q c hm hup hp hu hk ha (hc c (by simp))
      obtain ⟨y, hy⟩ := ih { s with mem := x } hup hp hu hk ha (fun d hd => hc d (List.mem_cons_of_mem _ hd))
      exact ⟨y, by rw [wrChunks]; simp only [hx, hy]; rfl⟩
  obtain ⟨x, hx⟩ := hw
  exact ⟨x, by simp [gaWrite, hx, endAnswers, ha]⟩

end Sys2Proof.Machine
end

