-- ==== Sys2Proof/Laws/Shared.lean ====
section
/-! SUPPORT. What the operations that several commands share can do: failed loads, loads beside the store buffer, memory errors at a
read, answers of an island, and the records of the context store. -/

namespace Sys2Proof.Machine

/-! ## Loads and the store buffer -/

/-- Bytes forwarded to a load are as many as it reads. -/
theorem forward_length (sb : List SbEntry) (ga z : Nat) (bs : List Byte) (h : forward sb ga z = .bytes bs) : bs.length = z := by
  unfold forward at h
  split at h
  · cases h
  · split at h
    · rename_i hz
      cases h
      simp only [List.length_take, List.length_drop]
      omega
    · cases h

/-- A load that no buffered store overlaps reads memory, where no request of its bundle was answered with an error. -/
theorem readThrough_none {s : State} {m : Master} {sb : List SbEntry} {ga z : Nat} (h : forward sb ga z = .none)
    (hl : lostTo s m ga z = none) : readThrough s m sb ga z = gaRead s m ga z := by
  simp only [readThrough, h, reqRead, hl]
  cases gaRead s m ga z with
  | mk bs e f n => cases f <;> rfl

theorem forward_nil (ga z : Nat) : forward [] ga z = .none := rfl

/-- An entry that may drain is in flight, no older entry has a byte of its own, and a strongly ordered one is the oldest. -/
theorem drainable_spec {sb : List SbEntry} {i : Nat} {e : SbEntry} (h : drainable sb i = some e) :
    sb[i]? = some e ∧ e.sent = true
    ∧ ∀ o ∈ sb.take i, e.se = false ∧ o.se = false ∧ overlaps o.ga o.bytes.length e.ga e.bytes.length = false := by
  simp only [drainable, Option.filter_eq_some_iff, Bool.and_eq_true, Bool.not_eq_true', List.any_eq_false] at h
  exact ⟨h.1, h.2.1, fun o ho => by simpa [and_assoc] using h.2.2 o ho⟩

/-- Nothing is settled while no load is outstanding, or while more than one is. -/
theorem settleLoads_idle {s : State} {q : Fin 16} (h : (s.seqs[q.val]).loads.length ≠ 1) : settleLoads s q = s := by
  unfold settleLoads
  split
  · rename_i l hl
    simp [hl] at h
  · rfl

/-- A failed load discards no byte of memory and no other sequencer's work. -/
theorem undoTo_mem (s : State) (q : Fin 16) (l : LongLoad) : (undoTo s q l).mem = s.mem := rfl

/-- What a failed load leaves is older than its bundle, but for the loads of that bundle that stand before it. -/
theorem undoTo_older (s : State) (q : Fin 16) (l : LongLoad) :
    (∀ e ∈ ((undoTo s q l).seqs[q.val]).sb, e.stamp < l.stamp)
    ∧ (∀ o ∈ ((undoTo s q l).seqs[q.val]).fq, o.stamp < l.stamp)
    ∧ (∀ y ∈ ((undoTo s q l).seqs[q.val]).loads, y.stamp < l.stamp ∨ (y.stamp = l.stamp ∧ y.idx < l.idx)) := by
  simp [undoTo, modSeq, vmod]

/-! ## Charges -/

/-- No Q-cycle of an interrupt handler, or after a preemption is decided on, is metered (R309, R319). -/
theorem chargeQ_exempt {s : State} {c n : Nat} (h : inInterrupt (getCtx s c) = true ∨ (getCtx s c).leaving = true) :
    chargeQ s c n = s := by
  unfold chargeQ
  rcases h with h | h <;> simp [h]

/-! ## Memory errors at a read -/

/-- A read of a range meets the errors that its units hold, which changes no byte. -/
@[simp] theorem touch_mem (s : State) (m : Master) (ga len : Nat) : (touch s m ga len).mem = s.mem := by
  unfold touch
  generalize s.upset = l
  induction l generalizing s with
  | nil => rfl
  | cons e es ih =>
    rw [List.foldl_cons, ih]
    dsimp only
    split
    · split <;> simp
    · rfl

@[simp] theorem meetError_mem (s : State) (m : Master) (ga : Nat) (f : CodeWord) : (meetError s m ga f).mem = s.mem := by
  unfold meetError
  repeat' split
  all_goals simp

@[simp] theorem ariseAt_mem (s : State) (ga : Nat) (f : CodeWord) : (ariseAt s ga f).mem = s.mem := by
  unfold ariseAt
  repeat' split
  all_goals rfl

/-- What a read finds in its units changes no byte. -/
theorem meetErrors_mem (s : State) (m : Master) (ga len : Nat) (found : List (BitVec 57 × CodeWord)) :
    (meetErrors s m ga len found).mem = s.mem := by
  unfold meetErrors
  rw [← touch_mem s m ga len]
  generalize touch s m ga len = t
  induction found generalizing t with
  | nil => rfl
  | cons e es ih =>
    rw [List.foldl_cons, ih]
    split <;> simp

/-! ## Save areas -/

/-- The areas that a save takes are free. -/
theorem freeAreas_free {s : State} {n k : Nat} (h : k ∈ freeAreas s n) : k ∉ usedAreas s := by
  have := List.mem_of_mem_take h
  simp at this
  exact this.2

/-! ## Cursor records -/

theorem bytesOf_length (n k : Nat) : (bytesOf n k).length = k := by
  induction k generalizing n with
  | zero => rfl
  | succ k ih => simp [bytesOf, ih]

/-- A cursor record is 1,024 bytes long (R297). -/
theorem recordBytes_length (x : Ctx) : (recordBytes x).length = 1024 := by
  unfold recordBytes
  extract_lets word
  have hw : ∀ n, (word n).length = 8 := fun n => bytesOf_length n 8
  clear_value word
  simp only [List.length_append, hw, List.length_flatMap, bytesOf_length, List.map_const', List.sum_replicate_nat,
    List.length_drop, Vector.length_toList]

/-! ## Islands that go down -/

/-- A response changes no byte, whether it goes out or waits for a credit. -/
@[simp] theorem respond_mem (s : State) (i : Fin 34) (t : Crossing) (r : Fin 4) (bs : List Byte) : (respond s i t r bs).mem = s.mem := by
  unfold respond respondData sendRsp
  split <;> rfl

theorem answerAll_mem (s : State) (i : Fin 34) : (answerAll s i).mem = s.mem := by
  have h : ∀ (l : List FabReq) (a : State), (l.foldl (fun a r => respond a i r.t 1 []) a).mem = a.mem := by
    intro l
    induction l with
    | nil => exact fun _ => rfl
    | cons r rs ih => exact fun a => by rw [List.foldl_cons, ih, respond_mem]
  exact h _ s

end Sys2Proof.Machine
end

