-- ==== Sys2Proof/WellFormed.lean ====
section
/-! DEFINITION. When a command is well formed: its operands are ones that the manual lets the outside world give. An
ill-formed command has no counterpart outside; its meaning is total all the same. -/

namespace Sys2Proof

/-- The event-record codes (R446). -/
def recordCodes : List (BitVec 16) :=
  [0x0101, 0x0102, 0x0103, 0x0104, 0x0105, 0x0106, 0x0107, 0x0108, 0x0109,
    0x010A, 0x010B, 0x010C, 0x010D, 0x0201, 0x0202, 0x0203, 0x0204, 0x0211,
    0x0212, 0x0213, 0x0214, 0x0215, 0x0216, 0x0217, 0x0218, 0x0301, 0x0302,
    0x0303, 0x0304, 0x0305, 0x0401, 0x0402, 0x0403, 0x0404, 0x0501, 0x0502,
    0x0503, 0x0601, 0x0602, 0x0701, 0x0702, 0x0801, 0x0802]

/-- A lane count of a host link (R350). -/
def lanesWf (w : Fin 17) : Bool := w.val = 1 || w.val = 2 || w.val = 4 || w.val = 8 || w.val = 16

/-- A lane count of an FM port (R38): 4, 8 or 16. -/
def portLanesWf (w : Fin 17) : Bool := w.val = 4 || w.val = 8 || w.val = 16

/-- A TLP carries 1 to 512 bytes and does not cross a 4 KiB boundary (R350). -/
def spanWf (off len : Nat) : Bool := decide (1 ≤ len) && decide (len ≤ 512) && decide (off % 4096 + len ≤ 4096)

/-- An access through BAR4 or J9. -/
def accessWf : BarAccess → Bool
  | .read off len => spanWf off.toNat len.val
  | .write off bytes => spanWf off.toNat bytes.length

/-- A register write names a word by its 4-byte aligned offset (R471). -/
def targetWf : RegTarget → Bool
  | .bar0 off => decide (off.toNat % 4 = 0)
  | .bar0Pair off _ => decide (off.toNat % 8 = 0)
  | .bar2 off bytes _ => spanWf off.toNat bytes.length
  | .aer | .memSpace _ | .power _ | .device _ | .device2 _ | .link | .ideStream _ _ | .sriov => true

/-- A register read names a word, or a pair of words, by its aligned offset; BAR2 is read as spanWf says. -/
def readWf : ReadTarget → Bool
  | .bar0 off => decide (off.toNat % 4 = 0)
  | .bar0Pair off => decide (off.toNat % 8 = 0)
  | .bar2 off len => spanWf off.toNat len.val
  | .config _ _ => true

/-- A doorbell's place in a BAR2 (R353): the PF's BAR2 holds all of them, a VF's its own 64. -/
def bellWf (b : Bar2) (lo : Nat) : Bool :=
  decide (b.off.toNat % 16 = lo) && decide (b.off.toNat < 16 * (if b.f.val = 0 then 4096 else 64))

/-- What enumeration found: a trained port has a speed code 1 to 3, a width of R38, and more than one expander only behind a
switch (R39). -/
def enumWf (r : Enumeration) : Bool :=
  !r.trained || (decide (1 ≤ r.speed.val) && portLanesWf r.width && (decide (r.count.val ≤ 1) || r.switch))

/-- A change of an FM link: a retrained link has a speed or a width of R38. -/
def linkWf : LinkChange → Bool
  | .down => true
  | .speed c => decide (1 ≤ c.val)
  | .width w => portLanesWf w

/-- A crossing transaction carries at most 1,024 bytes (R433). -/
def crossingWf (t : Crossing) : Bool := decide (t.data.length ≤ 1024)

/-- An access to a scratchpad bank: 1 to 64 bytes of one line of the bank (R407). -/
def portWf (bank : Fin 16) : Option PortAccess → Bool
  | none => true
  | some (.read off len _) => decide (1 ≤ len.val) && decide (off.val / 64 % 16 = bank.val) && decide (off.val % 64 + len.val ≤ 64)
  | some (.write off bytes) =>
    decide (1 ≤ bytes.length) && decide (off.val / 64 % 16 = bank.val) && decide (off.val % 64 + bytes.length ≤ 64)

/-- A well-formed command. -/
def Instr.wf (i : Instr) : Bool :=
  match i with
  | .jobSubmit => true
  | .jobCancel => true
  | .memCopy => true
  | .memFill => true
  | .programLoad => true
  | .segCreate => true
  | .segDestroy => true
  | .dirCreate => true
  | .dirCreateFillDone _ => true
  | .dirDestroy => true
  | .keyInstall => true
  | .doeKeyInstall _ _ _ => true
  | .queueCreate => true
  | .queueDelete => true
  | .statusRead => true
  | .logRead => true
  | .sqTailDoorbell g _ _ => bellWf g 0
  | .cqHeadDoorbell g _ => bellWf g 8
  | .rqeEntryFetch => true
  | .adminQueueEnable _ => true
  | .adminQueueDrain _ => true
  | .queueDrainComplete _ => true
  | .completionEntryWrite => true
  | .msixVectorUnmask _ _ => true
  | .bar4Access a => accessWf a
  | .bar4Resize _ => true
  | .undefinedBarRequest _ => true
  | .hostWindowCompletionTimeout _ _ => true
  | .hostLinkLoss _ => true
  | .perstAssert => true
  | .perstDeassert => true
  | .hostLinkReady speed width flit => decide (1 ≤ speed.val) && lanesWf width && (flit || decide (speed.val ≤ 5))
  | .flr _ => true
  | .vfDisable => true
  | .ideIntegrityFail _ => true
  | .getVersion => true
  | .getCapabilities => true
  | .negotiateAlgorithms _ => true
  | .getDigests => true
  | .getCertificate _ => true
  | .challenge _ => true
  | .getMeasurements => true
  | .keyExchange => true
  | .finish _ => true
  | .keyUpdate _ => true
  | .heartbeat _ => true
  | .endSession _ => true
  | .lifecycleTransition _ => true
  | .sidebandModuleReset _ => true
  | .add _ _ _ _ => true
  | .sub _ _ _ _ => true
  | .and _ _ _ _ => true
  | .or _ _ _ _ => true
  | .xor _ _ _ _ => true
  | .andn _ _ _ _ => true
  | .shl _ _ _ _ => true
  | .shr _ _ _ _ => true
  | .sra _ _ _ _ => true
  | .min _ _ _ _ => true
  | .max _ _ _ _ => true
  | .minu _ _ _ _ => true
  | .maxu _ _ _ _ => true
  | .cmpeq _ _ _ _ => true
  | .cmplt _ _ _ _ => true
  | .cmpltu _ _ _ _ => true
  | .clz _ _ _ => true
  | .ctz _ _ _ => true
  | .popc _ _ _ => true
  | .permb _ _ _ _ => true
  | .mul _ _ _ _ => true
  | .mulu _ _ _ _ => true
  | .mulh _ _ _ _ => true
  | .mulhu _ _ _ _ => true
  | .div _ _ _ _ => true
  | .divu _ _ _ _ => true
  | .rem _ _ _ _ => true
  | .remu _ _ _ _ => true
  | .muldivComplete _ => true
  | .addi _ _ _ _ => true
  | .andi _ _ _ _ => true
  | .ori _ _ _ _ => true
  | .xori _ _ _ _ => true
  | .shli _ _ _ _ => true
  | .shri _ _ _ _ => true
  | .srai _ _ _ _ => true
  | .cmpeqi _ _ _ _ => true
  | .cmplti _ _ _ _ => true
  | .cmpltui _ _ _ _ => true
  | .li _ _ _ => true
  | .lih _ _ _ => true
  | .bfx _ _ _ _ _ => true
  | .bfxs _ _ _ _ _ => true
  | .bfi _ _ _ _ _ => true
  | .mfc _ _ _ => true
  | .mtc _ _ _ => true
  | .ldb _ _ _ => true
  | .ldh _ _ _ => true
  | .ldw _ _ _ => true
  | .ldd _ _ _ => true
  | .ldbs _ _ _ => true
  | .ldhs _ _ _ => true
  | .ldws _ _ _ => true
  | .stb _ _ _ => true
  | .sth _ _ _ => true
  | .stw _ _ _ => true
  | .std _ _ _ => true
  | .ldf _ _ _ => true
  | .ldfs _ _ _ => true
  | .stf _ _ _ => true
  | .stfs _ _ _ => true
  | .sld _ _ _ => true
  | .sst _ _ _ => true
  | .savel _ _ => true
  | .saveh _ _ => true
  | .restl _ _ => true
  | .resth _ _ => true
  | .mfence _ => true
  | .isync _ _ _ _ => true
  | .spillw _ => true
  | .fillw _ => true
  | .br _ _ => true
  | .beqz _ _ _ => true
  | .bnez _ _ _ => true
  | .bltz _ _ _ => true
  | .bgez _ _ _ => true
  | .bgtz _ _ _ => true
  | .blez _ _ _ => true
  | .jr _ _ => true
  | .loop _ _ _ => true
  | .call _ _ _ => true
  | .callr _ _ _ => true
  | .ret _ => true
  | .retx _ => true
  | .jend _ => true
  | .trap _ _ => true
  | .brk _ => true
  | .strm _ _ _ _ => true
  | .stwait _ _ _ => true
  | .sttest _ _ _ => true
  | .fsync _ => true
  | .vgather _ _ => true
  | .vscatter _ _ => true
  | .mtf _ _ _ _ => true
  | .mff _ _ _ _ => true
  | .vmov _ _ => true
  | .vadd _ _ => true
  | .vsub _ _ => true
  | .vaddsat _ _ => true
  | .vsubsat _ _ => true
  | .vmin _ _ => true
  | .vmax _ _ => true
  | .vabs _ _ => true
  | .vneg _ _ => true
  | .vand _ _ => true
  | .vor _ _ => true
  | .vxor _ _ => true
  | .vandn _ _ => true
  | .vnot _ _ => true
  | .vshl _ _ => true
  | .vshr _ _ => true
  | .vsra _ _ => true
  | .vshli _ _ => true
  | .vshri _ _ => true
  | .vsrai _ _ => true
  | .vbfx _ _ => true
  | .vbfxs _ _ => true
  | .vbfi _ _ => true
  | .vclz _ _ => true
  | .vctz _ _ => true
  | .vpopc _ _ => true
  | .vcmpeq _ _ => true
  | .vcmpne _ _ => true
  | .vcmplt _ _ => true
  | .vcmple _ _ => true
  | .vcmpgt _ _ => true
  | .vcmpge _ _ => true
  | .vcvt _ _ => true
  | .vcvtsat _ _ => true
  | .vrsum _ _ => true
  | .vrmin _ _ => true
  | .vrmax _ _ => true
  | .vrcnt _ _ => true
  | .vrand _ _ => true
  | .vror _ _ => true
  | .vrxor _ _ => true
  | .vssum _ _ => true
  | .vsmin _ _ => true
  | .vsmax _ _ => true
  | .vscnt _ _ => true
  | .vsand _ _ => true
  | .vsor _ _ => true
  | .vsxor _ _ => true
  | .vpsum _ _ => true
  | .vpsumx _ _ => true
  | .vmul _ _ => true
  | .vmulh _ _ => true
  | .vmulsat _ _ => true
  | .vdiv _ _ => true
  | .vrem _ _ => true
  | .vfdiv _ _ => true
  | .vfsqrt _ _ => true
  | .vfadd _ _ => true
  | .vfsub _ _ => true
  | .vfmul _ _ => true
  | .vfma _ _ => true
  | .vfms _ _ => true
  | .vfnma _ _ => true
  | .vfmin _ _ => true
  | .vfmax _ _ => true
  | .vfabs _ _ => true
  | .vfneg _ _ => true
  | .vfcmpeq _ _ => true
  | .vfcmpne _ _ => true
  | .vfcmplt _ _ => true
  | .vfcmple _ _ => true
  | .vfcmpgt _ _ => true
  | .vfcmpge _ _ => true
  | .vfcvt _ _ => true
  | .vfcvtz _ _ => true
  | .vfrsum _ _ => true
  | .vfrmin _ _ => true
  | .vfrmax _ _ => true
  | .vpermb _ _ => true
  | .vexpd _ _ => true
  | .vcmpr _ _ => true
  | .vperm _ _ => true
  | .vkpopc _ _ => true
  | .vhash _ _ => true
  | .dprobe _ _ => true
  | .dins _ _ => true
  | .dagg _ _ => true
  | .ddel _ _ => true
  | .fSlotOpComplete _ => true
  | .longLoadDataArrival _ _ => true
  | .storeBufferSend _ => true
  | .storeWriteAck _ => true
  | .portBCollidedAnswer _ => true
  | .ibufLineFill _ _ _ => true
  | .sequencerInterruptTake _ => true
  | .maskOverrun _ => true
  | .watchdogExpiry _ => true
  | .streamTableGrant _ => true
  | .streamStart _ _ => true
  | .streamActivate _ _ => true
  | .streamWave _ => true
  | .stripCommit _ _ => true
  | .streamEnd _ _ => true
  | .pipeLaneFail _ _ => true
  | .dirOpRetire _ => true
  | .admissionSlotAdvance => true
  | .deadlineDemotion => true
  | .releaseSlotReached _ => true
  | .meterReport _ => true
  | .dauDemandCredit => true
  | .budgetOverrun _ => true
  | .beSliceExpiry _ => true
  | .cscPlacement => true
  | .contextTransferComplete _ => true
  | .bankSwitch _ => true
  | .contextEnding _ => true
  | .fmLinkDown _ why => linkWf why
  | .fmViral _ => true
  | .fmResponseLimitExpiry _ _ _ => true
  | .xptQualStart _ => true
  | .fmQualStepEnd _ _ => true
  | .perstXpEnd _ r => enumWf r
  | .prsntXpRemoval _ _ => true
  | .prsntXpInsert _ => true
  | .lmFrameStart _ => true
  | .lmBeAging _ _ => true
  | .lmCorrectedWriteback _ => true
  | .lmPatrolScrub _ _ => true
  | .lmRowRetireSwitch _ => true
  | .scratchpadBankCycle _ bank a b => portWf bank a && portWf bank b
  | .sramCorrectedWriteback _ => true
  | .sramScrub _ _ => true
  | .termiteWipeComplete _ => true
  | .crossingTransactionReceive _ _ t => crossingWf t
  | .crossingCreditReturn _ _ _ _ => true
  | .xrstN _ => true
  | .crossbarArbitration _ _ => true
  | .qosAgingStep _ _ _ => true
  | .floorGrant _ _ => true
  | .fabricHoldbackRelease _ _ => true
  | .evcLevelInputChange _ => true
  | .evcPulse _ => true
  | .evcPendSet _ _ => true
  | .evcPendClr _ _ => true
  | .evcMaskSet _ _ => true
  | .evcMaskClr _ _ => true
  | .evcPresentation _ => true
  | .tgtClaim _ _ => true
  | .tgtComplete _ _ _ => true
  | .evcHoldoffEnd _ => true
  | .evrRecordOffer r => recordCodes.contains r.code && (decide (r.code ≠ 0x0217) || decide (r.sev.val ≤ 3))
  | .evrTokenRefill code => recordCodes.contains code
  | .evrRecordProgrammed => true
  | .evrCtrlFlush _ => true
  | .optTick => true
  | .evrPersistCounts => true
  | .powerFailWarning _ _ => true
  | .graceExpiry => true
  | .inputRecovery _ => true
  | .pwrMeasurement _ => true
  | .throttleLower => true
  | .guaranteeFloorCrossing => true
  | .thermalTrip _ _ => true
  | .tamper _ => true
  | .pwrHbBeat => true
  | .heartbeatLost => true
  | .fwImageFallback => true
  | .coldReset _ => true
  | .warmReset => true
  | .islandReset _ => true
  | .sequencerReset _ => true
  | .pipeReset _ => true
  | .islandStateRequest _ _ => true
  | .islandWakeComplete _ => true
  | .pageEnable _ _ => true
  | .pageDisable _ _ => true
  | .blockStop _ => true
  | .pageCommit _ _ => true
  | .commitApply _ => true
  | .pageSoftReset _ _ => true
  | .quiesceSet _ _ => true
  | .quiesceClear _ _ => true
  | .pgIrqSet _ _ _ => true
  | .pgIrqClr _ _ _ => true
  | .pgIrqMskSet _ _ _ => true
  | .pgIrqMskClr _ _ _ => true
  | .loRegisterRead _ t => readWf t
  | .dauOpenWrite _ _ _ => true
  | .registerWrite _ t _ => targetWf t
  | .illegalInstruction _ words => decide (1 ≤ words.length) && decide (words.length ≤ 12)
  | .lmTrainingComplete => true
  | .coreRailsGood => true
  | .lmStackTempChange _ _ => true
  | .mgPowerLoss => true
  | .hostLinkL0Entry => true
  | .ideKmRequest _ _ _ => true
  | .doeDiscovery _ => true
  | .hostDmaComplete => true
  | .lmRowRetireStart _ _ _ row => decide (row < 32768)
  | .sramRedundancyRemap _ => true
  | .j9DebugAccess a => accessWf a
  | .senseContactChange _ _ => true

end Sys2Proof
end

