-- ==== Sys2Proof/Tests/Slice0.lean ====
section
/-! SUPPORT. Tests of the model: states that meet the hypotheses of the statements, clause by clause (the theorems wit_…), an
ill-formed command for each check of WellFormed (wf_…), and examples from the manual (test_…). -/

open Sys2Proof Sys2Proof.Machine
namespace Sys2Proof.Tests
set_option Elab.async false

/-- The module with its core rails on, every island in RUN, the link up, LM trained and every block enabled. -/
def up : State := { State.reset with
  pwr := { State.reset.pwr with core := true, islands := Vector.replicate 34 (Island.reset false), perst := false }
  hl := { Hl.reset with up := true, l0 := true }
  lmcs := Vector.replicate 12 { Lmc.reset with trained := true }
  pages := State.reset.pages.map (fun h => { h with en := true }) }

/-- Code in software LM that PL0 to PL2 may read, write and execute. -/
def code : Desc256 := mkDesc 0x200000000 0xFFFF 0x20F

/-- Data in the scratchpad of sequencer 0. -/
def data : Desc256 := mkDesc 0xF00000000000 0xFFFF 0x207

/-- A bank that holds context 5 at its first bundle, with the scratchpad behind s2 and software LM behind s3. -/
def bank : Bank := { Bank.empty with
  occ := some 5
  lo := { Lower.zero with segs := ((Lower.zero.segs.set 1 code).set 2 data).set 3 (mkDesc 0x200010000 0xFFFF 0x207) } }

def ctx : Ctx := { Ctx.free with st := .run, res := true, started := true }

/-- Sequencer 0 runs context 5 in bank 0. -/
def running1 (y : Ctx) (k : Bank) (f : Seq → Seq) : State := { up with
  ctxs := [(5, y)]
  seqs := vset up.seqs 0 (f { Seq.reset with st := 1, run := some 0, banks := vset Seq.reset.banks 0 k }) }

def run : State := running1 ctx bank id

theorem run_at4 : AtBundle run 0 0 5 4 := by constructor <;> decide +kernel
theorem run_at8 : AtBundle run 0 0 5 8 := by constructor <;> decide +kernel
theorem w1 : operandOk run 0 bank .write 8 8 ⟨2, 0, .short 0⟩ := by unfold operandOk; decide +kernel

/-- Decides AtBundle. -/
theorem at_of (s : State) (q : Fin 16) (b : Fin 8) (c len : Nat)
    (h : (seqRuns s q && decide (running s q = some (b, c)) && !(getCtx s c).dying && twf Ctx.free s.ctxs
      && decide ((s.seqs[q.val]).open_ = []) && decide ((s.seqs[q.val]).loads = []) && decide ((s.seqs[q.val]).md = none)
      && decide ((s.seqs[q.val]).fq = []) && decide ((s.seqs[q.val]).slow = []) && decide ((s.seqs[q.val]).lost = []) && decide (s.upset = [])
      && !s.pages.any (·.held) && decide (len ≤ 48) && (pendingItem s q b c).isNone && (fetchBundle s q b len).2.isNone) = true) :
    AtBundle s q b c len := by
  simp only [Bool.and_eq_true, Bool.not_eq_true', decide_eq_true_eq] at h
  obtain ⟨⟨⟨⟨⟨⟨⟨⟨⟨⟨⟨⟨⟨⟨h1, h2⟩, h3⟩, h4⟩, h5⟩, h6⟩, h7⟩, h8⟩, h9⟩, h10⟩, h11⟩, h12⟩, h13⟩, h14⟩, h15⟩ := h
  exact ⟨h1, h2, h3, h4, h5, h6, h7, h8, h9, h10, h11, h12, h13, h14, h15⟩

theorem at_run (len : Nat) (h : len = 4 ∨ len = 8) : AtBundle run 0 0 5 len := by
  rcases h with rfl | rfl
  · exact run_at4
  · exact run_at8

/-- The place of a syllable that ends its bundle in sequencer 0. -/
abbrev pl0 : Syl := ⟨0, true⟩
abbrev i0 : ISyl := ⟨0, true, false⟩
abbrev i1 : ISyl := ⟨0, true, true⟩

theorem wit_registerOperations : ∃ i u rd ra rb f b c, irResult i = some (u, rd, ra, rb, f) ∧ AtBundle run u.seq b c 4 ∧ u.stop = true :=
  ⟨.add i1 20 21 22, _, _, _, _, _, 0, 5, rfl, run_at4, rfl⟩

/-- A shift by 63, a field that ends at bit 63, and an extended immediate. -/
theorem wit_immediateOperations :
    (∃ u n rd f b c, iiResult (.shli i0 20 21 63) = some (u, n, true, rd, f) ∧ AtBundle run u.seq b c (4 * n) ∧ u.stop = true) ∧
    (∃ u n rd f b c, iiResult (.bfx i0 20 21 60 3) = some (u, n, true, rd, f) ∧ AtBundle run u.seq b c (4 * n) ∧ u.stop = true) ∧
    (∃ u n rd f b c, iiResult (.bfx i0 20 21 61 3) = some (u, n, false, rd, f) ∧ AtBundle run u.seq b c (4 * n) ∧ u.stop = true) ∧
    (∃ u n rd f b c, iiResult (.addi i0 20 21 (.long 0x7FFFFFFF)) = some (u, n, true, rd, f) ∧ AtBundle run u.seq b c (4 * n) ∧ u.stop = true) :=
  ⟨⟨_, _, _, _, 0, 5, rfl, run_at4, rfl⟩, ⟨_, _, _, _, 0, 5, rfl, run_at4, rfl⟩, ⟨_, _, _, _, 0, 5, rfl, run_at4, rfl⟩,
    ⟨_, _, _, _, 0, 5, rfl, run_at8, rfl⟩⟩

theorem wit_multiplyAndDivide : ∃ i u rd ra rb f d b c, mdResult i = some (u, rd, ra, rb, f, d) ∧ AtBundle run u.seq b c 4 ∧
    u.stop = true ∧ u.i1 = false := ⟨.divu i0 20 21 22, _, _, _, _, _, _, 0, 5, rfl, run_at4, rfl, rfl⟩

/-- The multiply-divide unit holds a result. -/
def dividing : State := running1 ctx bank (fun x => { x with md := some ⟨0, 20, -1, true, 35, 7, false, 1⟩ })

theorem wit_muldivComplete : ∃ m, (dividing.seqs[0]).md = some m ∧ ∀ l ∈ (dividing.seqs[0]).loads, l.failed = none :=
  ⟨_, rfl, by decide⟩

theorem wit_mfc : ∃ v, AtBundle run 0 0 5 4 ∧ (bankOf run 0 0).lo.stat.pl.toNat ≤ mfcLevels 19 ∧
    (ctlSpec (bankOf run 0 0))[19]? = some v := ⟨_, run_at4, by decide, rfl⟩

/-- A bank of level p whose g1 holds v. -/
def bankAt (p : BitVec 2) (v : Word) : Bank :=
  { bank with lo := { bank.lo with stat := { bank.lo.stat with pl := p }, g := bank.lo.g.set 1 v } }

/-- The first and the last register of the clause, the last of WSP's level among them. -/
theorem wit_mtc : (∃ s, AtBundle s 0 0 5 4 ∧ (bankOf s 0 0).lo.stat.pl.toNat ≤ mtcLevels 2 ∧
      mtcBad 2 (rdInt (bankOf s 0 0).lo 1).toNat = none) ∧
    (∃ s, AtBundle s 0 0 5 4 ∧ (bankOf s 0 0).lo.stat.pl.toNat ≤ mtcLevels 19 ∧
      mtcBad 19 (rdInt (bankOf s 0 0).lo 1).toNat = none) :=
  ⟨⟨running1 ctx (bankAt 0 0x40) id, at_of _ _ _ _ _ (by decide +kernel), by decide, by decide +kernel⟩,
   ⟨running1 ctx (bankAt 2 0x40) id, at_of _ _ _ _ _ (by decide +kernel), by decide, by decide +kernel⟩⟩

theorem wit_mtcStat : ∃ s, AtBundle s 0 0 5 4 ∧ (bankOf s 0 0).lo.stat.pl.toNat ≤ 1 ∧
    (let v := rdInt (bankOf s 0 0).lo 1; v.toNat / 2 ^ 7 % 8 ≠ 0 ∧ v.toNat / 2 ^ 11 % 8 ≤ 4 ∧ v.toNat < 2 ^ 15) :=
  ⟨running1 ctx (bankAt 1 0x23F8) id, at_of _ _ _ _ _ (by decide +kernel), by decide, by decide +kernel⟩

/-- The last doubleword of the scratchpad's window behind s2, and the last descriptor. -/
theorem wit_scratchpadLoads : ∃ u m z al dest vec, loadForm (.ldd pl0 20 ⟨2, 0, .long 0xFFF8⟩) = some (u, m, z, al, dest, vec) ∧
    AtBundle run u.seq 0 5 (4 * dispLen m.disp) ∧ u.stop = true ∧
    (let k := bankOf run u.seq 0
     let r := gaRead run (.seq u.seq k.lo.stat.esc) (operandGa k z m) z
     (run.seqs[u.seq.val]).sb = [] ∧ hasStore run 5 = false ∧ (vec = true → (getCtx run 5).novec = false) ∧
      operandOk run u.seq k .read z al m ∧
      ownSp u.seq (operandGa k z m) = true ∧ r.error = none ∧ r.poison = none ∧ sldLegal k r.bytes dest) :=
  ⟨_, _, _, _, _, _, rfl, run_at8, rfl, rfl, by decide +kernel, nofun, by unfold operandOk; decide +kernel, by decide +kernel, by decide +kernel,
    by decide +kernel, trivial⟩

theorem wit_longLoads : ∃ u m z al dest vec, loadForm (.sld pl0 1 ⟨3, 0, .short 0⟩) = some (u, m, z, al, dest, vec) ∧
    (let s := running1 ctx (bankAt 0 0) id
     let k := bankOf s u.seq 0
     AtBundle s u.seq 0 5 (4 * dispLen m.disp) ∧ u.stop = true ∧ (s.seqs[u.seq.val]).sb = [] ∧
      hasStore s 5 = false ∧ (vec = true → (getCtx s 5).novec = false) ∧ operandOk s u.seq k .read z al m ∧ ownSp u.seq (operandGa k z m) = false ∧
      (∀ n, dest = .seg n → n ≠ 0 ∧ (n = 1 → k.lo.stat.pl = 0))) :=
  ⟨_, _, _, _, _, _, rfl, at_of _ _ _ _ _ (by decide +kernel), rfl, rfl, by decide +kernel, nofun, by unfold operandOk; decide +kernel,
    by decide +kernel, fun n h => by cases h; decide⟩

/-- A long load of a doubleword in software LM is outstanding. -/
def loading : LongLoad :=
  { ctx := 5, bank := 0, ga := 0x200010000, len := 8, dest := .int 20 8 false, before := bank, idx := 0, since := 0, stamp := 1,
    rest := none, failed := none }
def loads : State := running1 ctx bank (fun x => { x with loads := [loading] })

theorem wit_longLoadData : (loads.seqs[0]).loads = [loading] ∧ loading.rest = none ∧ loading.failed = none ∧ (∀ m, loading.dest ≠ .mask m) ∧
    loading.before.lo = (bankOf loads 0 loading.bank).lo ∧
    (let ms := Master.seq 0 loading.before.lo.stat.esc
     let a := useSlots (meetErrors loads ms loading.ga loading.len []) ms loading.ctx (sectorsOf loading.ga loading.len)
     let r := gaRead a ms loading.ga loading.len
     waits loads ms loading.ga loading.len = false ∧ loads.upset = [] ∧ metered (getCtx loads loading.ctx) = true ∧ r.error = none ∧ r.poison = none ∧ r.unmapped = none ∧ sldLegal loading.before r.bytes loading.dest) ∧
    (∀ rd z sg, loading.dest = .int rd z sg → loading.len = z) ∧
    (∀ rd z, loading.dest = .fp rd z → loading.len = z ∧ (z = 4 ∨ z = 8)) :=
  ⟨rfl, rfl, rfl, nofun, rfl, ⟨by decide +kernel, rfl, by decide +kernel, by decide +kernel, by decide +kernel, by decide +kernel, trivial⟩, fun _ _ _ h => by cases h; rfl, nofun⟩

theorem wit_scratchpadStores : ∃ u m z al val vec, storeForm (.std pl0 20 ⟨2, 0, .short 0⟩) = some (u, m, z, al, val, vec) ∧
    (let k := bankOf run u.seq 0
     AtBundle run u.seq 0 5 (4 * dispLen m.disp) ∧ u.stop = true ∧ (vec = true → (getCtx run 5).novec = false) ∧
     operandOk run u.seq k .write z al m ∧ ownSp u.seq (operandGa k z m) = true ∧
     (∀ e ∈ (run.seqs[u.seq.val]).sb, ownSp u.seq e.ga = false ∧ e.se = false) ∧ (run.seqs[u.seq.val]).sb = [] ∧ seFree run u.seq 5 (segReg k.lo m.seg) ∧ (gaWrite run (.seq u.seq k.lo.stat.esc) (operandGa k z m) (val k)).2 = none) :=
  ⟨_, _, _, _, _, _, rfl, run_at4, rfl, nofun, by unfold operandOk; decide +kernel, by decide +kernel, by decide, rfl,
    by unfold seFree; decide +kernel, by decide +kernel⟩

/-- A store-buffer entry of context 5. -/
def entry (ga : Nat) (sent : Bool) (coll : Nat) : SbEntry :=
  { ctx := 5, ga := ga, bytes := [1], sent := sent, coll := coll, pair := false, esc := false, se := false, stamp := 1 }
def stored (l : List SbEntry) : State := running1 ctx bank (fun x => { x with sb := l })

/-- A store that its 64-byte line splits enters the buffer as two entries; one to the own scratchpad waits behind an older one. -/
theorem wit_otherStores : (∃ u m z al val vec, storeForm (.std pl0 20 ⟨3, 0, .long 60⟩) = some (u, m, z, al, val, vec) ∧
    (let k := bankOf run u.seq 0
     AtBundle run u.seq 0 5 (4 * dispLen m.disp) ∧ u.stop = true ∧ (run.seqs[u.seq.val]).sb.length + 2 ≤ 8 ∧
     (vec = true → (getCtx run 5).novec = false) ∧ operandOk run u.seq k .write z al m ∧ seFree run u.seq 5 (segReg k.lo m.seg) ∧
     ownSp u.seq (operandGa k z m) = false ∧ (bufferOf (run.seqs[u.seq.val]) 5 false false (operandGa k z m) (val k)).length = 2)) ∧
    (∃ u m z al val vec, storeForm (.stb pl0 20 ⟨2, 0, .short 0⟩) = some (u, m, z, al, val, vec) ∧
    (let s := stored [entry 0xF00000000000 false 0]
     AtBundle s u.seq 0 5 (4 * dispLen m.disp) ∧ operandOk s u.seq (bankOf s u.seq 0) .write z al m ∧
     ∃ e ∈ (s.seqs[u.seq.val]).sb, ownSp u.seq e.ga = true)) :=
  ⟨⟨_, _, _, _, _, _, rfl, run_at8, rfl, by decide, nofun, by unfold operandOk; decide +kernel, by unfold seFree; decide +kernel, by decide +kernel, by decide +kernel⟩,
   _, _, _, _, _, _, rfl, at_of _ _ _ _ _ (by decide +kernel), by unfold operandOk; decide +kernel, _, .head _, by decide +kernel⟩

/-- A load that one store holds whole, and one that it holds in part; a younger store beside them. -/
theorem wit_forwarding : ∃ u m z al dest vec, loadForm (.ldb pl0 20 ⟨3, 0, .short 0⟩) = some (u, m, z, al, dest, vec) ∧
    (∃ e, [entry 0x200010000 false 0].getLast? = some e ∧ e.pair = false) ∧
    (let s := stored [entry 0x200010000 false 0, entry 0x200010001 false 0]
     let k := bankOf s u.seq 0
     AtBundle s u.seq 0 5 (4 * dispLen m.disp) ∧ u.stop = true ∧ dSE (segReg k.lo m.seg) = false ∧ vec = false ∧ operandOk s u.seq k .read z al m ∧
      (∀ n, dest ≠ .seg n) ∧ bufStores (s.seqs[u.seq.val]).sb = [] ++ (0x200010000, [1]) :: [(0x200010001, [1])] ∧
      0x200010000 < operandGa k z m + z ∧ operandGa k z m < 0x200010000 + [(1 : Byte)].length ∧
      (∀ e ∈ [(0x200010001, [(1 : Byte)])], e.1 + e.2.length ≤ operandGa k z m ∨ operandGa k z m + z ≤ e.1) ∧
      0x200010000 ≤ operandGa k z m ∧ operandGa k z m + z ≤ 0x200010000 + [(1 : Byte)].length ∧ sldLegal k [1] dest) ∧
    ∃ u m z al dest vec, loadForm (.ldd pl0 20 ⟨3, 0, .short 0⟩) = some (u, m, z, al, dest, vec) ∧
      (let s := stored [entry 0x200010000 false 0]
       let k := bankOf s u.seq 0
       AtBundle s u.seq 0 5 (4 * dispLen m.disp) ∧ operandOk s u.seq k .read z al m ∧
        0x200010000 < operandGa k z m + z ∧ 0x200010000 + [(1 : Byte)].length < operandGa k z m + z) :=
  ⟨_, _, _, _, _, _, rfl, ⟨_, rfl, rfl⟩, ⟨at_of _ _ _ _ _ (by decide +kernel), rfl, by decide +kernel, rfl, by unfold operandOk; decide +kernel, nofun,
    by decide +kernel, by decide +kernel, by decide +kernel, by decide +kernel, by decide +kernel, by decide +kernel, trivial⟩,
   _, _, _, _, _, _, rfl, at_of _ _ _ _ _ (by decide +kernel), by unfold operandOk; decide +kernel, by decide +kernel, by decide +kernel⟩

/-- The data of a long load is answered with an error, beside a younger bundle's division, or is poisoned. -/
theorem wit_loadFails :
    ∀ s ∈ [({ loads with pages := up.pages.map (fun h => { h with en := false }),
                         seqs := vmod loads.seqs 0 (fun x => { x with md := some ⟨0, 20, -1, true, 35, 7, false, 2⟩ }) } : State),
        { loads with poison := [0x200010000] }],
      (s.seqs[0]).loads = [loading] ∧ loading.failed = none ∧ loading.rest = none ∧ twf Ctx.free s.ctxs = true ∧ Live (getCtx s loading.ctx) ∧
      (getCtx s loading.ctx).dying = false ∧ (getCtx s loading.ctx).fppend = false ∧ (getCtx s loading.ctx).defer = false ∧
      (getCtx s loading.ctx).bopend = false ∧ s.pages.any (·.held) = false ∧ (s.seqs[0]).fq = [] ∧
      (∀ m, (s.seqs[0]).md = some m → loading.stamp ≤ m.stamp) ∧
      (let ms := Master.seq 0 loading.before.lo.stat.esc
       let r := gaRead (useSlots (meetErrors s ms loading.ga loading.len []) ms loading.ctx (sectorsOf loading.ga loading.len)) ms loading.ga loading.len
       (r.error.isSome || r.poison.isSome) = true) := by
  intro s h
  simp only [List.mem_cons, List.not_mem_nil, or_false] at h
  rcases h with rfl | rfl
  · exact ⟨rfl, rfl, rfl, by decide, ⟨by decide, by decide⟩, by decide, by decide, by decide, by decide, by decide +kernel, rfl, fun m h => by cases h; decide, by decide +kernel⟩
  · exact ⟨rfl, rfl, rfl, by decide, ⟨by decide, by decide⟩, by decide, by decide, by decide, by decide, by decide +kernel, rfl, nofun, by decide +kernel⟩

/-- An entry in flight and a split store to send; an entry in flight behind one of another line, one whose write fails, and the third
and the fourth COLLIDED answer. -/
theorem wit_storeBuffer :
    (let s := stored [entry 0x200010000 true 0, { entry 0x20001003F false 0 with pair := true }, entry 0x200010040 false 0]
     ∃ sent g h rest, (s.seqs[0]).sb = sent ++ g ++ h :: rest ∧ (s.seqs[0]).loads = [] ∧ g ≠ [] ∧ (∀ x ∈ sent, x.sent = true) ∧
      (∀ x ∈ g, x.sent = false ∧ x.pair = true) ∧ h.sent = false ∧ h.pair = false) ∧
    (let s := stored [entry 0x200010000 false 0, entry 0x200010040 true 0]
     ∃ pre e, (s.seqs[0]).sb = pre ++ e :: [] ∧ pre.length = (1 : Fin 8).val ∧ e.sent = true ∧
      (∀ o ∈ pre, overlaps o.ga o.bytes.length e.ga e.bytes.length = false) ∧ (gaWrite s (.seq 0 e.esc) e.ga e.bytes).2 = none) ∧
    (let e := entry 0xF00004000000 true 0
     let s := stored [e]
     (gaWrite s (.seq 0 e.esc) e.ga e.bytes).2 ≠ none ∧ twf Ctx.free s.ctxs = true ∧ (getCtx s e.ctx).st ≠ .free) ∧
    (∀ n : Fin 4, let e := entry 0xF00000100000 true n.val
     otherSp 0 e.ga = true ∧ e.sent = true ∧ (getCtx (stored [e]) e.ctx).st ≠ .free ∧ (e.coll < 3 ∨ 3 ≤ e.coll)) :=
  ⟨⟨[entry 0x200010000 true 0], [_], _, [], rfl, rfl, nofun, by decide, by decide, rfl, rfl⟩,
   ⟨[_], _, rfl, rfl, rfl, by decide, by decide +kernel⟩, by decide +kernel, by decide +kernel⟩

theorem pair_of {α β : Type} (x : α × Option β) (h : x.2 = none) : ∃ a, x = (a, none) := ⟨x.1, Prod.ext rfl h⟩

theorem own (ga : Nat) (h : 0xF00000000000 ≤ ga ∧ ga < 0xF000000FF000) : InScratch 0 ga := by
  unfold InScratch onDieBase; exact ⟨h.1, h.2⟩

/-- No request of sequencer 0 was answered with an error. -/
theorem no_lost {s : State} {e : Bool} (h : (s.seqs[0]).lost = [] := by rfl) (ga n : Nat) : lostTo s (.seq 0 e) ga n = none := by
  simp [lostTo, lostIn, h]

/-- Writes of areas in the scratchpad of a running sequencer succeed. -/
theorem writeAreas_own (s : State) (m : Master) (offs : List Nat) (bs : List Byte) (hm : portAdmits m = true) (hup : islandUp s (islSQ 0) = true)
    (hp : s.poison = []) (hu : s.upset = []) (hk : (getMem s 0).correct = []) (ha : s.lms.answers = [])
    (hl : ∀ ga n, lostTo s m ga n = none)
    (ho : ∀ o ∈ offs, o ≤ 0xF0000) : (writeAreas s m 0xF00000000000 offs bs).2 = none := by
  induction offs generalizing s bs with
  | nil => rfl
  | cons o offs ih =>
    have hb := ho o (by simp)
    obtain ⟨x, hx⟩ := gaWrite_scratch s m 0 (0xF00000000000 + o) (bs.take 0xFF8) hm hup hp hu hk ha (fun h => by
      have hp := List.length_pos_of_ne_nil h
      have hl := List.length_take_le 0xFF8 bs
      exact ⟨own _ (by omega), own _ (by omega)⟩)
    simp only [writeAreas, reqWrite, hl, hx]
    exact ih _ _ hup hp hu hk ha (fun ga n => by rw [← hl ga n]; cases m <;> rfl) (fun o h => ho o (List.mem_cons_of_mem _ h))

theorem readAreas_own (s : State) (m : Master) (offs : List Nat) (hm : portAdmits m = true) (hup : islandUp s (islSQ 0) = true)
    (hp : s.poison = []) (hu : s.upset = []) (hl : ∀ ga n, lostTo s m ga n = none) (ho : ∀ o ∈ offs, o ≤ 0xF0000) : (readAreas s m 0xF00000000000 offs).2 = none := by
  simp only [readAreas, List.findSome?_map, List.findSome?_eq_none_iff, Function.comp]
  intro o h
  have hb := ho o h
  simp only [reqRead, hl]
  rw [gaRead_scratch s m 0 0xFF8 _ hm hup hp hu (fun _ => ⟨own _ (by omega), own _ (by omega)⟩)]
  rfl

theorem firstUnmapped_own (s : State) (m : Master) (ga n : Nat) (hm : portAdmits m = true) (h : 0xF00000000000 ≤ ga ∧ ga + n ≤ 0xF000000FF000) :
    firstUnmapped s m ga n = none := by
  simp only [firstUnmapped, Option.map_eq_none_iff, List.find?_eq_none, List.mem_range]
  intro i hi
  rw [place_scratch s m 0 (ga + i) hm (own _ (by omega))]
  simp

theorem area_own (s : State) (m : Master) (hm : portAdmits m = true) (r : Right) (hr : r = .read ∨ r = .write) : segCheck s m data 1 r 0 4096 64 = none := by
  have h := firstUnmapped_own s m (dBase data + 0) 4096 hm (by decide)
  rcases hr with rfl | rfl <;> simp only [segCheck, h] <;> decide +kernel

theorem link_own (s : State) (m : Master) (hm : portAdmits m = true) (hup : islandUp s (islSQ 0) = true) (hp : s.poison = [])
    (hu : s.upset = []) (hl : ∀ ga n, lostTo s m ga n = none)
    (hz : ∀ i < 8, rdByte s (0xF00000000FF8 + i) = 0) (r : Right) (hr : r = .read ∨ r = .write) (n : Nat) :
    areas s m data 1 r 0 n = .ok (List.replicate n 0) := by
  have hr8 : gaRead s m (dBase data + 0 + 0xFF8) 8 = ⟨List.replicate 8 0, none, none, none⟩ := by
    rw [gaRead_scratch s m 0 8 _ hm hup hp hu (fun _ => ⟨own _ (by decide), own _ (by decide)⟩)]
    congr 1
    have he : dBase data + 0 + 0xFF8 = 0xF00000000FF8 := by decide +kernel
    rw [he]
    simp only [List.range_succ, List.range_zero, List.nil_append, List.cons_append, List.map_cons, List.map_nil]
    rw [hz 0 (by decide), hz 1 (by decide), hz 2 (by decide), hz 3 (by decide), hz 4 (by decide), hz 5 (by decide), hz 6 (by decide),
      hz 7 (by decide)]
    rfl
  induction n with
  | zero => rfl
  | succ n ih =>
    simp only [areas, area_own s m hm r hr, reqRead, hl, hr8]
    split
    · next h => subst h; rfl
    · simp only [Option.orElse]
      rw [show natOf (List.replicate 8 0) = 0 by decide, ih]
      rfl

theorem wit_savel : AtBundle run 0 0 5 4 ∧ (run.seqs[0]).sb = [] ∧ hasStore run 5 = false ∧ bank.lo.stat.pl ≠ 2 ∧ fpCond bank.lo.fcsr = false ∧
    bank.lo.stat.wt = false ∧ ∃ a offs, areas run (.seq 0 false) (segReg bank.lo 2) 1 .write 0 1 = .ok offs ∧
      writeAreas run (.seq 0 false) (dBase (segReg bank.lo 2)) offs (lowerBytes bank.lo) = (a, none) := by
  obtain ⟨a, ha⟩ := pair_of (writeAreas run (.seq 0 false) 0xF00000000000 [0] (lowerBytes bank.lo))
    (writeAreas_own _ _ _ _ rfl (by decide +kernel) rfl rfl (by decide +kernel) rfl no_lost (by decide))
  exact ⟨run_at4, rfl, by decide +kernel, by decide, by decide +kernel, rfl, a, [0],
    link_own run _ rfl (by decide +kernel) rfl rfl no_lost (by decide +kernel) _ (.inr rfl) 1, ha⟩

theorem wit_saveh : AtBundle run 0 0 5 4 ∧ (run.seqs[0]).sb = [] ∧ hasStore run 5 = false ∧ bank.lo.stat.pl ≠ 2 ∧ fpCond bank.lo.fcsr = false ∧
    (getCtx run 5).novec = false ∧ ∃ a offs, areas run (.seq 0 false) (segReg bank.lo 2) 1 .write 0 9 = .ok offs ∧
      writeAreas run (.seq 0 false) (dBase (segReg bank.lo 2)) offs (upperBytes bank.up (bits bank.lo.fcsr.toNat 16 7)) = (a, none) := by
  obtain ⟨a, ha⟩ := pair_of (writeAreas run (.seq 0 false) 0xF00000000000 (List.replicate 9 0)
    (upperBytes bank.up (bits bank.lo.fcsr.toNat 16 7))) (writeAreas_own _ _ _ _ rfl (by decide +kernel) rfl rfl (by decide +kernel) rfl no_lost (by decide))
  exact ⟨run_at4, rfl, by decide +kernel, by decide, by decide +kernel, rfl, a, _,
    link_own run _ rfl (by decide +kernel) rfl rfl no_lost (by decide +kernel) _ (.inr rfl) 9, ha⟩

/-- A record of zeros but for STAT, whose WRES is 1. -/
def saved : State := wrByte run 0xF00000000700 0x80

theorem saved_byte (i : Nat) (h : i ≠ 0x700) : rdByte saved (0xF00000000000 + i) = 0 := by
  unfold saved
  rw [rdByte_wrByte_other _ _ _ _ (by omega)]
  rfl

theorem wit_restl : AtBundle saved 0 0 5 4 ∧ (saved.seqs[0]).sb = [] ∧ hasStore saved 5 = false ∧ bank.lo.stat.pl ≠ 2 ∧ bank.lo.stat.wt = false ∧
    ∃ bs offs, areas saved (.seq 0 false) (segReg bank.lo 2) 1 .read 0 1 = .ok offs ∧
      readAreas saved (.seq 0 false) (dBase (segReg bank.lo 2)) offs = (bs, none) ∧ lowerBad (natOf bs) = none := by
  have hb : natOf (readAreas saved (.seq 0 false) 0xF00000000000 [0]).1 = 256 ^ 0x700 * 0x80 := by
    simp only [readAreas, List.map_cons, List.map_nil, List.flatMap_cons, List.flatMap_nil, List.append_nil]
    simp only [reqRead]
    rw [gaRead_scratch saved _ 0 0xFF8 _ rfl (by decide +kernel) rfl rfl (fun _ => ⟨own _ (by decide), own _ (by decide)⟩)]
    rw [natOf_one (fun i => rdByte saved (0xF00000000000 + 0 + i)) 0xFF8 0x700 (fun j hj => saved_byte j hj)]
    decide +kernel
  obtain ⟨bs, hbs⟩ : ∃ bs, readAreas saved (.seq 0 false) 0xF00000000000 [0] = (bs, none) :=
    pair_of _ (readAreas_own saved _ [0] rfl (by decide +kernel) rfl rfl no_lost (by decide))
  rw [hbs] at hb
  exact ⟨at_of _ _ _ _ _ (by decide +kernel), rfl, by decide +kernel, by decide, rfl, bs, [0],
    link_own saved _ rfl (by decide +kernel) rfl rfl no_lost (by decide +kernel) _ (.inl rfl) 1, hbs, by rw [hb]; decide +kernel⟩

theorem wit_resth : AtBundle run 0 0 5 4 ∧ ∃ bs offs, areas run (.seq 0 false) (segReg bank.lo 2) 1 .read 0 9 = .ok offs ∧
      readAreas run (.seq 0 false) (dBase (segReg bank.lo 2)) offs = (bs, none) := by
  obtain ⟨bs, hbs⟩ : ∃ bs, readAreas run (.seq 0 false) 0xF00000000000 (List.replicate 9 0) = (bs, none) :=
    pair_of _ (readAreas_own run _ _ rfl (by decide +kernel) rfl rfl no_lost (by decide))
  exact ⟨run_at4, bs, _, link_own run _ rfl (by decide +kernel) rfl rfl no_lost (by decide +kernel) _ (.inl rfl) 9, hbs⟩


/-- Windows in use at the ends of their range, with WSP at 0x400. -/
def windows (wres cwp : BitVec 3) : State :=
  running1 ctx { bank with lo := { bank.lo with wsp := 0x400, stat := { bank.lo.stat with wres := wres, cwp := cwp } } } id

theorem wit_spillAndFill :
    (AtBundle (windows 1 0) 0 0 5 4 ∧ (bankOf (windows 1 0) 0 0).lo.stat.wres = 1) ∧
    (AtBundle (windows 7 6) 0 0 5 4 ∧ (bankOf (windows 7 6) 0 0).lo.stat.wres = 7) ∧
    (AtBundle (windows 2 1) 0 0 5 4 ∧ (bankOf (windows 2 1) 0 0).lo.stat.pl ≠ 2 ∧
      (let k := bankOf (windows 2 1) 0 0
       (run.seqs[0]).sb = [] ∧ seFree (windows 2 1) 0 5 (segReg k.lo 2) ∧ dSE (segReg k.lo 2) = false ∧
       (gaWrite (windows 2 1) (.seq 0 false) (dBase (segReg k.lo 2) + (k.lo.wsp - 144).toNat) (winBytes k.lo.wins[0])).2 = none ∧
       segCheck (windows 2 1) (.seq 0 false) (segReg k.lo 2) 1 .write (k.lo.wsp - 144).toNat 144 8 = none ∧
       segCheck (windows 2 1) (.seq 0 false) (segReg k.lo 2) 1 .read k.lo.wsp.toNat 144 8 = none ∧
       (gaRead (windows 2 1) (.seq 0 false) (dBase (segReg k.lo 2) + k.lo.wsp.toNat) 144).error = none ∧
       (gaRead (windows 2 1) (.seq 0 false) (dBase (segReg k.lo 2) + k.lo.wsp.toNat) 144).poison = none)) :=
  ⟨⟨at_of _ _ _ _ _ (by decide +kernel), by decide⟩, ⟨at_of _ _ _ _ _ (by decide +kernel), by decide⟩,
   ⟨at_of _ _ _ _ _ (by decide +kernel), by decide, rfl, by unfold seFree; decide +kernel, by decide, by decide +kernel, by decide +kernel,
    by decide +kernel, by decide +kernel, by decide +kernel⟩⟩

/-- The bank has fetched its first line, or predicts a branch to 0x100. -/
def lined : State := running1 ctx (putLine bank (readLine run 0 0x200000000)) id
def aimed : State := running1 ctx { bank with btb := [(0x200000000, 0x200000100)] } id

/-- Registers w0 = 1 and g1 = 0: an ISYNC of one byte, and of none; and lines that the bank may fetch. -/
theorem wit_fences :
    (let s := running1 ctx (bankAt 1 1) id
     AtBundle s 0 0 5 4 ∧ (s.seqs[0]).sb = [] ∧ hasStore s 5 = false ∧ fpCond (bankOf s 0 0).lo.fcsr = false ∧ (getCtx s 5).novec = false ∧
     (rdInt (bankOf s 0 0).lo 2).toNat = 0 ∧ (rdInt (bankOf s 0 0).lo 1).toNat ≠ 0 ∧ dV (segReg (bankOf s 0 0).lo 1) = true ∧
     (rdInt (bankOf s 0 0).lo 2).toNat + 1 - 1 ≤ dLimit (segReg (bankOf s 0 0).lo 1)) ∧
    (let k := bankOf lined 0 0
     let g := 0x200000040
     let d := segReg k.lo 1
     k.occ.isSome ∧ lined.upset = [] ∧ waits lined (.seq 0 false) g 64 = false ∧ lineOf k g = none ∧ (64 ≤ g ∧ (lineOf k (g - 64)).isSome) ∧ lmSoft ≤ g ∧ g + 64 ≤ GiB * lmTopG lined ∧ dBase d < g + 64 ∧ g ≤ dBase d + dLimit d) ∧
    (let k := bankOf aimed 0 0
     let g := 0x200000100
     k.occ.isSome ∧ lineOf k g = none ∧ ∃ e ∈ k.btb, e.2 / 64 = g / 64) :=
  ⟨⟨at_of _ _ _ _ _ (by decide +kernel), rfl, by decide +kernel, by decide, rfl, by decide +kernel, by decide +kernel,
    by decide +kernel, by decide +kernel⟩, by decide +kernel, by decide +kernel⟩

theorem wit_branches :
    (∃ u n p t, branchForm (bankOf run 0 0) (.beqz pl0 20 (.long 0x80000000)) = some (u, n, p, t) ∧ AtBundle run u.seq 0 5 (4 * n) ∧
      u.stop = true) ∧
    (∃ u n p t, branchForm (bankOf run 0 0) (.jr pl0 1) = some (u, n, p, t) ∧ AtBundle run u.seq 0 5 (4 * n) ∧ u.stop = true ∧
      t.toNat % 4 = 0) :=
  ⟨⟨_, _, _, _, rfl, run_at8, rfl⟩, ⟨_, _, _, _, rfl, run_at4, rfl, by decide⟩⟩

/-- The outermost and the innermost of four loops, with a count of 2 and of 1. -/
theorem wit_endOfBundle :
    (∃ k : Bank, k.lo.stat.ld = 0) ∧
    (∃ k : Bank, k.lo.stat.ld.toNat = (3 : Fin 4).val + 1 ∧ k.lo.lpe[(3 : Fin 4).val] = k.pc ∧ k.lo.lpc[(3 : Fin 4).val] ≠ 1) ∧
    (∃ k : Bank, k.lo.stat.ld = 1 ∧ k.lo.lpe[0] = k.pc ∧ k.lo.lpc[0] = 1) :=
  ⟨⟨bank, rfl⟩,
   ⟨{ bank with lo := { bank.lo with lpc := Vector.replicate 4 2, stat := { bank.lo.stat with ld := 4 } } }, by decide, by decide, by decide⟩,
   ⟨{ bank with lo := { bank.lo with lpc := Vector.replicate 4 1, stat := { bank.lo.stat with ld := 1 } } }, by decide, by decide, by decide⟩⟩

/-- A bank with three loops open and g1 = v. -/
def looped (v : Word) : State :=
  let k := bankAt 1 v
  running1 ctx { k with lo := { k.lo with stat := { k.lo.stat with ld := 3 } } } id

/-- The shortest loop, of one bundle after LOOP's own. -/
theorem wit_loop : (4 * bdispLen (.short 1) : Int) ≤ (bdispSpec (.short 1)).toInt ∧
    (AtBundle (looped 1) 0 0 5 (4 * bdispLen (.short 1)) ∧ (bankOf (looped 1) 0 0).lo.stat.ld.toNat = (3 : Fin 4).val ∧
      rdInt (bankOf (looped 1) 0 0).lo 1 ≠ 0) ∧
    (AtBundle (looped 0) 0 0 5 (4 * bdispLen (.short 1)) ∧ (bankOf (looped 0) 0 0).lo.stat.ld.toNat < 4 ∧
      rdInt (bankOf (looped 0) 0 0).lo 1 = 0) :=
  ⟨by decide, ⟨at_of _ _ _ _ _ (by decide +kernel), by decide, by decide +kernel⟩,
   ⟨at_of _ _ _ _ _ (by decide +kernel), by decide, by decide +kernel⟩⟩

/-- The stack pointer at 0x8000, with w windows in use; the current one saved the registers of a mask. -/
def calling (w : BitVec 3) (seg : Desc256) (mask : BitVec 16) : State :=
  running1 ctx { bank with lo := { bank.lo with
    g := bank.lo.g.set 15 0x8000, segs := bank.lo.segs.set 2 seg, stat := { bank.lo.stat with wres := w },
    wins := bank.lo.wins.set 0 { Win.zero with rmask := mask } } } id

/-- A call that saves 15 registers, and one that saves none from the last free window. -/
theorem wit_calls :
    (let s := calling 6 data 0
     ∃ u n mask t, callForm (bankOf s 0 0) (.call pl0 0x7FFF 8) = some (u, n, mask, t) ∧ AtBundle s u.seq 0 5 (4 * n) ∧ u.stop = true ∧
       mask.getLsbD 15 = false ∧ mask ≠ 0 ∧
       (let k := bankOf s u.seq 0
        (s.seqs[u.seq.val]).sb = [] ∧ k.lo.stat.wt = false ∧ k.lo.stat.wres ≠ 7 ∧ seFree s u.seq 5 (segReg k.lo 2) ∧
        (gaWrite s (.seq 0 false) (dBase (segReg k.lo 2) + (k.lo.g[15] - BitVec.ofNat 64 (maskBytes k.lo mask).length).toNat)
          (maskBytes k.lo mask)).2 = none ∧
        segCheck s (.seq 0 false) (segReg k.lo 2) k.lo.stat.pl.toNat .write
          (k.lo.g[15] - BitVec.ofNat 64 (maskBytes k.lo mask).length).toNat (maskBytes k.lo mask).length 8 = none)) ∧
    (∃ u n mask t, callForm (bankOf run 0 0) (.callr pl0 0 1) = some (u, n, mask, t) ∧ AtBundle run u.seq 0 5 (4 * n) ∧ mask = 0 ∧
      t.toNat % 4 = 0 ∧ ((bankOf run 0 0).lo.g[15]).toNat % 8 = 0) :=
  ⟨⟨_, _, _, _, rfl, at_of _ _ _ _ _ (by decide +kernel), rfl, by decide, by decide, rfl, rfl, by decide, by unfold seFree; decide +kernel,
    by decide +kernel, by decide +kernel⟩,
   ⟨_, _, _, _, rfl, run_at4, rfl, by decide, by decide⟩⟩

/-- A return to a window that saved nothing, one with a saved register outside the scratchpad, and one inside. -/
theorem wit_ret :
    (AtBundle (calling 2 data 0) 0 0 5 4 ∧ (bankOf (calling 2 data 0) 0 0).lo.stat.wres ≠ 1 ∧
      ((bankOf (calling 2 data 0) 0 0).lo.wins[0]).rmask = 0 ∧ ((bankOf (calling 2 data 0) 0 0).lo.g[15]).toNat % 8 = 0) ∧
    (let s := calling 2 (mkDesc 0x200010000 0xFFFF 0x207) 1
     AtBundle s 0 0 5 4 ∧ dSE (segReg (bankOf s 0 0).lo 2) = false ∧ ((bankOf s 0 0).lo.wins[0]).rmask ≠ 0 ∧
     ownSp 0 (dBase (segReg (bankOf s 0 0).lo 2) + ((bankOf s 0 0).lo.g[15]).toNat) = false ∧
     segCheck s (.seq 0 false) (segReg (bankOf s 0 0).lo 2) 1 .read ((bankOf s 0 0).lo.g[15]).toNat 8 8 = none) ∧
    (let s := calling 2 data 1
     let ga := dBase (segReg (bankOf s 0 0).lo 2) + ((bankOf s 0 0).lo.g[15]).toNat
     AtBundle s 0 0 5 4 ∧ dSE (segReg (bankOf s 0 0).lo 2) = false ∧ ((bankOf s 0 0).lo.wins[0]).rmask ≠ 0 ∧ ownSp 0 ga = true ∧
     segCheck s (.seq 0 false) (segReg (bankOf s 0 0).lo 2) 1 .read ((bankOf s 0 0).lo.g[15]).toNat 8 8 = none ∧
     (gaRead s (.seq 0 false) ga 8).error = none ∧ (gaRead s (.seq 0 false) ga 8).poison = none) :=
  ⟨⟨at_of _ _ _ _ _ (by decide +kernel), by decide, by decide, by decide⟩,
   ⟨at_of _ _ _ _ _ (by decide +kernel), by decide, by decide, by decide +kernel, by decide +kernel⟩,
   ⟨at_of _ _ _ _ _ (by decide +kernel), by decide, by decide, by decide +kernel, by decide +kernel, by decide +kernel, by decide +kernel⟩⟩

/-- An opcode of the B slot that is not defined, and SLOT 7. -/
theorem wit_illegal : bundleFault (envOf run 0 0 5) [0xBFC00000] = some (⟨3, 0, 0x01, 0x01, 0⟩, 1) ∧ AtBundle run 0 0 5 4 ∧
    (0xBFC00000 : Reg32).toNat / 2 ^ 22 = 0x2FF ∧ (0x7FFFFFFF : Reg32).toNat / 2 ^ 28 % 8 = 7 :=
  ⟨by decide +kernel, run_at4, by decide, by decide⟩

/-- An access that fails each check of R327: a segment register that is empty, a right that is missing, an access that is not aligned to
its size in a segment with SE, one beyond the limit, and one to an unmapped GA. -/
theorem wit_accessFaults : (let d := mkDesc 0x200000000 0xFFFF
      let f := fun (v : Desc256) r o z => (segCheck run (.seq 0 false) v 1 r o z 0).map (fun x => (x.code.toNat, x.sub.toNat, x.faddr.toNat))
      f 0 .read 0 8 = some (4, 2, 0) ∧ f (d 0x203) .write 8 8 = some (4, 4, 0x200000008) ∧ f (d 0x287) .read 4 8 = some (4, 5, 0x200000004) ∧
      f (d 0x207) .read 0xFFFC 8 = some (3, 3, 0x200010000) ∧ f (mkDesc 0x9000000000 0xFFFF 0x207) .read 0 8 = some (4, 1, 0x9000000000)) ∧
    ∃ u m z al dest vec, loadForm (.ldd pl0 20 ⟨4, 0, .short 0⟩) = some (u, m, z, al, dest, vec) ∧ AtBundle run u.seq 0 5 (4 * dispLen m.disp) ∧
      u.stop = true ∧ (segCheck run (.seq u.seq false) (segReg bank.lo m.seg) 1 .read (memOff bank z m).toNat z al).isSome = true :=
  ⟨by decide +kernel, _, _, _, _, _, _, rfl, run_at4, rfl, by decide +kernel⟩

/-- Four loops open; and a window trap, seven windows in use and one. -/
theorem wit_nestFaults :
    (let s := running1 ctx { bank with lo := { bank.lo with stat := { bank.lo.stat with ld := 4 } } } id
     AtBundle s 0 0 5 (4 * bdispLen (.short 1)) ∧ (bankOf s 0 0).lo.stat.ld.toNat = 4) ∧
    (let s := running1 ctx { bank with lo := { bank.lo with stat := { bank.lo.stat with wt := true } } } id
     AtBundle s 0 0 5 4 ∧ (bankOf s 0 0).lo.stat.wt = true ∧ seFree s 0 5 (segReg (bankOf s 0 0).lo 2)) ∧
    (let s := calling 7 data 0
     (∃ u n mask t, callForm (bankOf s 0 0) (.callr pl0 1 1) = some (u, n, mask, t) ∧ AtBundle s u.seq 0 5 (4 * n) ∧ t.toNat % 4 = 0 ∧
       mask.getLsbD 15 = false) ∧ (bankOf s 0 0).lo.stat.wt = false ∧ (bankOf s 0 0).lo.stat.wres = 7 ∧ seFree s 0 5 (segReg (bankOf s 0 0).lo 2)) ∧
    (let s := calling 1 data 0
     AtBundle s 0 0 5 4 ∧ (bankOf s 0 0).lo.stat.wt = false ∧ (bankOf s 0 0).lo.stat.wres = 1) :=
  ⟨⟨at_of _ _ _ _ _ (by decide +kernel), by decide⟩, ⟨at_of _ _ _ _ _ (by decide +kernel), by decide, by unfold seFree; decide +kernel⟩,
   ⟨⟨_, _, _, _, rfl, at_of _ _ _ _ _ (by decide +kernel), by decide, by decide⟩, by decide, by decide, by unfold seFree; decide +kernel⟩,
   ⟨at_of _ _ _ _ _ (by decide +kernel), by decide, by decide⟩⟩

/-- A bank whose EDT holds, for exception 0x10, a handler at 0x100 of level PL1 with the code of s1, and whose frames go to
0xF00000002000. -/
def trapBank : Bank := { bank with
  tsbp := 0xF00000002000, edtb := 0xF00000001000, lo := { bank.lo with g := bank.lo.g.set 15 0x8000 } }
def trapState (y : Ctx) : State :=
  let s := running1 y trapBank id
  let e := 0x100 + 2 ^ 48 + 2 ^ 51 + 2 ^ 64 * 0xF00000003000
  wrBytes (wrBytes s 0xF00000001200 (bytesOf e 32)) 0xF00000003000 (bytesOf code.toNat 32)

theorem wit_exceptionEntry :
    (let s := trapState ctx
     let k := bankOf s 0 0
     let y := getCtx s 5
     twf Ctx.free s.ctxs = true ∧ s.upset = [] ∧ k.lo.stat.esc = false ∧ k.lo.stat.wt = false ∧ y.fdepth.toNat < 4 ∧
     entryPlan s 0 k 0x10 = .go 0x100 1 false code none ∧ privRange s 0 (k.tsbp.toNat + 128 * y.fdepth.toNat) 128 = true) ∧
    ∃ a, gaWrite (trapState ctx) (.seq 0 false) 0xF00000002000
      (frameBytes trapBank (Exc.plain 0x10 0 4 0 (some 0)) 0x10 0 0) = (a, none) :=
  ⟨⟨by decide +kernel, rfl, by decide, by decide, by decide +kernel, by decide +kernel, by decide +kernel⟩,
   pair_of _ (by decide +kernel)⟩

/-- Context 5 at PL1 with one frame, of WRES 1, at 0xF00000002000. -/
theorem wit_retx :
    (let s := wrByte (trapState { ctx with fdepth := 1, shadow := 1 }) 0xF00000002008 0x81
     let k := bankOf s 0 0
     let y := getCtx s 5
     let r := gaRead s (.seq 0 false) (k.tsbp.toNat + 128 * (y.fdepth.toNat - 1)) 128
     AtBundle s 0 0 5 4 ∧ k.lo.stat.pl ≠ 2 ∧ k.lo.stat.esc = false ∧ y.fdepth ≠ 0 ∧
     privRange s 0 (k.tsbp.toNat + 128 * (y.fdepth.toNat - 1)) 128 = true ∧ forward (s.seqs[0]).sb (k.tsbp.toNat + 128 * (y.fdepth.toNat - 1)) 128 = .none ∧ r.error = none ∧
     r.poison = none ∧ r.unmapped = none ∧ frameOk (natOf r.bytes) = true ∧ bits y.shadow.toNat 0 2 ≤ bits (natOf r.bytes) 64 2 ∧ y.frameSrc.toList.getD 0 none = none) :=
  ⟨at_of _ _ _ _ _ (by decide +kernel), by decide, by decide, by decide +kernel, by decide +kernel, rfl, by decide +kernel, by decide +kernel,
   by decide +kernel, by decide +kernel, by decide +kernel, by decide +kernel⟩

theorem wit_jend : AtBundle run 0 0 5 4 ∧ (run.seqs[0]).sb = [] ∧ hasStore run 5 = false ∧
    (∀ i : Fin 16, ((getCtx run 5).tickets[i.val]).out = false) ∧ fpCond (bankOf run 0 0).lo.fcsr = false ∧ (getCtx run 5).fppend = false :=
  ⟨run_at4, rfl, by decide +kernel, by decide, by decide, rfl⟩

/-- A stream of context 5 on pipe 0. -/
def stream (ph : StrmPhase) : Stream :=
  let acc : StrmAcc := { wcount := 0, result := 0, carry := 0, flags := 0, fixn := 0, fixovf := false, fix := [] }
  { ctx := 5, slot := 0, phase := ph, seq := 0, blk := 0xF00000004000, be := false, dl := 0, pl := 1, rm := 0, subn := false, traps := 0,
    ct := false, func := 0, depth := 1, dirs := [], segs := bank.lo.segs, out := 0, a := 0, b := 0, chain := 0, consts := 0, keys := [],
    n := 0, start := 0, next := 0, com := 0, cur := acc, saved := acc, recs := [], els := [], notes := [], leaves := [], dirRec := [],
    fault := none, cancel := false, charged := false, bad := none, demoted := false, ports := [], updated := none, order := 0,
    lines := [], lost := [], drLost := false }

/-- A state whose pipe 0 holds one stream, in entry 0. -/
def streaming (s : State) (x : Stream) : State :=
  { s with pipes := vset s.pipes 0 { Pipe.reset with table := vset Pipe.reset.table 0 (some x) } }

theorem wit_strm :
    (let s := streaming run (stream .held)
     let o := (rdInt (bankOf s 0 0).lo 1).toNat
     AtBundle s 0 0 5 4 ∧ (s.seqs[0]).sb = [] ∧ hasStore s 5 = false ∧
     segCheck s (.seq 0 false) (segReg (bankOf s 0 0).lo 2) 1 .read o 1024 0 = none ∧
     segCheck s (.seq 0 false) (segReg (bankOf s 0 0).lo 2) 1 .write o 1024 0 = none ∧ o % 64 = 0 ∧
     heldEntry s (pipeOf 0) 5 = some 0 ∧ freeTicket (getCtx s 5) = some 0) :=
  ⟨at_of _ _ _ _ _ (by decide +kernel), rfl, by decide +kernel, by decide +kernel, by decide +kernel, by decide +kernel, by decide +kernel, by decide +kernel⟩

/-- A stream that ended without a fault, and one that runs; the last ticket slot. -/
theorem wit_waits :
    (∀ d : Bool, let s := running1 { ctx with tickets := ctx.tickets.set 15 { Ticket.zero with out := true, done := d } } (bankAt 1 15) id
     let tk := (getCtx s 5).tickets[15]
     AtBundle s 0 0 5 4 ∧ tk.out = true ∧ (rdInt (bankOf s 0 0).lo 1).toNat = 15 + 16 * tk.gen.toNat ∧ tk.done = d ∧
     bits tk.fstat.toNat 0 8 = 0) := by
  intro d
  cases d <;> exact ⟨at_of _ _ _ _ _ (by decide +kernel), by decide, by decide +kernel, by decide, by decide +kernel⟩


/-! ## The F slot -/

/-- An F operand list without an extension, and one with mask k1, MZ and an immediate. -/
abbrev args (ty : BitVec 4) : FArgs := { vd := 3, va := 1, vb := 2, ty := ty, ext := none }
abbrev argsX (ty : BitVec 4) (aux : BitVec 16) : FArgs :=
  { vd := 3, va := 1, vb := 2, ty := ty, ext := some { km := 1, mz := true, bs := false, sc := false, mbz := 0, aux := aux } }

/-- The first and the last operation of the list of R112 to R130, one of FMA with its third operand, and one with an extension. -/
theorem wit_catalogue :
    (∃ un op u a, vecForm (.vadd pl0 (args 3)) = some (un, op, u, a) ∧ AtBundle run u.seq 0 5 (4 * fLen a) ∧ u.stop = true ∧
      (getCtx run 5).novec = false ∧ pipeRuns run (pipeOf u.seq) = true ∧ fReserved un op a = false ∧ fNonzero un op a = false) ∧
    (∃ un op u a, vecForm (.vfma pl0 (argsX 10 31)) = some (un, op, u, a) ∧ AtBundle run u.seq 0 5 (4 * fLen a) ∧
      fReserved un op a = false ∧ fNonzero un op a = false) ∧
    (∃ un op u a, vecForm (.vhash pl0 { args 7 with vb := 2 }) = some (un, op, u, a) ∧ AtBundle run u.seq 0 5 (4 * fLen a) ∧
      fReserved un op a = false ∧ fNonzero un op a = false) :=
  ⟨⟨_, _, _, _, rfl, run_at4, rfl, rfl, by decide +kernel, by decide, by decide⟩, ⟨_, _, _, _, rfl, run_at8, by decide, by decide⟩,
   ⟨_, _, _, _, rfl, run_at4, by decide, by decide⟩⟩

theorem wit_elementwise : (0 = 0 ∧ 0x2F < 0x30) ∧ isCmp 0 0x19 = false ∧ isCmp 3 0x04 = false ∧ (args 10).ty.toNat < 11 ∧
    (extOf (argsX 0 0)).sc = false ∧ (run.seqs[0]).fq = [] := ⟨by decide, by decide, by decide, by decide, by decide, rfl⟩

/-- The smallest and the largest value of a signed and of an unsigned type, a comparison, PERMB and HASH, of an FP key too. -/
theorem wit_integerElements :
    (firstTy 0 0x03 0 0 < 8 ∧ 0x7F < 2 ^ tyW 0 ∧ catInteger 0 0x03 0 0 0 0x7F 1 = some 0x7F) ∧
    (firstTy 0 0x04 7 0 < 8 ∧ 2 ^ 64 - 1 < 2 ^ tyW 7 ∧ catInteger 0 0x04 7 0 0 0 (2 ^ 64 - 1) = some 0) ∧
    (firstTy 1 0x22 11 3 < 8 ∧ (catInteger 1 0x22 11 3 0 5 6).isSome = true) ∧
    (firstTy 4 0x00 7 0 < 8 ∧ tyW 7 = 64 ∧ (catInteger 4 0x00 7 0 0 5 6).isSome = true) ∧
    (firstTy 5 0x00 7 3 < 8 ∧ (catInteger 5 0x00 7 3 0 5 6).isSome = true) ∧ 0x7FC00001 < 2 ^ tyW 9 ∧ 0 < 2 ^ 64 := by decide +kernel

/-- A reduction, a count, an FP sum, a segmented sum, a compression and a population count. -/
theorem wit_reductions : (run.seqs[0]).fq = [] ∧ (extOf (argsX 3 0)).sc = false ∧ (args 3).ty.toNat = 3 ∧ (args 7).ty = 7 ∧ (args 9).ty.toNat = 9 ∧
    (0x38 ≤ 0x3E ∧ 0x3E ≤ 0x3E ∧ 0x3E ≠ 0x3B) ∧ (extOf (args 3)).bs = false := ⟨rfl, by decide, by decide, by decide, by decide, by decide, by decide⟩

/-- 1, -1 and 0 in f32, as the statement reads them, and 1 rounded to an integer in every mode. -/
theorem wit_floatingPoint : FpValue (tyFmt 9) 0x3F800000 1 ∧ FpValue (tyFmt 9) 0xBF800000 (-1) ∧ FpValue (tyFmt 9) 0 0 ∧
    (1 : ℝ) + 1 ≠ 0 ∧ (1 : ℝ) + -1 = 0 ∧ (∀ rm, RoundsTo rm 1 1) ∧ 0xBF800000 < 2 ^ tyW 9 ∧ fpIsNan (tyFmt 9) 0x7FC00000 = true ∧
    fpIsInf (tyFmt 9) 0x7F800000 = true := by
  have h : ∀ x, FpValue (tyFmt 9) x = FpValue ⟨8, 23⟩ x := fun _ => rfl
  refine ⟨?_, ?_, ?_, by norm_num, by norm_num, ?_, by decide, by decide, by decide⟩
  · rw [h]; unfold FpValue; norm_num
  · rw [h]; unfold FpValue; norm_num
  · rw [h]; unfold FpValue; norm_num
  · intro rm
    unfold RoundsTo
    split <;> norm_num

/-- An operation with a result of each kind is in the queue. -/
def queued : FOp :=
  { bank := 0, pc := 0, vd := some (3, 7), kd := some (0, 1), rd := some (0, 9), flags := 1, fix := [], clears := true, cycles := 1,
    win := 0, stamp := 1 }

theorem wit_completion : ∃ rest, let s := running1 ctx bank (fun x => { x with fq := [queued] })
    (s.seqs[0]).fq = queued :: rest ∧ queued.fix = [] ∧ (s.seqs[0]).loads = [] ∧ pipeWorks s (pipeOf 0) = true ∧
    queued.win = winIdx (bankOf s 0 0).lo.stat := ⟨[], rfl, rfl, rfl, by decide +kernel, by decide⟩

theorem wit_registerMoves : AtBundle run 0 0 5 4 ∧ (getCtx run 5).novec = false ∧ pipeRuns run (pipeOf 0) = true ∧ ((0xA : BitVec 4) = 0xA ∨ (0xA : BitVec 4) = 0x9) ∧
    ((0x9 : BitVec 4) = 0xA ∨ (0x9 : BitVec 4) = 0x9) := ⟨run_at4, rfl, by decide +kernel, .inl rfl, .inr rfl⟩

/-- Two elements of type u8, by their index, in a window that allows gather and scatter; k0 governs. -/
def gathering : State := running1 ctx { bank with lo := { bank.lo with
  vl := 2, segs := bank.lo.segs.set 4 (mkDesc 0xF00000000000 0xFFFF 0x247) } } id
def gargs : FArgs := { vd := 3, va := 1, vb := 0, ty := 4, ext := some { km := 0, mz := false, bs := false, sc := false, mbz := 0, aux := 0x14 } }

theorem wit_gatherScatter :
    AtBundle gathering 0 0 5 8 ∧ (getCtx gathering 5).novec = false ∧ (gathering.seqs[0]).sb = [] ∧ hasStore gathering 5 = false ∧
    pipeRuns gathering (pipeOf 0) = true ∧ gsEnc gargs = [] ∧
    (let e := envOf gathering 0 0 5
     let d := segReg (bankOf gathering 0 0).lo 4
     let v := vEnv e gargs 1024
     let active := (vIdx v).filter (fun i => v.km.getLsbD i)
     let ws := active.map (fun i => (dBase d + gsOff e v gargs i, bytesOf (el ((bankOf gathering 0 0).up.v[3]).toNat 8 i) 1))
     active = [0, 1] ∧ dV d = true ∧ dSE d = false ∧
     (∀ i ∈ active, gsCheck e d false (gsOff e v gargs i) 1 = none ∧ (gaRead gathering e.m (dBase d + gsOff e v gargs i) 1).error = none ∧
       (gaRead gathering e.m (dBase d + gsOff e v gargs i) 1).poison = none) ∧
     (∀ i ∈ active, gsCheck e d true (gsOff e v gargs i) 1 = none) ∧
     (∀ j < ws.length, ((gaWrite ((ws.take j).foldl (fun a w => (gaWrite a e.m w.1 w.2).1) gathering) e.m (ws.getD j (0, [])).1
        (ws.getD j (0, [])).2).2 = none))) :=
  ⟨at_of _ _ _ _ _ (by decide +kernel), rfl, rfl, by decide +kernel, by decide +kernel, by decide, by decide +kernel, by decide +kernel,
   by decide +kernel, by decide +kernel, by decide +kernel, by decide +kernel⟩

/-- Directory 0 holds keys of type u64 (R137); context 5 names it; VL is 128, and mask k1 is 0. -/
def directory : Directory := { Directory.free with st := .ready, ktype := 7, mainLog2 := 10, depth := 2, fvalid := true }
def probing : State :=
  let s := running1 { ctx with dirSlots := ctx.dirSlots.set 0 (some 0), depth := 2 } { bank with lo := { bank.lo with vl := 128 } } id
  { s with dir := { s.dir with dirs := [(0, directory)] } }

theorem wit_directory : (∃ op u a, dirForm (.dins pl0 (argsX 7 0)) = some (op, u, a) ∧ AtBundle probing u.seq 0 5 (4 * fLen a) ∧
      u.stop = true ∧ (getCtx probing 5).novec = false ∧ pipeRuns probing (pipeOf u.seq) = true ∧ dirEnc probing 5 op a = [] ∧
      ∀ f, Book probing f u.seq 0 5 → (dirRegister (pipeBusy f u.seq) u.seq 0 5 op (extOf a).aux a).2 = none) := by
  refine ⟨_, _, _, rfl, at_of _ _ _ _ _ (by decide +kernel), rfl, rfl, by decide +kernel, by decide +kernel, fun f h => ?_⟩
  have hk : (rdK (bankOf f 0 0).up 1).toNat = 0 := by rw [h.up]; decide +kernel
  have hk' : ∀ i, (rdK (bankOf f 0 0).up 1).getLsbD i = false := by
    intro i; rw [BitVec.getLsbD, hk]; simp
  have hp : f.pwr = probing.pwr := (congrArg State.pwr h.rest : _)
  have hu : islandUp probing islDR = true := by decide +kernel
  have he : ∀ (l : List Nat), l.filter (fun i => (rdK (bankOf f 0 0).up 1).getLsbD i) = [] := by
    intro l; simp [hk']
  have hd : ∀ s1 : State, s1.pwr = f.pwr → dirServed s1 = true := by
    intro s1 h1; simp only [dirServed, islandUp, h1, hp]; exact hu
  have hc : ∀ x y : Nat, dirServed (charge (charge (charge (pipeBusy f 0) 5 7 2) 5 8 x) 5 0 y) = true := fun _ _ => hd _ rfl
  have hs : ∀ (a : State) (n : Nat) (k : Fin 11) (m : Nat), (charge a n k m).seqs = a.seqs := fun _ _ _ _ => rfl
  have hs' : (pipeBusy f 0).seqs = f.seqs := rfl
  have hl : ∀ x y : Nat, ((charge (charge (charge (pipeBusy f 0) 5 7 2) 5 8 x) 5 0 y).seqs[(0 : Fin 16).val]).lost = [] := by
    intro x y; simp only [hs, hs']; rw [show ((f.seqs[(0 : Fin 16).val]).lost) = _ from h.lost]; decide +kernel
  have hb : (pipeBusy f 0).seqs[(0 : Fin 16).val].banks[(0 : Fin 8).val] = bankOf f 0 0 := rfl
  have hx : (argsX 7 0).ext.getD { km := 0, mz := false, bs := false, sc := false, mbz := 0, aux := 0 } = extOf (argsX 7 0) := rfl
  have hm : (extOf (argsX 7 0)).km = 1 := rfl
  unfold dirRegister
  simp only [hb, hx, hm, he, hc, hl, List.map_nil, List.any_nil, Bool.not_false, Bool.and_self, if_true]
  rfl


/-! ## The block as a whole -/

def eachB {α : Type} (p : α → Bool) (x : Staged α) : Bool :=
  p x.stage && p x.active && (match x.sampled with | some y => p y | none => true)

theorem each_of {α : Type} (p : α → Bool) (x : Staged α) (h : eachB p x = true) : x.Each (fun y => p y = true) := by
  simp only [eachB, Bool.and_eq_true] at h
  exact ⟨h.1.1, h.1.2, fun y hy => by have h2 := h.2; rw [hy] at h2; exact h2⟩

/-- Decides TablesOk. -/
theorem tables_of (s : State)
    (h : (twf Ctx.free s.ctxs && twf Qp.reset s.rqe.qps && twf false s.rqe.prot && twf Directory.free s.dir.dirs
      && twf VaultSlot.empty s.objs.vault && twf none s.objs.segs && twf none s.objs.progs && twf CodeState.full s.evr.codes
      && eachB (fun l => twf SrcCfg.reset l) s.evc.cfg && twf SrcState.reset s.evc.src && twf Grp.reset s.evc.grp
      && eachB (fun c => twf FnRange.reset c.ranges) s.hl.cfg && twf VecState.reset s.hl.msix && twf DevCtl.reset s.hl.devs
      && s.lmcs.all (fun x => twf 0 x.maint) && s.lmcs.all (fun x => twf 0 x.rows) && twf MemErr.reset s.lms.mems
      && twf (0 : Reg32) s.lms.coll && twf none s.latch && twf (0 : Reg32) s.fab.ce && twf (0 : Reg32) s.fab.ue
      && twf (0 : Reg32) s.fab.hold && twf (0 : Reg32) s.fab.floorCnt && twf 0 s.fab.credits && twf [] s.fab.ports
      && twf 0 s.fab.last && twf 0 s.fab.blocked && twf [] s.fab.held && twf [] s.fab.unacked
      && twf CodeWord.clean s.upset) = true) : s.TablesOk := by
  simp only [Bool.and_eq_true, and_assoc] at h
  obtain ⟨a1, a2, a3, a4, a5, a6, a7, a8, a9, a10, a11, a12, a13, a14, a15, a16, a17, a18, a19, a20, a21, a22, a23, a24, a25, a26, a27,
    a28, a29, a30⟩ := h
  exact ⟨a1, a2, a3, a4, a5, a6, a7, a8, each_of _ _ a9, a10, a11, each_of _ _ a12, a13, a14,
    fun n => Vector.all_eq_true.mp a15 n.val n.isLt, fun n => Vector.all_eq_true.mp a16 n.val n.isLt, a17, a18, a19, a20, a21, a22,
    a23, a24, a25, a26, a27, a28, a29, a30⟩

theorem up_tables : up.TablesOk := tables_of _ (by decide +kernel)
theorem run_tables : run.TablesOk := tables_of _ (by decide +kernel)

/-- Directory 0 with one main bucket, 0, and one overflow bucket, 1, of which u are used; the main bucket holds a line. -/
def buckets (u : BitVec 25) (line : Nat) : State :=
  putBucket { run with dir := { run.dir with dirs := [(0, { directory with mainLog2 := 0, ovfBase := 1, ovfCount := 1, ovfUsed := u, fvalid := false })] } }
    0 line
/-- A slot of a key that is not the one looked for. -/
def otherKey (i : Nat) : Nat := 2 ^ (128 * i) * (2 ^ 24 + 2 ^ 64 * 5)

theorem buckets_ok (u : BitVec 25) (line : Nat) : (buckets u line).MemOk ∧ (buckets u line).upset = [] ∧ CacheOk (buckets u line) ∧
    (buckets u line).poison = [] :=
  ⟨⟨memWf_wrBytes _ _ _ rfl, rfl⟩, rfl, fun _ h => absurd h (List.not_mem_nil), rfl⟩

/-- A key that is present; one that is absent, with an empty slot; a full chain with and without a free overflow bucket; a chain that goes deeper than declared; an
unreadable main bucket; and a clear filter bit. -/
theorem wit_directoryOperations :
    (∀ u line, (buckets u line).MemOk ∧ (buckets u line).upset = [] ∧ CacheOk (buckets u line) ∧ (buckets u line).poison = []) ∧
    (let h := keyHash (getDir (buckets 0 0) 0) 7
     let s := buckets 0 (keyWord h 9)
     s.TablesOk ∧ dirVarOk 0x11 1 = true ∧ (getDir s 0).ktype.toNat < 8 ∧ 7 < 2 ^ tyW (getDir s 0).ktype.toNat ∧ (getDir s 0).fvalid = false ∧
      (gaRead s .scarab (bucketGa 0) 64).error = none ∧ (0 : BitVec 24).toNat + h % 2 ^ (getDir s 0).mainLog2.toNat = 0 ∧
      KeyAt (bucket s 0) h 0 ∧ slotField (bucket s 0) 3 24 8 ≠ 2) ∧
    (let h := keyHash (getDir (buckets 0 0) 0) 7
     let s := buckets 0 (otherKey 0)
     (∀ i < 4, ¬KeyAt (bucket s 0) h i) ∧ slotField (bucket s 0) 3 24 8 ≠ 2 ∧ slotField (bucket s 0) 1 24 8 = 0) ∧
    (∀ u : Bool, let h := keyHash (getDir (buckets 0 0) 0) 7
     let s := buckets (if u then 1 else 0) (otherKey 0 + otherKey 1 + otherKey 2 + otherKey 3)
     (∀ i < 4, ¬KeyAt (bucket s 0) h i) ∧ slotField (bucket s 0) 3 24 8 ≠ 2 ∧ (∀ i < 4, slotField (bucket s 0) i 24 8 ≠ 0) ∧
      ((getDir s 0).ovfUsed.toNat = (getDir s 0).ovfCount.toNat ↔ u = true) ∧ (gaRead s .scarab (bucketGa 1) 64).error = none) ∧
    (let s := buckets 1 (2 ^ 384 * linkWord 1)
     slotField (bucket s 0) 3 24 8 = 2 ∧ slotField (bucket s 0) 3 32 32 = 1) ∧
    bucketBad { buckets 0 0 with poison := [0x100000000] } 0 = true ∧
    ((getDir probing 0).fvalid = true ∧ filterGet probing ((getDir probing 0).filtBase.toNat + keyHash (getDir probing 0) 7 / 2 ^ 64) = false) := by
  refine ⟨buckets_ok, ⟨tables_of _ (by decide +kernel), ?_⟩, ?_⟩
  · unfold KeyAt; decide +kernel
  · unfold KeyAt; decide +kernel

/-! ## Syllables -/

/-- The forms that act alone, the moves and the saves have a state each: those of the theorems above, here with all that the first
clauses ask together. -/
theorem wit_formsComplete : pl0.stop = true ∧ AtBundle run pl0.seq 0 5 4 ∧ (run.seqs[0]).sb = [] ∧ hasStore run 5 = false ∧
    (getCtx run 5).novec = false ∧ (getCtx run 5).fppend = false ∧ fpCond (bankOf run 0 0).lo.fcsr = false ∧ pipeRuns run (pipeOf 0) = true ∧
    (bankOf run 0 0).lo.stat.pl ≠ 2 ∧ rdInt (bankOf run 0 0).lo 20 = 0 ∧ (∀ i : Fin 16, ((getCtx run 5).tickets[i.val]).out = false) :=
  ⟨rfl, run_at4, rfl, by decide +kernel, rfl, rfl, by decide, by decide +kernel, by decide, by decide +kernel, by decide⟩

/-- The I slots: ADD of three registers, SHLI by 63, BFX, LI with its X, and MFC (R229). -/
theorem test_decodeI :
    instrOf 3 ⟨0, 0b10000000001010010101101100000000, none⟩ = some (.add ⟨3, true, false⟩ 20 21 22) ∧
    instrOf 3 ⟨0, 0b00011001001010010101000000111111, none⟩ = some (.shli ⟨3, false, true⟩ 20 21 63) ∧
    instrOf 3 ⟨0, 0b10001011000000100010111100000011, none⟩ = some (.bfx ⟨3, true, false⟩ 1 2 60 3) ∧
    instrOf 3 ⟨0, 0b00001010101111100000000000001111, some 0b11100000000000000000000000000001⟩ = some (.li ⟨3, true, false⟩ 31 (.long 0x1F)) ∧
    instrOf 3 ⟨0, 0b10001100000010110011000000000000, none⟩ = some (.mfc ⟨3, true, false⟩ 5 19) := by decide

/-- The M slot: LDD with an 8-bit displacement, STB with its X, SLD of s1, ISYNC and MFENCE (R230). -/
theorem test_decodeM :
    instrOf 3 ⟨0, 0b10100000111010000100011111111111, none⟩ = some (.ldd ⟨3, true⟩ 20 ⟨2, 7, .short 0xFF⟩) ∧
    instrOf 3 ⟨0, 0b00100010001010011110000000000001, some 0b11101111111111111111111111111111⟩ = some (.stb ⟨3, true⟩ 20 ⟨15, 0, .long 0xFFFFFFF1⟩) ∧
    instrOf 3 ⟨0, 0b10100100000000100110000000000000, none⟩ = some (.sld ⟨3, true⟩ 1 ⟨3, 0, .short 0⟩) ∧
    instrOf 3 ⟨0, 0b10101000010000100100001100000000, none⟩ = some (.isync ⟨3, true⟩ 1 3 2) ∧
    instrOf 3 ⟨0, 0b10101000000000000000000000000000, none⟩ = some (.mfence ⟨3, true⟩) := by decide

/-- The B slot: BEQZ, LOOP with its X, CALL, CALLR, JR and TRAP (R231). -/
theorem test_decodeB :
    instrOf 3 ⟨0, 0b10110000010010111111111111111111, none⟩ = some (.beqz ⟨3, true⟩ 5 (.short 0x1FFFF)) ∧
    instrOf 3 ⟨0, 0b00110010000010100000000000000010, some 0b11100000000000000000000000000011⟩ = some (.loop ⟨3, true⟩ 5 (.long 0x32)) ∧
    instrOf 3 ⟨0, 0b00110100010000000000011000000000, some 0b11100000000000000000000000010000⟩ = some (.call ⟨3, true⟩ 0x18 16) ∧
    instrOf 3 ⟨0, 0b10110100100111111111111111000110, none⟩ = some (.callr ⟨3, true⟩ 0x7FFF 3) ∧
    instrOf 3 ⟨0, 0b10110100000011100000000000000000, none⟩ = some (.jr ⟨3, true⟩ 7) ∧
    instrOf 3 ⟨0, 0b10110110110000001000000000000001, none⟩ = some (.trap ⟨3, true⟩ 0x8001) := by decide

/-- The F slot: VADD of u8, VFMA with mask k1, MZ and AUX, VPSUM of GRP 1, DPROBE, VGATHER and MFF (R232 to R234). -/
theorem test_decodeF :
    instrOf 3 ⟨0, 0b11000000000010001100001000100100, none⟩ = some (.vadd ⟨3, true⟩ { vd := 3, va := 1, vb := 2, ty := 4, ext := none }) ∧
    instrOf 3 ⟨0, 0b01000110000110001100001000101010, some 0b11100011000000000000000000011111⟩ = some (.vfma ⟨3, true⟩ { vd := 3, va := 1, vb := 2, ty := 10, ext := some { km := 1, mz := true, bs := false, sc := false, mbz := 0, aux := 31 } }) ∧
    instrOf 3 ⟨0, 0b11000010000000001100001000000111, none⟩ = some (.vpsum ⟨3, true⟩ { vd := 3, va := 1, vb := 0, ty := 7, ext := none }) ∧
    instrOf 3 ⟨0, 0b11001010100000001100001000000111, none⟩ = some (.dprobe ⟨3, true⟩ { vd := 3, va := 1, vb := 0, ty := 7, ext := none }) ∧
    instrOf 3 ⟨0, 0b11001100000010001100001000000100, none⟩ = some (.vgather ⟨3, true⟩ { vd := 3, va := 1, vb := 0, ty := 4, ext := none }) ∧
    instrOf 3 ⟨0, 0b11001100001010001100001000001010, none⟩ = some (.mff ⟨3, true⟩ 3 1 10) := by decide

/-- The S slot: STRM of s2, STWAIT and STTEST (R235); an opcode that is reserved spells none. -/
theorem test_decodeS :
    instrOf 3 ⟨0, 0b11010000000000100010001000000000, none⟩ = some (.strm ⟨3, true⟩ 1 2 2) ∧
    instrOf 3 ⟨0, 0b11010000010000100010000000000000, none⟩ = some (.stwait ⟨3, true⟩ 1 2) ∧
    instrOf 3 ⟨0, 0b11010000100000100010000000000000, none⟩ = some (.sttest ⟨3, true⟩ 1 2) ∧
    instrOf 3 ⟨0, 0b11010000110000100010000000000000, none⟩ = none := by decide

/-- 08, "encoding two bundles". -/
theorem test_bundleOf :
    bundleOf 0 [0x08022064, 0x20C8A602, 0xB083FFFD] =
      some [.addi ⟨0, false, false⟩ 1 2 (.short 0x064), .ldd ⟨0, false⟩ 4 ⟨5, 6, .short 2⟩, .bnez ⟨0, true⟩ 1 (.short 0x1FFFD)] ∧
    bundleOf 0 [0x0A860008, 0x61234567, 0x4618464A, 0xE5000005] =
      some [.li ⟨0, false, false⟩ 3 (.long 0x12345678),
        .vfma ⟨0, true⟩ { vd := 1, va := 3, vb := 4, ty := 10, ext := some { km := 2, mz := true, bs := false, sc := false, mbz := 0, aux := 5 } }] := by
  decide


theorem wit_step : (∃ s : State, s.pending = []) ∧ ∃ m : Measurement, up.pwr.powered = true ∧ up.pwr.core = true ∧ 60000 < m.mv.toNat :=
  ⟨⟨up, rfl⟩, { mv := 60001, mvInside := 0, ma10 := 0, w := 0, beExhausted := false, jmax := 0, smax := 0, cplate := 0 }, by decide, by decide, by decide⟩

/-- A step from a state in canonical form. -/
theorem wit_canonical : ∃ t, run.MemOk ∧ run.TablesOk ∧ step run = .next t := ⟨_, ⟨rfl, rfl⟩, run_tables, rfl⟩

theorem wit_keeps : ∃ t, exec (.muldivComplete 0) dividing = .next t := ⟨_, rfl⟩

/-! ## The concentrator, the recorder and the pages -/

/-- Sources 2 and 2047 present to firmware's target 16 with one priority; source 2 in the service of no one. -/
def sources : State :=
  let on : SrcCfg := { vec := 0, en := true, cls := 0, tgt := 16, prio := 15 }
  let st : SrcState := { pend := true, mask := false, insvc := none, input := true, sent := false }
  { up with evc := { Evc.reset with cfg := .init [(2, on), (2047, on)], src := [(2, st), (2047, st)], grp := [(0, ⟨3, false⟩)] } }

theorem wit_sources : up.TablesOk ∧ evcUp up = true ∧ srcPage (2 : Fin 2048).val = some .pwr ∧ srcPage (0x3F : Fin 2048).val = some (.seq 15) ∧
    State.reset.TablesOk ∧ evcUp State.reset = false :=
  ⟨up_tables, by decide, by decide, by decide, tables_of _ (by decide +kernel), by decide⟩

theorem wit_claims : sources.TablesOk ∧ evcUp sources = true ∧ claims .fw 16 = true ∧ candidate sources 16 = some 2 ∧
    claims (.host 0) 17 = true ∧ candidate sources 17 = none ∧ ownsTargets .fw = true ∧ 16 ≤ (16 : Fin 18).val :=
  ⟨tables_of _ (by decide +kernel), by decide, by decide, by decide, by decide, by decide, by decide, by decide⟩

/-- A bucket with one token more than none, and an empty one. -/
def recording (missing : Nat) (buf : List (BitVec 256)) : State :=
  { up with evr := { Evr.reset with codes := [(7, { CodeState.full with missing := missing })], tick := 125000, buf := buf, flushing := true, optSince := 256 } }

theorem wit_records : (recording 16 []).TablesOk ∧ 16 ≤ (getCode (recording 16 []) 7).missing ∧
    (getCode (recording 15 []) 7).missing < 16 ∧ logFull (recording 15 []) = false ∧ logFull (recording 15 (List.replicate 2048 0)) = true :=
  ⟨tables_of _ (by decide +kernel), by decide, by decide, by decide, by decide +kernel⟩

theorem wit_recorder : (let s := recording 16 [5]
    s.TablesOk ∧ 0 < (getCode s 7).missing ∧
    tokenInterval s ≤ (s.evr.tick - (getCode s 7).base).toNat ∧ ownsTargets .fw = true ∧ s.evr.buf ≠ [] ∧
    s.pwr.powered = true ∧ 256 ≤ s.evr.optSince ∧ s.pwr.pfw = false ∧ s.pwr.resetPend = none ∧ s.evr.flushing = true ∧ s.evr.buf = 5 :: []) :=
  ⟨tables_of _ (by decide +kernel), by decide, by decide +kernel, by decide, by decide, by decide, by decide, by decide, by decide, by decide, rfl⟩

/-- A page's header. -/
def paged (pg : PageId) (f : Hdr → Hdr) : State := modHdr up pg f

/-- A page that is off and passes its check; one that does not pass; one that is on; and one that stops. -/
theorem wit_enable :
    (let s := paged (.seq 15) (fun h => { h with en := false })
     s.TablesOk ∧ pageFixed (.seq 15) = false ∧ hdrWrites s .fw (.seq 15) 0x008 = true ∧ (hdr s (.seq 15)).en = false ∧
     pageCheck s (.seq 15) = none) ∧
    (let s := { paged .evr (fun h => { h with en := false }) with evr := { Evr.reset with rate := { Evr.reset.rate with stage := 0 } } }
     s.TablesOk ∧ hdrWrites s .fw .evr 0x008 = true ∧ (hdr s .evr).en = false ∧ (pageCheck s .evr).isSome) ∧
    (hdrWrites up .fw .evc 0x008 = true ∧ (hdr up .evc).en = true) ∧
    (let s := paged .evc (fun h => { h with stopping := true })
     (hdr s .evc).stopping = true ∧ (hdr s .evc).commit = false ∧ serveIsl s (pageIsland .evc) = .up) :=
  ⟨⟨tables_of _ (by decide +kernel), by decide, by decide +kernel, by decide +kernel, by decide +kernel⟩,
   ⟨tables_of _ (by decide +kernel), by decide +kernel, by decide +kernel, by decide +kernel⟩,
   ⟨by decide +kernel, by decide +kernel⟩, by decide +kernel, by decide +kernel, by decide +kernel⟩

theorem wit_commit :
    (hdrWrites up .fw .csc 0x008 = true ∧ (hdr up .csc).commit = false ∧ pageCheck up .csc = none ∧ (hdr up .csc).en = true ∧
      hasStaged .csc = true) ∧
    (hdrWrites up .fw (.xpt 5) 0x008 = true ∧ (hdr up (.xpt 5)).commit = false ∧ pageCheck up (.xpt 5) = none ∧ hasStaged (.xpt 5) = false) ∧
    (let s := paged .csc (fun h => { h with commit := true })
     hdrWrites s .fw .csc 0x008 = true ∧ (hdr s .csc).commit = true ∧ serveIsl s (pageIsland .csc) = .up) ∧
    (let s := { up with evr := { Evr.reset with rate := { Evr.reset.rate with stage := 0 } } }
     hdrWrites s .fw .evr 0x008 = true ∧ (hdr s .evr).commit = false ∧ (pageCheck s .evr).isSome) := by
  refine ⟨?_, ?_, ?_, ?_⟩ <;> decide +kernel

theorem wit_pageInterrupts : hdrWrites up .fw .pwr 0x008 = true ∧ hdrWrites up .fw .pwr 0x01C = true ∧ hdrWrites up .fw .pwr 0x020 = true ∧
    hdrWrites up .fw .pwr 0x028 = true ∧ hdrWrites up .fw .pwr 0x02C = true := by decide +kernel


/-! ## Registers -/

theorem wit_stagedRegisters : pageServed up .fw .pwr ∧ stagedBits .pwr 0x04C = some 0x00FFFF00 ∧ stagedBits .dau 0x0A8 = some 0x0003FFFF ∧
    stagedBits .map 0x0BC = some 0x00007FFF ∧ pageServed up .fw (.pipe 7) ∧ pageServed up .fw (.seq 15) ∧
    pageServed up .fw .dau ∧ pageServed up .fw .map ∧ pageServed up (.host 0) .hlk ∧ reaches up (.host 63) = true ∧
    regFor (.host 63) 0x10000 = .undefined := by
  unfold pageServed; refine ⟨⟨?_, ?_⟩, ?_, ?_, ?_, ⟨?_, ?_⟩, ⟨?_, ?_⟩, ⟨?_, ?_⟩, ⟨?_, ?_⟩, ⟨?_, ?_⟩, ?_, ?_⟩ <;> decide +kernel

theorem wit_registerCommands : (up.parked = [] ∧ up.evc.held = []) ∧ memReaches up (.host 63) = true ∧ hdrWrites up .fw .evc 0x008 = true ∧ ownsTargets (.host 0) = true ∧ pageServed up (.host 0) .evc ∧
    (0xFFFFFFFF : Reg32).toNat % 2048 = (2047 : Fin 2048).val ∧ pageServed up (.host 63) .rqe ∧ regFor (.host 63) 0 = .qp 4032 0 ∧
    (4032 : Fin 4096).val = 64 * (63 : Fin 64).val ∧ hostOf up (.host 0) 0 = true ∧ (0 : Fin 2048).val < vecCount 0 ∧
    (2047 : Fin 2048).val < vecCount 0 ∧ up.hl.vfe = false ∧ up.TablesOk ∧ (∀ r ∈ up.hl.flr, r.1 ≠ 0) ∧ cfgFn .sriov = some 0 := by
  unfold pageServed
  refine ⟨⟨rfl, rfl⟩, ?_, ?_, ?_, ⟨?_, ?_⟩, ?_, ⟨?_, ?_⟩, ?_, ?_, ?_, ?_, ?_, ?_, up_tables, ?_, ?_⟩ <;> decide +kernel

/-- A link that trains, and a function that is being reset, answer a configuration request with Retry Status. -/
theorem wit_retry :
    (let s := { up with hl := { Hl.reset with training := true, l0 := true } }
     islandUp s islHL = true ∧ s.hl.up = false ∧ s.hl.training = true ∧ s.hl.l0 = true ∧ cfgFn (.memSpace 63) = some 63) ∧
    (let s := { up with hl := { up.hl with flr := [(63, false)] } }
     islandUp s islHL = true ∧ s.hl.up = true ∧ ∃ r ∈ s.hl.flr, r.1 = (63 : Fin 64)) := by decide +kernel

/-- SR-IOV is on. -/
theorem wit_vfe : hostOf { up with hl := { up.hl with vfe := true } } (.host 0) 0 = true ∧ (∀ r ∈ up.hl.flr, r.1 ≠ 0) ∧ (0x7FFFFFFF : Reg32).getLsbD 31 = false := by
  decide +kernel

/-- A page whose island runs, one whose island is off and one whose island sleeps; a HI half that is latched. -/
theorem wit_reads :
    (up.TablesOk ∧ bar0Reaches up .fw = true ∧ (regFor .fw 0x10048).pageId.isSome ∧
      hiOf (.page .glb 0x048) = some (.page .glb 0x04C) ∧ hasLatch .fw = true ∧ (RegAt.page .glb 0x048).pageId = some .glb ∧
      serveIsl up (pageIsland .glb) = .up ∧ tget none up.latch (latchKey (regOffset (.page .glb 0x048)) .fw) = none) ∧
    (∃ s : State, s = { up with latch := [(latchKey 0x4C .fw, some 7)] } ∧ s.TablesOk ∧ bar0Reaches s .fw = true ∧
      tget none s.latch (latchKey 0x4C .fw) = some 7) ∧
    (bar0Reaches State.reset .fw = true ∧ serveIsl State.reset (pageIsland (.seq 0)) = .gone) ∧
    (let s := { up with pwr := { up.pwr with islands := vset up.pwr.islands (islSQ 0) { Island.reset false with st := .retain } } }
     bar0Reaches s .fw = true ∧ serveIsl s (pageIsland (.seq 3)) = .asleep) ∧
    (regFor .fw 0x50000 = .tgt 16 0 ∧ claims .fw 16 = true ∧ serveIsl up (pageIsland .evc) = .up ∧ claims .fw 17 = false) ∧
    regFor (.host 1) 0x1000 = .zero ∧ regFor .fw 0x1 = .undefined := by
  refine ⟨⟨up_tables, ?_, ?_, ?_, ?_, ?_, ?_, ?_⟩, ⟨_, rfl, tables_of _ (by decide +kernel), ?_, ?_⟩, ?_, ?_, ?_, ?_, ?_⟩ <;> decide +kernel

/-- A function reads the end of its part of queue memory, and across a 4-KiB boundary; a doorbell; a function in D3hot and one of a locked module
read nothing. -/
theorem wit_windowReads : (reaches up (.host 0) = true ∧ up.hl.d3.getLsbD 0 = false ∧
      (queuePart 0 0x1FFFE00).isSome = true ∧ 0x1FFFE00 % 4096 + (512 : Fin 513).val ≤ 4096 ∧ 0x1FFFE01 % 4096 + (512 : Fin 513).val > 4096) ∧
    (reaches up (.host 63) = true ∧ up.hl.d3.getLsbD 63 = false ∧ (queuePart 63 0x40000).isSome = true ∧ (0x3F8 : BitVec 25).toNat < 1024) ∧
    (let s := { up with hl := { up.hl with d3 := 1 } }
     reaches s (.host 0) = true ∧ s.hl.d3.getLsbD (0 : Fin 64).val = true) ∧
    (let s := { up with pwr := { up.pwr with locked := true } }
     reaches s (.host 0) = true ∧ hlLocked s = true) ∧ hostOf up (.host 0) 0 = true := by decide +kernel

/-! ## Queue pairs -/

/-- Pair 64 has an SQ and a CQ of 4 slots, n entries pending from head 1, and u CQ slots in use. -/
def pair (st : QpState) (n u : Nat) : Qp :=
  { Qp.reset with en := true, st := st, sqm1 := 3, cqm1 := 3, sqloc := true, cqloc := true, ien := true, iv := 5, cqBase := 0x1000, sqhd := 1, sqtail := (1 + n) % 4,
                  sqPend := n, cqtail := (2 + u) % 4, cqhead := 2, cqUsed := u }
def pairs (x : Qp) : State := { up with rqe := { up.rqe with qps := [(64, x)] } }

/-- The last slot that fits, and the first move that does not. -/
theorem wit_doorbells :
    (let s := pairs (pair .active 3 4)
     let x := getQp s 64
     s.TablesOk ∧ linkUp s = true ∧ s.hl.d3.getLsbD 1 = false ∧ x.st = .active ∧
     ((1 : Word).toNat < 4 ∧ (1 : Word).toNat ≠ x.sqtail ∧ x.sqPend + ((1 : Word).toNat + 4 - x.sqtail) % 4 ≤ 4) ∧
     ((2 : Word).toNat ≠ x.sqtail ∧ 4 < x.sqPend + ((2 : Word).toNat + 4 - x.sqtail) % 4) ∧ ((0 : Word).toNat = x.sqtail) ∧
     ((1 : Word).toNat ≠ x.cqhead ∧ ((1 : Word).toNat + 4 - x.cqhead) % 4 ≤ x.cqUsed) ∧ (BitVec.ofNat 64 x.cqhead).toNat = x.cqhead) ∧
    (let s := pairs (pair .active 3 2)
     (1 : Word).toNat ≠ (getQp s 64).cqhead ∧ (getQp s 64).cqUsed < ((1 : Word).toNat + 4 - (getQp s 64).cqhead) % 4) ∧
    ((getQp up 64).st = .off ∧ linkUp up = true) ∧ linkUp { up with hl := { up.hl with d3 := 2 } } = true ∧
    isBell ⟨1, 0⟩ 64 false ∧ isBell ⟨1, 8⟩ 64 true ∧ isBell ⟨0, 0xFFF8⟩ 4095 true :=
  ⟨⟨tables_of _ (by decide +kernel), by decide, by decide, by decide, by decide, by decide, by decide, by decide, by decide⟩, by decide, by decide, by decide, by unfold isBell; decide, by unfold isBell; decide,
    by unfold isBell; decide⟩

/-- An entry of a command's code, valid but for what it asks. -/
def entryOf (q : Fin 4096) (n : Nat) : InEntry := { q := q, entry := BitVec.ofNat 1024 n, prot := false }

theorem wit_fetching :
    (let s := pairs (pair .active 1 3)
     s.TablesOk ∧ islandUp s islHL = true ∧ s.pwr.pfw = false ∧ (hdr s .rqe).held = false ∧ s.rqe.rr < 4096 ∧ nextQueue s = some 64) ∧
    ((takeEntry { up with rqe := { up.rqe with inbox := [entryOf 64 0x12] } } 0x12).map (·.1) = some (entryOf 64 0x12)) :=
  ⟨⟨tables_of _ (by decide +kernel), by decide, by decide, by decide +kernel, by decide, by decide +kernel⟩, by decide +kernel⟩

/-- A completion waits. -/
def answer : Compl :=
  { q := 64, cid := 7, res0 := 1, res1 := 0, cause := 0, status := 5, detail := 0x0E, ovr := false, late := false, cfg := false, ctx := none }

/-- What the admin pair of function 1 asks. -/
def ask (x : Qp) : QpAsk :=
  { rsvd := false, iv := x.iv.toNat, ien := x.ien, sqloc := x.sqloc, cqloc := x.cqloc, sqm1 := x.sqm1.toNat, cqm1 := x.cqm1.toNat,
    sqBase := x.sqBase.toNat, cqBase := x.cqBase.toNat }

theorem wit_queuePairs :
    (let s := pairs { pair .off 0 0 with en := false }
     s.TablesOk ∧ linkUp s = true ∧ s.hl.d3.getLsbD 1 = false ∧ hlLocked s = false ∧ (getQp s 64).en = false ∧ queueTest s 1 0 true (ask (getQp s 64)) = none ∧ s.hl.kept.getLsbD 1 = false) ∧
    (let s := pairs { pair .off 0 0 with en := false, cqBase := 1 }
     s.TablesOk ∧ (getQp s 64).en = false ∧ (queueTest s 1 0 true (ask (getQp s 64))).isSome) ∧
    (getQp (pairs (pair .active 0 0)) 64).en = true ∧
    (let s := pairs { pair .draining 0 0 with en := false }
     (getQp s 64).st = .draining ∧ (getQp s 64).outst = 0) ∧ (31 : Fin 2048).val < vecCount 1 :=
  ⟨⟨tables_of _ (by decide +kernel), by decide +kernel, by decide +kernel, by decide +kernel, by decide +kernel, by decide +kernel, by decide +kernel⟩,
   ⟨tables_of _ (by decide +kernel), by decide +kernel, by decide +kernel⟩, by decide +kernel, by decide +kernel, by decide +kernel⟩

/-- A completion for the last slot but one, and for the last; and that of a job, behind one of a queue that cannot be reached, for a queue in host
memory. -/
theorem wit_completions :
    (let s := { pairs { pair .active 0 0 with cqloc := false } with
       rqe := { (pairs { pair .active 0 0 with cqloc := false }).rqe with compl := [{ answer with q := 128 }, { answer with ctx := some 5 }] }
       hl := { up.hl with d3 := 4 }, ctxs := [(5, { Ctx.free with st := .ending })] }
     s.MemOk ∧ s.TablesOk ∧ s.rqe.compl = [{ answer with q := 128 }] ++ { answer with ctx := some 5 } :: [] ∧ complWaits s { answer with q := 128 } = true ∧
     s.rqe.running = [] ∧ queueReached s 1 false = true ∧ (getQp s 64).cqBase.toNat % 4096 = 0) ∧
    (∀ n : Fin 2, let s := { pairs (pair .active 0 n.val) with rqe := { (pairs (pair .active 0 n.val)).rqe with compl := [answer] } }
     s.MemOk ∧ s.TablesOk ∧ islandUp s islHL = true ∧ s.pwr.stopped = false ∧ s.pwr.tamperPend = false ∧ s.pwr.lcPend = none ∧
     s.hl.flr = [] ∧ s.rqe.compl = answer :: [] ∧ answer.ctx = none ∧ (getQp s answer.q.val).cqloc = true ∧
     (getQp s answer.q.val).st = .active ∧ queueReached s 1 true = true ∧ (getQp s answer.q.val).cqBase.toNat % 4096 = 0 ∧
     (getQp s answer.q.val).cqtail = 2 + n.val) := by
  refine ⟨⟨⟨rfl, rfl⟩, tables_of _ (by decide +kernel), rfl, by decide +kernel, rfl, by decide +kernel, by decide +kernel⟩, ?_⟩
  intro n
  have hn : n = 0 ∨ n = 1 := by omega
  rcases hn with rfl | rfl <;>
    exact ⟨⟨by decide, by decide⟩, tables_of _ (by decide +kernel), by decide, by decide, by decide, by decide, by decide, rfl, rfl,
      by decide +kernel, by decide +kernel, by decide +kernel, by decide +kernel, by decide +kernel⟩


/-! ## Commands of submission entries -/

/-- An entry of function 0's admin queue: fields by byte offset, low bit and value. -/
def cmdEntry (opc : Nat) (fs : List (Nat × Nat × Nat)) (prot : Bool) : InEntry :=
  { q := 0, entry := BitVec.ofNat 1024 ((fs.map (fun f => f.2.2 * 2 ^ (8 * f.1 + f.2.1))).sum + opc), prot := prot }
theorem entry_prot (o : Nat) (fs : List (Nat × Nat × Nat)) (p q : Bool) : (cmdEntry o fs p).entry = (cmdEntry o fs q).entry := rfl
def with1 (s : State) (e : InEntry) : State := { s with rqe := { s.rqe with inbox := [e] } }

theorem takes_of (s : State) (opc : Nat) (e : InEntry)
    (h : (decide (s.rqe.inbox = [e]) && !cfgHeld s e.q && decide (entOpc e.entry = opc) && (entInvalid e.q e.entry).isNone
      && hlServes s opc) = true) : Takes s opc e := by
  simp only [Bool.and_eq_true, Bool.not_eq_true', decide_eq_true_eq] at h
  obtain ⟨⟨⟨⟨h1, h2⟩, h3⟩, h4⟩, h5⟩ := h
  unfold Takes takeEntry
  rw [h1]
  simp [readyEntries, h2, h3, h4, h5]

theorem lowest_first {free : Nat → Prop} (n : Nat) (h : free n) : Lowest free n n := ⟨le_refl n, h, fun k h1 h2 => by omega⟩

/-- A legal descriptor in software LM, one of bad format, and one outside every region. -/
theorem wit_segCreate :
    (∀ d ∈ [code, mkDesc 0x100000000 0 1, BitVec.ofNat 256 1], let e := cmdEntry 0x11 [(8, 0, d.toNat)] false
      (with1 up e).TablesOk ∧ asUp (with1 up e) = true ∧ Takes (with1 up e) 0x11 e ∧ BitVec.ofNat 256 (fieldOf e 8 0 256) = d) ∧
    descOk code = true ∧ dV code = true ∧ inRegion up 0 (dBase code) (dBase code + dLimit code) = true ∧
    Lowest (fun k => getSeg up k = none) 1 1 ∧ descOk (BitVec.ofNat 256 1) = false ∧ descOk (mkDesc 0x100000000 0 1) = true ∧
    inRegion up 0 0x100000000 0x100000000 = false := by
  refine ⟨fun d hd => ?_, by decide +kernel, by decide +kernel, by decide +kernel, lowest_first 1 rfl, by decide +kernel, by decide +kernel, by decide +kernel⟩
  simp only [List.mem_cons, List.not_mem_nil, or_false] at hd
  rcases hd with rfl | rfl | rfl <;>
    exact ⟨tables_of _ (by decide +kernel), by decide, takes_of _ _ _ (by decide +kernel), by decide +kernel⟩

/-- Segment 7 and directory 0 are function 0's. -/
def owning : State :=
  { up with objs := { up.objs with segs := [(7, some ⟨code, 0⟩)] }, dir := { up.dir with dirs := [(0, directory)] } }

theorem wit_segDestroy : let e := cmdEntry 0x12 [(4, 0, 7)] false
    (with1 owning e).TablesOk ∧ Takes (with1 owning e) 0x12 e ∧ getSeg (with1 owning e) (fieldOf e 4 0 14) = some ⟨code, 0⟩ ∧
    fnOf e.q = 0 ∧ fieldOf e 4 0 14 ≠ 0 :=
  ⟨tables_of _ (by decide +kernel), takes_of _ _ _ (by decide +kernel), by decide +kernel, by decide, by decide +kernel⟩

/-- A directory of 256 main buckets that fits, and one whose key type is reserved; a directory that is being filled. -/
theorem wit_directories :
    (let e := cmdEntry 0x13 [(4, 0, 7), (4, 4, 8), (0x1C, 0, 256), (0x20, 0, 16)] false
     (with1 up e).TablesOk ∧ islandUp (with1 up e) islDR = true ∧ Takes (with1 up e) 0x13 e ∧ dirTest (with1 up e) (dirAsk e.entry) = none ∧
     Lowest (fun k => getDir (with1 up e) k = Directory.free) 0 0) ∧
    (let e := cmdEntry 0x13 [(4, 0, 8), (4, 4, 8)] false
     Takes (with1 up e) 0x13 e ∧ dirTest (with1 up e) (dirAsk e.entry) = some 2) ∧
    (let e := cmdEntry 0x14 [] false
     (with1 owning e).TablesOk ∧ Takes (with1 owning e) 0x14 e ∧ (getDir (with1 owning e) 0).st ≠ .free ∧
     (getDir (with1 owning e) 0).func = fnOf e.q ∧ (with1 owning e).ctxs = []) ∧
    (let e := cmdEntry 0x14 [(4, 0, 1023)] false
     Takes (with1 owning e) 0x14 e ∧ (getDir (with1 owning e) (fieldOf e 4 0 10)).st = .free) ∧
    (let e := cmdEntry 0x14 [] false
     Takes (with1 probing e) 0x14 e ∧ (∃ c y, (c, y) ∈ probing.ctxs ∧ ∃ d ∈ y.dirs, d.val = 0)) :=
  ⟨⟨tables_of _ (by decide +kernel), by decide, takes_of _ _ _ (by decide +kernel), by decide +kernel, lowest_first 0 rfl⟩,
   ⟨takes_of _ _ _ (by decide +kernel), by decide +kernel⟩,
   ⟨tables_of _ (by decide +kernel), takes_of _ _ _ (by decide +kernel), by decide, by decide, rfl⟩,
   ⟨takes_of _ _ _ (by decide +kernel), by decide +kernel⟩,
   ⟨takes_of _ _ _ (by decide +kernel), 5, _, List.mem_cons_self .., 0, by decide, rfl⟩⟩

theorem wit_fillDone :
    let s := { up with dir := { up.dir with dirs := [(1023, { directory with st := .creating })] }, rqe := { up.rqe with running := [⟨0, 9, true, .fill 1023⟩] } }
    s.MemOk ∧ s.TablesOk ∧ islandUp s islDR = true ∧
    s.rqe.running.find? (fun y => decide (y.kind = .fill 1023)) = some ⟨0, 9, true, .fill 1023⟩ :=
  ⟨⟨rfl, rfl⟩, tables_of _ (by decide +kernel), by decide, by decide⟩

/-- A second pair of function 0 that can be opened, one that cannot, and one that can be deleted, is busy, and is OFF. -/
theorem wit_queueCommands :
    (let e := cmdEntry 0x18 [(4, 0, 63), (4, 12, 1), (4, 13, 1), (0x0C, 0, 1), (0x0C, 16, 1), (0x18, 0, 0x1000)] false
     (with1 up e).TablesOk ∧ Takes (with1 up e) 0x18 e ∧ queueTest (with1 up e) (fnOf e.q) (fieldOf e 4 0 6) false (queueAsk e) = none) ∧
    (let e := cmdEntry 0x18 [] false
     Takes (with1 up e) 0x18 e ∧ queueTest (with1 up e) (fnOf e.q) (fieldOf e 4 0 6) false (queueAsk e) = some 1) ∧
    (let e := cmdEntry 0x19 [(4, 0, 1)] false
     let s := with1 { up with rqe := { up.rqe with qps := [(1, pair .active 0 0)] } } e
     let b := with1 { up with rqe := { up.rqe with qps := [(1, { pair .active 0 0 with outst := 1 })] } } e
     s.TablesOk ∧ Takes s 0x19 e ∧ fieldOf e 4 0 6 ≠ 0 ∧ (getQp s 1).st ≠ .off ∧ (getQp s 1).outst = 0 ∧
     b.TablesOk ∧ Takes b 0x19 e ∧ (getQp b 1).outst ≠ 0 ∧ Takes (with1 up e) 0x19 e ∧ (getQp (with1 up e) 1).st = .off) :=
  ⟨⟨tables_of _ (by decide +kernel), takes_of _ _ _ (by decide +kernel), by decide +kernel⟩,
   ⟨takes_of _ _ _ (by decide +kernel), by decide +kernel⟩,
   tables_of _ (by decide +kernel), takes_of _ _ _ (by decide +kernel), by decide +kernel, by decide +kernel, by decide +kernel,
   tables_of _ (by decide +kernel), takes_of _ _ _ (by decide +kernel), by decide +kernel, takes_of _ _ _ (by decide +kernel), by decide +kernel⟩

/-- A key for the lowest free slot, and the erasure of the last slot; a session; a wipe. -/
theorem wit_keys :
    (∀ p : Bool, let e := cmdEntry 0x15 [(4, 12, 1), (0x20, 0, 99)] p
     (with1 up e).TablesOk ∧ Takes (with1 up e) 0x15 e ∧ KeyFits (with1 up e) (fnOf e.q) e 0) ∧
    (let e := cmdEntry 0x15 [(4, 0, 4095), (4, 13, 1)] true
     let s := with1 { up with objs := { up.objs with vault := [(4095, { VaultSlot.empty with valid := true })] } } e
     s.TablesOk ∧ Takes s 0x15 e ∧ fieldOf e 4 13 1 = 1 ∧ fieldOf e 4 12 1 = 0 ∧ fieldOf e 0x20 0 256 = 0 ∧ s.pwr.lc ≠ 3 ∧ s.pwr.lc ≠ 4 ∧
     s.objs.vaultFail = false ∧ (4095 : Fin 4096).val = fieldOf e 4 0 12 ∧ (getVault s 4095).valid = true ∧
     (getVault s 4095).func = fnOf e.q ∧ (∀ w ∈ s.objs.wipes, wipeCovers w 4095 = false)) ∧
    (let s := { up with hl := { up.hl with sessions := [⟨3, true⟩] } }
     let e := cmdEntry 0x15 [(4, 12, 1), (0x20, 0, 99)] false
     s.TablesOk ∧ linkUp s = true ∧ sessionUp s 3 = true ∧ e.entry.toNat % 256 = 0x15 ∧ entRsvd e.entry = false ∧ KeyFits s 63 e 0) ∧
    (∀ w ∈ [Wipe.scratchpads, .vault, .function 63 [4095], .slot 4095], let s := { up with objs := { up.objs with wipes := [w] } }
     s.MemOk ∧ s.TablesOk ∧ s.objs.wipes = w :: [] ∧ s.pwr.locked = false ∧ s.hl.flr = [] ∧ s.pwr.tamperPend = false ∧
     s.pwr.lcPend = none ∧ s.pwr.lcWipe = none) := by
  have hk : ∀ (s : State) (f : Fin 64) (e : InEntry), e.entry = (cmdEntry 0x15 [(4, 12, 1), (0x20, 0, 99)] false).entry → s.objs = up.objs →
      s.pwr.lc = 0 → KeyFits s f e 0 := by
    intro s f e he ho hl
    have h1 : fieldOf e 4 12 1 = 1 := by unfold fieldOf; rw [he]; decide +kernel
    have h2 : fieldOf e 4 13 1 = 0 := by unfold fieldOf; rw [he]; decide +kernel
    refine ⟨?_, by decide, h2, by rw [hl]; decide, by rw [hl]; decide, by rw [ho]; rfl, fun h => by omega, ?_⟩
    · unfold KeySlot; rw [if_pos h1]; refine lowest_first 0 ?_
      simp only [getVault, ho]; rfl
    · rw [ho]; exact fun w hw => absurd hw (List.not_mem_nil)
  refine ⟨fun p => ?_, ⟨tables_of _ (by decide +kernel), takes_of _ _ _ (by decide +kernel), ?_⟩, ⟨tables_of _ (by decide +kernel), ?_, ?_, ?_, ?_, ?_⟩, ?_⟩
  · have hf := hk (with1 up (cmdEntry 0x15 [(4, 12, 1), (0x20, 0, 99)] p)) (fnOf 0) _ (entry_prot 0x15 [(4, 12, 1), (0x20, 0, 99)] p false) rfl rfl
    cases p <;> exact ⟨tables_of _ (by decide +kernel), takes_of _ _ _ (by decide +kernel), hf⟩
  · decide +kernel
  · decide
  · decide
  · decide +kernel
  · decide +kernel
  · exact hk _ _ _ (entry_prot 0x15 [(4, 12, 1), (0x20, 0, 99)] false false) rfl rfl
  · intro w hw
    simp only [List.mem_cons, List.not_mem_nil, or_false] at hw
    rcases hw with rfl | rfl | rfl | rfl <;> exact ⟨⟨rfl, rfl⟩, tables_of _ (by decide +kernel), rfl, by decide, rfl, rfl, rfl, rfl⟩

/-- The wipe of the keys of a function that is being reset. -/
theorem wit_lastKeys : let s := { up with
      objs := { up.objs with vault := [(4095, { VaultSlot.empty with valid := true, func := 63 })], wipes := [.function 63 [4095]] }
      hl := { up.hl with flr := [(63, false)] } }
    s.TablesOk ∧ s.objs.wipes = [.function 63 [4095]] ∧ s.pwr.locked = false ∧ s.pwr.tamperPend = false ∧ s.pwr.lcPend = none ∧
    s.pwr.lcWipe = none ∧ s.hl.flr = [(63, false)] ∧ fnBusy s 63 false = false ∧ s.rqe.running = [] ∧ ∀ k, (getVault s k).valid = true → (getVault s k).func = 63 → k ∈ [4095] := by
  refine ⟨tables_of _ (by decide +kernel), rfl, rfl, rfl, rfl, rfl, rfl, by decide +kernel, rfl, fun k h _ => ?_⟩
  by_cases hk : k = 4095
  · simp [hk]
  · exact absurd h (by simp [getVault, tget, hk, VaultSlot.empty])


/-! ## Jobs -/

/-- Function 0 has program 1 and segments 7 (code) and 8 (a scratchpad); the DAU is open, with capacity in the classes 9 and 10. -/
def opened : State :=
  { owning with
    objs := { owning.objs with
      segs := [(7, some ⟨mkDesc 0x200000000 0xFFFF 0x20F, 0⟩), (8, some ⟨data, 0⟩)],
      progs := [(1, some { entry := 0, tsbp := 0x200000000, edtb := 0x200000000, desc := code, func := 0 })] }
    hl := { owning.hl with mse := 1 }
    evr := { owning.evr with log := [1, 2], buf := [3] }
    dau := { owning.dau with cfg := .init { setup := 4, band := 0, caps := Vector.replicate 11 100000 }, gopen := true, bopen := true } }

/-- A JOB_SUBMIT entry: its deadline, its class and its release delay; a guaranteed one asks for 1,000 Q-cycles. -/
def job (deadline cls reldelay : Nat) : InEntry :=
  cmdEntry 0x01 ([(4, 0, 1), (4, 16, cls), (8, 0, deadline), (0x0C, 0, reldelay)] ++
    (if cls = 0 then [(0x10 + 36, 0, 1000), (0x10 + 40, 0, 1)] else [])) false

theorem wit_admission : jobGuaranteed (job 8 0 0) = true ∧ admitJob opened (fnOf (job 8 0 0).q) (job 8 0 0).entry = none ∧
    newDemand (job 8 0 0) 9 = 4000 := by decide +kernel

/-- A job that is accepted, a guaranteed one that is refused, and best-effort ones that are ready, wait for a release slot, and wait
for a directory. -/
theorem wit_jobs :
    (∀ x ∈ [job 8 0 0, job 0x100000 0 0, job 0 1 0, job 0 1 0xFFFFF], (with1 opened x).TablesOk ∧ dauTakes (with1 opened x) x) ∧
    admitJob (with1 opened (job 8 0 0)) 0 (job 8 0 0).entry = none ∧
    admitJob (with1 opened (job 0x100000 0 0)) 0 (job 0x100000 0 0).entry = some (0x41, 0) ∧
    admitJob (with1 opened (job 0 1 0)) 0 (job 0 1 0).entry = none ∧ jobGuaranteed (job 0 1 0) = false ∧
    admitJob (with1 opened (job 0 1 0xFFFFF)) 0 (job 0 1 0xFFFFF).entry = none ∧ fieldOf (job 0 1 0xFFFFF) 0x0C 0 20 ≠ 0 ∧
    Lowest (fun k => getCtx opened k = Ctx.free) 0 0 ∧ (hdr opened .dau).en = true ∧ opened.rqe.running = [] ∧
    (let s := with1 (modHdr opened .dau (fun h => { h with en := false })) (job 8 0 0)
     dauTakes s (job 8 0 0) ∧ (hdr s .dau).en = false) := by
  refine ⟨fun x hx => ?_, by decide +kernel, by decide +kernel, by decide +kernel, by decide +kernel, by decide +kernel, by decide +kernel, lowest_first 0 rfl,
    by decide +kernel, rfl, ⟨by decide +kernel, takes_of _ _ _ (by decide +kernel)⟩, by decide +kernel⟩
  simp only [List.mem_cons, List.not_mem_nil, or_false] at hx
  rcases hx with rfl | rfl | rfl | rfl <;> exact ⟨tables_of _ (by decide +kernel), by decide +kernel, takes_of _ _ _ (by decide +kernel)⟩

/-- The cancellation of two jobs of another SQ that wait for the DAU, and such a cancellation when the last of them is decided. -/
theorem wit_cancelDue :
    (let e := cmdEntry 0x02 [(4, 0, 1), (8, 0, 7)] false
     let w : InEntry := { job 8 0 0 with q := 1, entry := (job 8 0 0).entry ||| BitVec.ofNat 1024 (7 * 2 ^ 16) }
     let s := { up with rqe := { up.rqe with inbox := [w, w, e] } }
     s.TablesOk ∧ (takeEntry s 0x02).map (·.1) = some e ∧ s.ctxs = [] ∧ 2 = s.rqe.inbox.countP (fun w => decide (w.q ≠ e.q) && decide (w.q = 1)
        && decide (fieldOf w 0 0 8 = 1) && decide (fieldOf w 0 16 16 = fieldOf e 8 0 16)) ∧ (1 : Fin 4096).val = 64 * (fnOf e.q).val + fieldOf e 4 0 6) ∧
    (∀ x ∈ [job 8 0 0, job 0x100000 0 0], let r : Running := ⟨64, 9, false, .cancelDue x.q (BitVec.ofNat 16 (fieldOf x 0 16 16)) 1⟩
     let s := with1 { opened with rqe := { opened.rqe with running := [r] } } x
     s.TablesOk ∧ dauTakes s x ∧ (hdr s .dau).en = true ∧ s.rqe.running = [r]) := by
  refine ⟨⟨tables_of _ (by decide +kernel), by decide +kernel, rfl, by decide +kernel, by decide +kernel⟩, fun x hx => ?_⟩
  simp only [List.mem_cons, List.not_mem_nil, or_false] at hx
  rcases hx with rfl | rfl <;> exact ⟨tables_of _ (by decide +kernel), ⟨by decide +kernel, takes_of _ _ _ (by decide +kernel)⟩, by decide +kernel, rfl⟩

/-- A ready job that can be cancelled, an entry that names none, and a job that can end. -/
theorem wit_jobsEnd :
    (let e := cmdEntry 0x02 [(8, 0, 7)] false
     let s := with1 { up with ctxs := [(4194303, { Ctx.free with st := .ready, cid := 7 })] } e
     s.TablesOk ∧ asUp s = true ∧ Takes s 0x02 e ∧ (4194303, { Ctx.free with st := .ready, cid := 7 }) ∈ s.ctxs ∧
     (∀ d y, (d, y) ∈ s.ctxs → d = 4194303) ∧ ({ Ctx.free with st := .ready, cid := 7 } : Ctx).queue.val = 64 * (fnOf e.q).val + fieldOf e 4 0 6 ∧
     (7 : BitVec 16).toNat = fieldOf e 8 0 16) ∧
    (let e := cmdEntry 0x02 [(8, 0, 7)] false
     Takes (with1 up e) 0x02 e ∧ (with1 up e).ctxs = [] ∧ cancelEarly (with1 up e) 0 0 7 = 0) ∧
    (let s := running1 { ctx with st := .wait, dying := true, cancel := true } bank (fun x => { x with run := none })
     s.TablesOk ∧ asUp s = true ∧ s.pwr.stopped = false ∧ s.pwr.tamperPend = false ∧ s.pwr.lcPend = none ∧ s.hl.flr = [] ∧
     canEnd s (5 : Fin 4194304).val = true ∧ (getCtx s 5).dying = true ∧ (getCtx s 5).silent = false) :=
  ⟨⟨tables_of _ (by decide +kernel), by decide, takes_of _ _ _ (by decide +kernel), List.mem_cons_self ..,
    fun d y h => by simpa using (Prod.ext_iff.mp (List.mem_singleton.mp h)).1, by decide +kernel, by decide +kernel⟩,
   ⟨takes_of _ _ _ (by decide +kernel), rfl, by decide +kernel⟩,
   tables_of _ (by decide +kernel), by decide, by decide, by decide, by decide, by decide, by decide +kernel, by decide, by decide⟩

/-! ## Moves and programs -/

theorem plain_of (s : State) (m : Master) (ga n : Nat)
    (h : (List.range n).all (fun i => match place s m (ga + i) with
      | some p => decide (p.key = ga + i) && !errorAt s p && !poisoned s p && decide (p.region ≠ .hcache) && decide (p.region ≠ .filter)
        && !fourthAnswer s ((ga + i) / 64)
      | none => false) = true) : PlainFor s m ga n := by
  intro i hi
  have h1 := List.all_eq_true.mp h i (List.mem_range.mpr hi)
  revert h1
  cases hp : place s m (ga + i) with
  | none => simp
  | some p =>
    intro h1
    simp only [Bool.and_eq_true, Bool.not_eq_true', decide_eq_true_eq] at h1
    obtain ⟨⟨⟨⟨⟨h1, h2⟩, h3⟩, h4⟩, h5⟩, h6⟩ := h1
    refine ⟨p.region, ?_, ?_, ?_, h4, h5, h6⟩
    · rw [← h1]
    · rw [← h1]; exact h2
    · rw [← h1]; exact h3

theorem noneHeld_of (s : State) (h : s.pages.any (·.held) = false) : noneHeld s := by
  intro pg
  have h1 := Vector.any_eq_false.mp h (pageIdx pg).val (pageIdx pg).isLt
  simpa [hdr] using h1

/-- A fill of the last 16 bytes of a segment, a copy, a status block, and the log. -/
theorem wit_moves :
    (let e := cmdEntry 0x04 [(4, 16, 8), (0x10, 0, 0xFFF0), (0x18, 0, 16), (0x20, 0, 5)] false
     (with1 opened e).MemOk ∧ (with1 opened e).upset = [] ∧ noneHeld (with1 opened e) ∧ 16 = fieldOf e 0x18 0 64 ∧ Takes (with1 opened e) 0x04 e ∧
     SegAllows (with1 opened e) (fnOf e.q) (fieldOf e 4 16 14) .write (fieldOf e 0x10 0 64) 16 0xF0000000FFF0 ∧
     Plain (with1 opened e) 0xF0000000FFF0 16) ∧
    (let e := cmdEntry 0x03 [(4, 0, 7), (4, 16, 8), (0x18, 0, 16)] false
     Takes (with1 opened e) 0x03 e ∧ SegAllows (with1 opened e) (fnOf e.q) (fieldOf e 4 0 14) .read (fieldOf e 8 0 64) 16 0x200000000 ∧
     SegAllows (with1 opened e) (fnOf e.q) (fieldOf e 4 16 14) .write (fieldOf e 0x10 0 64) 16 0xF00000000000 ∧
     Plain (with1 opened e) 0x200000000 16 ∧ Plain (with1 opened e) 0xF00000000000 16) ∧
    (let e := cmdEntry 0x20 [(4, 0, 8)] false
     Takes (with1 opened e) 0x20 e ∧ SegAllows (with1 opened e) (fnOf e.q) (fieldOf e 4 0 14) .write (fieldOf e 8 0 64) 256 0xF00000000000 ∧
     Plain (with1 opened e) 0xF00000000000 256) ∧
    (let e := cmdEntry 0x21 [(4, 0, 8), (0x10, 0, 1), (0x14, 0, 5)] false
     5 = fieldOf e 0x14 0 17 ∧ fieldOf e 4 16 1 = 0 ∧ Takes (with1 opened e) 0x21 e ∧
     SegAllows (with1 opened e) (fnOf e.q) (fieldOf e 4 0 14) .write (fieldOf e 8 0 64) (32 * 5) 0xF00000000000 ∧
     Plain (with1 opened e) 0xF00000000000 (32 * 5)) ∧
    (let e := cmdEntry 0x04 [(4, 16, 8), (0x10, 0, 0xFFF1), (0x18, 0, 16)] false
     Takes (with1 opened e) 0x04 e ∧ ownSeg (with1 opened e) (fnOf e.q) (fieldOf e 4 16 14) = some data ∧ hasRight data .write = true ∧ dSE data = false ∧
     dLimit data < fieldOf e 0x10 0 64 + fieldOf e 0x18 0 64 - 1) :=
  ⟨⟨⟨rfl, rfl⟩, rfl, noneHeld_of _ (by decide +kernel), by decide +kernel, takes_of _ _ _ (by decide +kernel),
     ⟨data, by decide +kernel, by decide +kernel, by decide +kernel, by decide +kernel, by decide +kernel⟩, plain_of _ _ _ _ (by decide +kernel)⟩,
   ⟨takes_of _ _ _ (by decide +kernel), ⟨code, by decide +kernel, by decide +kernel, by decide +kernel, by decide +kernel, by decide +kernel⟩,
     ⟨data, by decide +kernel, by decide +kernel, by decide +kernel, by decide +kernel, by decide +kernel⟩,
     plain_of _ _ _ _ (by decide +kernel), plain_of _ _ _ _ (by decide +kernel)⟩,
   ⟨takes_of _ _ _ (by decide +kernel), ⟨data, by decide +kernel, by decide +kernel, by decide +kernel, by decide +kernel, by decide +kernel⟩,
     plain_of _ _ _ _ (by decide +kernel)⟩,
   ⟨by decide +kernel, by decide +kernel, takes_of _ _ _ (by decide +kernel),
     ⟨data, by decide +kernel, by decide +kernel, by decide +kernel, by decide +kernel, by decide +kernel⟩, plain_of _ _ _ _ (by decide +kernel)⟩,
   takes_of _ _ _ (by decide +kernel), by decide +kernel, by decide +kernel, by decide +kernel, by decide +kernel⟩

theorem wit_programs :
    (let e := cmdEntry 0x10 [(4, 0, 7), (8, 0, 8), (0x18, 0, 16), (0x20, 0, 4), (0x28, 0, 0x200000000), (0x30, 0, 0x200000000)] false
     (with1 opened e).MemOk ∧ asUp (with1 opened e) = true ∧ Takes (with1 opened e) 0x10 e ∧ entRsvd e.entry = false ∧ fieldOf e 4 16 1 = 0 ∧
     (match loadTest (with1 opened e) (fnOf e.q) e.entry with | .ok (d, x) => decide (d = code) && decide (x = 0xF00000000000) | .error _ => false) = true ∧
     Plain (with1 opened e) (dBase code) 16 ∧ Plain (with1 opened e) 0xF00000000000 16) ∧
    (let e := cmdEntry 0x10 [(4, 16, 1), (8, 0, 1)] false
     (with1 opened e).TablesOk ∧ Takes (with1 opened e) 0x10 e ∧ entRsvd e.entry = false ∧ fieldOf e 4 16 1 = 1 ∧
     (ownProg (with1 opened e) (fnOf e.q) (fieldOf e 8 0 14)).isSome = true ∧ (with1 opened e).ctxs = []) ∧
    (∀ k ∈ [RunKind.dma ⟨none, 5, 0xF00000000000, 16, []⟩, .load 0 0 0 code ⟨some 0xF00000000000, 0, 0x200000000, 16, [0xF00000000000]⟩,
       .load 0 0 0 code ⟨some 0xF00000000000, 0, 0x200000000, 16, []⟩],
     let s := { opened with rqe := { opened.rqe with running := [⟨0, 7, false, k⟩] } }
     s.TablesOk ∧ islandUp s islHL = true ∧ noneHeld s ∧ firstMoves s ⟨0, 7, false, k⟩) ∧
    (let j : DmaJob := ⟨some 0xF00000000000, 0, 0x200000000, 16, [0xF00000000000]⟩
     let b := { opened with rqe := { opened.rqe with running := [] } }
     (j.run b).error = true ∧ ({ j with lost := [] }.run b).error = false ∧ ({ j with lost := [] }.run b).poison = false) := by
  refine ⟨⟨⟨rfl, rfl⟩, by decide, takes_of _ _ _ (by decide +kernel), by decide +kernel, by decide +kernel, by decide +kernel,
      plain_of _ _ _ _ (by decide +kernel), plain_of _ _ _ _ (by decide +kernel)⟩,
    ⟨tables_of _ (by decide +kernel), takes_of _ _ _ (by decide +kernel), by decide +kernel, by decide +kernel, by decide +kernel, rfl⟩, fun k hk => ?_,
    by decide +kernel⟩
  simp only [List.mem_cons, List.not_mem_nil, or_false] at hk
  rcases hk with rfl | rfl | rfl <;> exact ⟨tables_of _ (by decide +kernel), by decide, noneHeld_of _ (by decide +kernel), rfl⟩


/-! ## The host link -/

/-- The aperture at software LM, open to the host. -/
def barred : State :=
  { up with hl := { up.hl with mse := 1, cfg := .init { aper := 0x200000000, ranges := [] } } }

theorem wit_bar :
    (barred.MemOk ∧ linkUp barred = true ∧ noneHeld barred ∧ barred.parked = [] ∧ barred.upset = [] ∧ bar4Open barred = true ∧
      bar4Mapped barred (8 : BitVec 57).toNat (512 : Fin 513).val = true ∧ PlainFor barred .bar4 0x200000008 512 ∧
      bar4Open up = false ∧ bar4Mapped barred (0x1FFFFFFFFFFFFFF : BitVec 57).toNat 1 = false ∧ up.hl.mse.getLsbD 0 = false) ∧
    (let s := modHdr barred .hlk (fun h => { h with held := true })
     s.MemOk ∧ linkUp s = true ∧ bar4Open s = true ∧ (hdr s .hlk).held = true) ∧
    ∃ r ∈ ({ up with hl := { up.hl with flr := [(0, false)] } } : State).hl.flr, r.1 = 0 :=
  ⟨⟨⟨rfl, rfl⟩, by decide, noneHeld_of _ (by decide +kernel), rfl, rfl, by decide +kernel, by decide +kernel,
    plain_of _ _ _ _ (by decide +kernel), by decide +kernel, by decide +kernel, by decide +kernel⟩,
   ⟨⟨rfl, rfl⟩, by decide, by decide +kernel, by decide +kernel⟩, (0, false), List.mem_cons_self .., rfl⟩

/-- A move of 256 bytes from host memory to FM. -/
def copying : DmaJob := ⟨some 0x100000000000000, 0, 0x1A00000000000, 256, []⟩

/-- A move of the host DMA waits for host memory, and for FM; a stream waits. -/
theorem wit_unanswered :
    (let s := { up with
       rqe := { up.rqe with running := [⟨0, 7, false, .dma copying⟩] }
       xpts := vset up.xpts 5 { Xpt.reset with up := true, capG := 1 } }
     s.TablesOk ∧ place s .dma 0x100000000000000 = some ⟨.host, 0x100000000000000⟩ ∧ islandUp s islHL = true ∧
     (waitFails s .dma 0x100000000000000 0x0218).isSome = true ∧
     place s .dma 0x1A00000000000 = some ⟨.fm 5, 0x1A00000000000⟩ ∧ islandUp s (islXP 5) = true ∧
     (waitFails s .dma 0x1A00000000000 0x0212).isSome = true ∧
     s.rqe.running.findIdx? (fun r => match r.kind with
        | .dma j => j.names 0x100000000000000 | .load _ _ _ _ j => j.names 0x100000000000000 | _ => false) = some 0 ∧
     (s.rqe.running[0]?).map (·.kind) = some (.dma copying)) ∧
    (let s := streaming run (stream (.active 3))
     getStream s 0 0 = some (stream (.active 3)) ∧ isActive (stream (.active 3)) = true ∧ (stream (.active 3)).fault.isNone = true ∧
     Live (getCtx s 5)) :=
  ⟨⟨tables_of _ (by decide +kernel), by decide +kernel, by decide +kernel, by decide +kernel, by decide +kernel, by decide +kernel,
    by decide +kernel, rfl, rfl⟩, rfl, rfl, rfl, by decide, by decide⟩

/-- The link is up; PERST# with and without core rails; a link that trains. -/
theorem wit_link :
    (up.TablesOk ∧ up.pwr.core = true ∧ up.hl.up = true ∧ up.ctxs = [] ∧ up.pwr.perst = false ∧ up.pwr.powered = true ∧ linkUp up = true ∧
      up.rqe.inbox = [] ∧ up.rqe.compl = [] ∧ (∀ k, (getVault up k).valid = false) ∧ up.pwr.tamperPend = false ∧ up.pwr.lcPend = none ∧
      run.hl.up = true ∧ Live (getCtx run 5)) ∧
    (let s := { State.reset with pwr := { State.reset.pwr with perst := false } }
     s.TablesOk ∧ s.pwr.perst = false ∧ s.pwr.core = false ∧ s.pwr.powered = true) ∧
    (let s := { up with hl := { Hl.reset with training := true }, glb := { up.glb with fmenum := true } }
     s.TablesOk ∧ s.hl.training = true ∧ islandUp s islHL = true ∧ s.hl.up = false ∧ (∀ n : Fin 12, (s.lmcs[n.val]).trained = true) ∧
     s.glb.fmenum = true ∧ s.hl.l0 = false) :=
  ⟨⟨up_tables, by decide, by decide, rfl, by decide, by decide, by decide, rfl, rfl, fun _ => rfl, by decide, by decide, by decide, by decide,
    by decide⟩,
   ⟨tables_of _ (by decide +kernel), by decide, by decide, by decide⟩,
   tables_of _ (by decide +kernel), by decide, by decide, by decide, by decide +kernel, by decide, by decide⟩

theorem wit_functions :
    (let s := { owning with hl := { owning.hl with vfe := true, numvf := 63, ide := 0x100 } }
     s.TablesOk ∧ s.MemOk ∧ linkUp s = true ∧ fnExists s 63 = true ∧ s.hl.flr = [] ∧ s.rqe.compl = [] ∧ s.ctxs = [] ∧ s.hl.vfe = true ∧
     getSeg s 7 = some ⟨code, 0⟩ ∧ s.hl.ide.getLsbD (8 : Fin 9).val = true) ∧
    (let s := { up with objs := { up.objs with vault := [(4095, { VaultSlot.empty with valid := true })] } }
     s.TablesOk ∧ fnExists s 0 = true ∧ s.hl.flr = [] ∧ (getVault s 4095).valid = true ∧ (getVault s 4095).func = 0 ∧ s.objs.wipes = []) ∧
    (Live (getCtx run 5) ∧ (getCtx run 5).func = 0 ∧ fnExists run 0 = true ∧ run.TablesOk ∧ linkUp run = true ∧ run.rqe.compl = [] ∧
      (run.pwr.islands[islAS.val]).inrst = false) ∧
    (let s := { run with pwr := { run.pwr with islands := vset run.pwr.islands islAS (Island.reset true) } }
     s.TablesOk ∧ s.MemOk ∧ linkUp s = true ∧ fnExists s 0 = true ∧ (s.pwr.islands[islAS.val]).inrst = true) :=
  ⟨⟨tables_of _ (by decide +kernel), ⟨rfl, rfl⟩, by decide, by decide, by decide, rfl, rfl, by decide, by decide, by decide⟩,
   ⟨tables_of _ (by decide +kernel), by decide, rfl, by decide, by decide, rfl⟩,
   ⟨⟨by decide, by decide⟩, by decide, by decide, run_tables, by decide, rfl, by decide⟩,
   tables_of _ (by decide +kernel), ⟨rfl, rfl⟩, by decide, by decide, by decide⟩

/-- A session that is not finished, one that is, and a fourth and a fifth. -/
theorem wit_spdm :
    (let s := { up with hl := { up.hl with spdmVersion := true, spdmCaps := true, spdmAlgs := true, sessions := [⟨0, false⟩, ⟨1, true⟩, ⟨2, true⟩],
                                           ideKeyed := 0x100 } }
     doeUp s = true ∧ s.hl.spdmVersion = true ∧ s.hl.spdmCaps = true ∧ s.hl.spdmAlgs = true ∧ s.hl.sessions.length < 4 ∧
     s.hl.sessions.find? (fun x => decide (x.id = 0)) = some ⟨0, false⟩ ∧ sessionUp s 1 = true ∧ sessionUp s 3 = false ∧
     s.hl.ideKeyed.getLsbD (8 : Fin 9).val = true) ∧
    (let s := { up with hl := { up.hl with spdmVersion := true, spdmCaps := true, spdmAlgs := true,
                                           sessions := [⟨0, true⟩, ⟨1, true⟩, ⟨2, true⟩, ⟨3, true⟩] } }
     doeUp s = true ∧ 4 ≤ s.hl.sessions.length) ∧ (doeUp up = true ∧ up.hl.spdmVersion = false) := by decide

/-! ## Power and resets -/

/-- A supply of 50 V, with a throttle level, above and below the guarantee floor and P(V). -/
def supply (mv : BitVec 16) (level : BitVec 4) (w : BitVec 12) : State :=
  { up with pwr := { up.pwr with mv := mv, level := level, w := w, fwUp := true, cfg := .init { grace := 50, slope := 1 } } }

theorem wit_supply : (supply 38999 1 0).TablesOk ∧ (supply 38999 1 0).pwr.powered = true ∧ (supply 38999 1 0).pwr.pfw = false ∧
    ((supply 38999 1 0).pwr.senseP && (supply 38999 1 0).pwr.senseN) = true ∧ (8499 : BitVec 16).toNat < 8500 ∧ (supply 38999 1 0).pwr.cfg.active.slope ≠ 0 ∧ (60000 : BitVec 16).toNat ≤ 60000 ∧
    (supply 38999 1 0).pwr.level ≠ 0 ∧
    100000 * (supply 38999 1 0).pwr.w.toNat < 95 * availMw (supply 38999 1 0).pwr.mv.toNat ∧ (supply 38999 1 0).pwr.floor = false ∧
    (supply 38999 1 0).pwr.mv.toNat < 39000 ∧ (supply 38999 1 0).dau.cfg.active.band = 0 ∧ (supply 38999 1 0).pwr.fwUp = true ∧
    (supply 38999 1 0).pwr.fwFirst = false ∧ (supply 38999 1 0).pwr.badImages ≠ 3 ∧ (supply 38999 1 0).evr.buf = [] ∧
    (let s := { up with pwr := { up.pwr with badImages := 3 } }
     s.TablesOk ∧ s.pwr.powered = true ∧ s.pwr.badImages = 3) :=
  ⟨tables_of _ (by decide +kernel), by decide, by decide, by decide, by decide, by decide, by decide, by decide, by decide +kernel, by decide, by decide,
   by decide, by decide, by decide, by decide, rfl, tables_of _ (by decide +kernel), by decide, by decide⟩

theorem wit_resets :
    (let s := { up with pwr := { up.pwr with grace := true, pfw := true } }
     s.MemOk ∧ s.TablesOk ∧ NothingPends s ∧ s.pwr.grace = true ∧ s.pwr.powered = true ∧ s.evr.flushing = false ∧ s.pwr.pfw = true ∧
     9500 ≤ (9500 : BitVec 16).toNat ∧ 1050 ≤ (1050 : BitVec 32).toInt ∧ 1150 ≤ (1150 : BitVec 32).toInt ∧ s.pwr.badImages ≠ 3) ∧
    (let s := { up with evr := { up.evr with flushing := true, buf := [1] }, pwr := { up.pwr with pfw := true } }
     s.MemOk ∧ s.TablesOk ∧ NothingPends s ∧ s.evr.flushing = true ∧ s.pwr.pfw = true ∧ s.pwr.badImages ≠ 3) ∧
    (let s := { State.reset with pwr := { State.reset.pwr with powered := false } }
     s.MemOk ∧ s.TablesOk ∧ NothingPends s ∧ s.pwr.powered = false ∧ s.pwr.inrush = true ∧ s.evr.log.length + 3 ≤ 65536) ∧
    (NothingPends State.reset ∧ State.reset.pwr.powered = true ∧ State.reset.pwr.core = false ∧ State.reset.pwr.badImages ≠ 3 ∧ State.reset.pwr.stopped = false ∧
      State.reset.pwr.pfw = false ∧ Wipe.vault ∉ State.reset.objs.wipes ∧ State.reset.pwr.tripHold = false) :=
  ⟨⟨⟨rfl, rfl⟩, tables_of _ (by decide +kernel), ⟨rfl, rfl⟩, by decide, by decide, by decide, by decide, by decide, by decide, by decide, by decide⟩,
   ⟨⟨rfl, rfl⟩, tables_of _ (by decide +kernel), ⟨rfl, rfl⟩, by decide, by decide, by decide⟩,
   ⟨⟨rfl, rfl⟩, tables_of _ (by decide +kernel), ⟨rfl, rfl⟩, by decide, by decide, by decide⟩,
   ⟨rfl, rfl⟩, by decide, by decide, by decide, by decide, by decide, by decide, by decide⟩

/-- A request that the lifecycle permits; whether its signature is valid is not the model's to say (log entry 13): with a valid one
the clauses of a transition apply, with another that of a refusal. A request that is never permitted. -/
theorem wit_tamper :
    (up.TablesOk ∧ up.pwr.powered = true ∧ up.hl.flr = [] ∧ (3 : Fin 4).val ≠ 0 ∧ up.hl.up = true ∧ up.ctxs = [] ∧ run.ctxs ≠ [] ∧
      up.pwr.lcPend = none ∧ up.pwr.tamperPend = false ∧ up.pwr.lcWipe = none ∧ up.pwr.badImages ≠ 3 ∧ entriesDue up = false ∧
      run.TablesOk ∧ run.pwr.lcPend = none ∧ run.pwr.tamperPend = false ∧ run.pwr.lcWipe = none ∧ entriesDue run = true) ∧
    (let s := { up with objs := { up.objs with wipes := [.vault] }, pwr := { up.pwr with lc := 1, lcWipe := some 0 } }
     s.TablesOk ∧ s.pwr.powered = true ∧ s.hl.flr = [] ∧ s.pwr.locked = false ∧ s.pwr.tamperPend = false ∧ s.pwr.lcPend = none ∧
     s.objs.wipes = [.vault] ∧ s.pwr.lcWipe = some 0) ∧
    LcAllowed up { target := 1, owner := false, auth := 0, session := none } ∧
    (let v := Config.signatureValid 0 (up.pwr.lc.val + 8 * 1 + 64 * b2n false); v = true ∨ v = false) ∧
    ¬LcAllowed up { target := 3, owner := true, auth := 0, session := none } := by
  refine ⟨⟨up_tables, by decide, by decide, by decide, by decide, rfl, by decide, by decide, by decide, by decide, by decide, by decide,
    run_tables, by decide, by decide, by decide, by decide⟩, ⟨tables_of _ (by decide +kernel), by decide, by decide, by decide, by decide, by decide,
    by decide, by decide⟩, ?_, ?_, ?_⟩
  · unfold LcAllowed; decide
  · cases Config.signatureValid 0 _ <;> simp
  · unfold LcAllowed; decide

/-- A sequencer whose context is resident; one that is LOCKED; a pipe with a stream that waits and one that runs. -/
theorem wit_blocks :
    (run.TablesOk ∧ run.hl.flr = [] ∧ NothingPends run ∧ run.parked = [] ∧ islSQ 0 ≠ islMG ∧ run.pwr.core = true ∧
      run.pwr.powered = true ∧ ((run.seqs[0]).banks[0]).occ = some 5 ∧ (run.pwr.islands[(islSQ 0).val]).st ≠ .retain ∧ (getCtx run 5).st ≠ .free) ∧
    (let s := running1 ctx bank (fun x => { x with st := 2 })
     islandUp s (islSQ 0) = true ∧ (s.seqs[0]).st = 2 ∧ ((s.seqs[0]).banks[0]).occ = some 5) ∧
    (let s := streaming run (stream .ready)
     islandUp s (islPP 0) = true ∧ getStream s 0 0 = some (stream .ready) ∧ (stream .ready).phase = .ready ∧ (stream .ready).cancel = false) ∧
    (getStream (streaming run (stream (.active 3))) 0 0 = some (stream (.active 3)) ∧ ∃ k, (stream (.active 3)).phase = .active k) :=
  ⟨⟨run_tables, by decide, ⟨rfl, rfl⟩, rfl, by decide, by decide, by decide, by decide, by decide, by decide⟩,
   ⟨by decide, by decide, by decide⟩, ⟨by decide, rfl, rfl, rfl⟩, rfl, 3, rfl⟩


/-! ## Islands, presentation and the debug path -/

def slept (i : Nat) (st : IslState) (epoch : Word) : State :=
  { modHdr up (.seq 0) (fun h => { h with epoch := epoch }) with
    pwr := { up.pwr with epoch := 0, islands := vmod up.pwr.islands (Fin.ofNat 34 i) (fun x => { x with st := st, waking := true }) } }

/-- A request that is refused; one for RUN; one that may not be carried out, because a context is resident; and one that may. -/
theorem wit_islandRequest :
    (up.TablesOk ∧ up.MemOk ∧ up.pwr.powered = true ∧ up.pwr.core = true ∧ up.parked = [] ∧ islMG = islMG ∧ (up.pwr.islands[27]).inrst = false ∧
      (27 : Fin 34) ≠ islMG ∧ (up.pwr.islands[27]).st = .run ∧ ¬(1 ≤ (27 : Fin 34).val ∧ (27 : Fin 34).val < 7)) ∧
    (run.TablesOk ∧ run.MemOk ∧ mayLeave run (islSQ 0) .off = false ∧ (run.pwr.islands[(islSQ 0).val]).st = .run) ∧
    (mayLeave up (islSQ 0) .retain = true ∧ mayLeave up (islXP 5) .off = true ∧ mayLeave up islAS .retain = true ∧
      ¬(1 ≤ (islSQ 0).val ∧ (islSQ 0).val < 7 ∧ up.pwr.prsntXp.getLsbD ((islSQ 0).val - 1) = false)) :=
  ⟨⟨up_tables, ⟨rfl, rfl⟩, by decide, by decide, rfl, rfl, by decide, by decide, by decide, by decide⟩,
   ⟨run_tables, ⟨rfl, rfl⟩, by decide +kernel, by decide⟩, by decide +kernel, by decide +kernel, by decide +kernel, by decide⟩

/-- An island that wakes from each of its sleep states; from RETAIN with the stored epoch and with another. -/
theorem wit_islandWakes :
    (∀ st ∈ [IslState.clkstop, .retain, .off], ∀ n ∈ [(0 : Word), 1], let s := slept (islSQ 0).val st n
      s.TablesOk ∧ s.MemOk ∧ s.pwr.powered = true ∧ s.pwr.core = true ∧ s.parked = [] ∧ s.evc.held = [] ∧
      (s.pwr.islands[(islSQ 0).val]).inrst = false ∧
      (s.pwr.islands[(islSQ 0).val]).st = st ∧ st ≠ .run ∧ (s.pwr.islands[(islSQ 0).val]).waking = true) ∧
    (hdr (slept (islSQ 0).val .retain 0) (.seq 0)).epoch = (slept (islSQ 0).val .retain 0).pwr.epoch ∧
    (hdr (slept (islSQ 0).val .retain 1) (.seq 0)).epoch ≠ (slept (islSQ 0).val .retain 1).pwr.epoch := by
  refine ⟨fun st hs n hn => ?_, by decide +kernel, by decide +kernel⟩
  simp only [List.mem_cons, List.not_mem_nil, or_false] at hs hn
  rcases hs with rfl | rfl | rfl <;> rcases hn with rfl | rfl <;>
    exact ⟨tables_of _ (by decide +kernel), ⟨rfl, rfl⟩, by decide, by decide, rfl, rfl, by decide, by decide, by decide, by decide⟩

/-- Source 2 presents to sequencer 0, whose context 5 waits. -/
def presenting (tgt : BitVec 5) (y : Ctx) : State :=
  let on : SrcCfg := { vec := 0, en := true, cls := 31, tgt := tgt, prio := 15 }
  let st : SrcState := { pend := true, mask := false, insvc := none, input := true, sent := false }
  { running1 y bank (fun x => { x with run := if y.st = .run then some 0 else none }) with
    evc := { Evc.reset with cfg := .init [(2, on)], src := [(2, st)] } }
def waiting : Ctx := { ctx with st := .wait, waiton := 6 }

theorem wit_presentation :
    (∀ t ∈ [(0 : BitVec 5), 16, 17], let s := presenting t waiting
      s.TablesOk ∧ (hdr s .evc).en = true ∧ (hdr s .evc).held = false ∧ evcUp s = true ∧ candidate s (Fin.ofNat 18 t.toNat) = some 2) ∧
    (candidate up 15 = none ∧ (run.seqs[0]).run.isSome = true ∧ wakeCandidate up 0 = none) ∧
    ((presenting 0 waiting).seqs[0]).run = none ∧ wakeCandidate (presenting 0 waiting) 0 = some 5 := by
  refine ⟨fun t ht => ?_, by decide +kernel, by decide +kernel, by decide +kernel⟩
  simp only [List.mem_cons, List.not_mem_nil, or_false] at ht
  rcases ht with rfl | rfl | rfl <;> exact ⟨tables_of _ (by decide +kernel), by decide +kernel, by decide +kernel, by decide +kernel, by decide +kernel⟩

theorem wit_debugAccess :
    (up.MemOk ∧ up.pwr.powered = true ∧ up.pwr.badImages ≠ 3 ∧ up.pwr.lc = 0 ∧ noneHeld up ∧ up.parked = [] ∧ up.upset = [] ∧
      PlainFor up .j9 (0x200000000 : BitVec 57).toNat (512 : Fin 513).val ∧ PlainFor up .j9 (0x200000000 : BitVec 57).toNat [(1 : Byte)].length) ∧
    (let s := modHdr up (.lmc 4) (fun h => { h with held := true })
     ∃ i < (512 : Fin 513).val, ∃ k, place s .j9 ((0x200000000 : BitVec 57).toNat + i) = some k ∧ heldAt s k = true) ∧
    ({ up with pwr := { up.pwr with lc := 2 } } : State).pwr.lc = 2 :=
  ⟨⟨⟨rfl, rfl⟩, by decide, by decide, by decide, noneHeld_of _ (by decide +kernel), rfl, rfl, plain_of _ _ _ _ (by decide +kernel),
    plain_of _ _ _ _ (by decide +kernel)⟩, ⟨0, by decide, ⟨.lm, 0x200000000⟩, by decide +kernel, by decide +kernel⟩, by decide⟩

/-! ## Scheduling -/

/-- A state with the given contexts, calendar and FIFO in slot 1000. -/
def scheduled (cs : List (Nat × Ctx)) (cal fifo : List Nat) (s : State) : State :=
  { s with ctxs := cs, csc := { s.csc with cal := cal, fifo := fifo }, dau := { s.dau with slot := 1000 } }
def guaranteed (dl : BitVec 20) (st : CtxState) : Ctx := { Ctx.free with st := st, be := false, held := true, dlslot := dl }
def bestEffort (st : CtxState) : Ctx := { Ctx.free with st := st, be := true }

/-- A running job at its deadline slot beside one that waits for its release slot 1000; class 10 overruns its budget of 0. -/
theorem wit_slots :
    (let s := scheduled [(5, guaranteed 1000 .run), (4194303, { guaranteed 1001 .wait with waiton := 5, relslot := 1000, res := true })] [5] [] up
     s.TablesOk ∧ asUp s = true ∧ deadlineNow s (getCtx s 5) = true ∧ (getCtx s 5).st ≠ .wait ∧
     (getCtx s (4194303 : Fin 4194304).val).st = .wait ∧ (getCtx s 4194303).waiton = 5 ∧ (getCtx s 4194303).dying = false ∧
     s.dau.slot = (getCtx s 4194303).relslot ∧ (getCtx s 4194303).res = true) ∧
    (∃ cs, ({ up with dau := { up.dau with credits := [5] } }).dau.credits = 5 :: cs) ∧
    (let x := { guaranteed 1001 .run with meter := vset Ctx.free.meter 10 1 }
     let s := scheduled [(5, x)] [5] [] up
     s.TablesOk ∧ Live (getCtx s 5) ∧ (getCtx s 5).be = false ∧ (getCtx s 5).ovr = false ∧
     ((getCtx s 5).budget[(10 : Fin 11).val]).toNat < budgetUse (getCtx s 5) 10 ∧
     (∀ j : Fin 11, j.val < (10 : Fin 11).val → budgetUse (getCtx s 5) j ≤ ((getCtx s 5).budget[j.val]).toNat)) :=
  ⟨⟨tables_of _ (by decide +kernel), by decide, by decide, by decide, by decide, by decide, by decide, by decide, by decide⟩, ⟨[], rfl⟩,
   tables_of _ (by decide +kernel), by decide, by decide, by decide, by decide, by decide⟩

/-- Every sequencer idle. -/
def idle : State := { up with seqs := Vector.replicate 16 { Seq.reset with st := 0 } }

/-- Sequencer 0 with the eight contexts from 10 resident. -/
def full : State :=
  { up with seqs := vset idle.seqs 0 { Seq.reset with st := 0, banks := Vector.ofFn (fun b : Fin 8 => { Bank.empty with occ := some (10 + b.val) }) } }

/-- A free bank takes a best-effort context; with its affinity's banks full, a guaranteed context evicts one of later deadline. -/
theorem wit_placed :
    (let s := scheduled [(5, guaranteed 1001 .ready), (6, guaranteed 1002 .ready), (7, bestEffort .ready), (8, bestEffort .ready)] [6, 5] [7, 8] up
     (s.csc.cal ++ s.csc.fifo).Nodup ∧ distance s (getCtx s 5).dlslot < distance s (getCtx s 6).dlslot) ∧
    (let s := scheduled [(5, bestEffort .ready)] [] [5] idle
     s.TablesOk ∧ cscRuns s = true ∧ (schedOrder s).find? (placeable s) = some 5 ∧ placement s 5 = some (0, 0, none)) ∧
    (let s := scheduled ((5, { guaranteed 1001 .ready with aff := 1, affseq := 0 }) ::
        (List.range 8).map (fun b => (10 + b, { guaranteed (BitVec.ofNat 20 (1010 + b)) .ready with res := true, bank := Fin.ofNat 8 b }))) [5] [] full
     s.TablesOk ∧ cscRuns s = true ∧ (schedOrder s).find? (placeable s) = some 5 ∧ placement s 5 = some (0, 7, some 17)) :=
  ⟨⟨by decide, by decide⟩, ⟨tables_of _ (by decide +kernel), by decide +kernel, by decide +kernel, by decide +kernel⟩,
   tables_of _ (by decide +kernel), by decide +kernel, by decide +kernel, by decide +kernel⟩

/-- A transfer of context 5 into bank 7 of sequencer 0, from which it evicts context 17. -/
def moving (y : Ctx) : State :=
  { full with
    seqs := vmod full.seqs 0 (fun x => { x with xfer := some ⟨7, 5, some 17, true⟩ })
    ctxs := [(5, y), (17, { guaranteed 1010 .ready with res := true, bank := 7 })]
    objs := { full.objs with progs := [(3, some { func := 0, entry := 0x100, tsbp := 0, edtb := 0, desc := code })] } }

theorem wit_transfers :
    (∀ started : Bool, let s := moving { guaranteed 1001 .ready with started := started, prog := 3 }
      s.TablesOk ∧ (s.seqs[0]).xfer = some ⟨7, 5, some 17, true⟩ ∧ some 17 ≠ some 5 ∧ noneHeld s ∧ (getCtx s 5).started = started ∧
      (getProg s (getCtx s 5).prog.toNat).isSome) := by
  intro st
  cases st <;> exact ⟨tables_of _ (by decide +kernel), by decide, by decide, noneHeld_of _ (by decide +kernel), by decide, by decide⟩

/-- Sequencer 0 with context 5 resident in bank 0, or running there, and context 6 resident in bank 1. -/
def sharing (x y : Ctx) (run : Option (Fin 8)) (esc : Bool) : State :=
  scheduled [(5, x), (6, y)] ((if x.be then [] else [5]) ++ (if y.be then [] else [6])) ((if x.be then [5] else []) ++ (if y.be then [6] else []))
    { up with seqs := vset up.seqs 0 { Seq.reset with st := 1, run := run, banks := vset (vset Seq.reset.banks 0
        { bank with lo := { bank.lo with stat := { bank.lo.stat with esc := esc } } }) 1 { bank with occ := some 6 } } }
def in1 (x : Ctx) : Ctx := { x with res := true, bank := 1 }
def in0 (x : Ctx) : Ctx := { x with res := true, bank := 0 }

theorem wit_switch :
    (let s := sharing (in0 (bestEffort .wait)) (in1 (guaranteed 1001 .ready)) none false
     s.TablesOk ∧ cscRuns s = true ∧ seqUsable s 0 = true ∧ s.pwr.stopped = false ∧ (residentReady s 0).head? = some 6 ∧ running s 0 = none) ∧
    (let s := sharing (in0 (bestEffort .run)) (in1 (guaranteed 1001 .ready)) (some 0) false
     s.TablesOk ∧ cscRuns s = true ∧ seqUsable s 0 = true ∧ s.pwr.stopped = false ∧ (residentReady s 0).head? = some 6 ∧
     running s 0 = some (0, 5) ∧ 5 ≠ 6 ∧ (getCtx s 5).dying = false ∧ (bankOf s 0 0).lo.stat.esc = false ∧ switchBusy (s.seqs[0]) 0 = false ∧
     schedRank s 6 ≤ schedRank s 5 ∧
     switchBusy ((modSeq s 0 (fun x => { x with md := some ⟨0, 1, 1, false, 1, 0, false, 0⟩ })).seqs[0]) 0 = true) ∧
    (let s := sharing (in0 { bestEffort .run with dying := true }) (in1 (guaranteed 1001 .ready)) (some 0) false
     running s 0 = some (0, 5) ∧ (getCtx s 5).dying = true ∧ switchBusy (s.seqs[0]) 0 = false) ∧
    (let s := sharing (in0 (bestEffort .run)) (in1 (guaranteed 1001 .ready)) (some 0) true
     (residentReady s 0).head? = some 6 ∧ running s 0 = some (0, 5) ∧ (bankOf s 0 0).lo.stat.esc = true) ∧
    (let s := sharing (in0 (bestEffort .run)) (in1 (bestEffort .ready)) (some 0) false
     s.TablesOk ∧ running s 0 = some (0, 5) ∧ cscRuns s = true ∧ (getCtx s 5).be = true ∧ 6 ∈ s.csc.fifo ∧ 6 ≠ 5 ∧ (getCtx s 6).st = .ready ∧
     AdmitsNow s (getCtx s 6) 0 ∧ schedRank s 5 < schedRank s 6) :=
  ⟨⟨tables_of _ (by decide +kernel), by decide +kernel, by decide +kernel, by decide, by decide +kernel, by decide +kernel⟩,
   ⟨tables_of _ (by decide +kernel), by decide +kernel, by decide +kernel, by decide, by decide +kernel, by decide +kernel, by decide,
    by decide, by decide +kernel, by decide, by decide +kernel, by decide +kernel⟩,
   ⟨by decide +kernel, by decide, by decide⟩,
   ⟨by decide +kernel, by decide +kernel, by decide +kernel⟩,
   tables_of _ (by decide +kernel), by decide +kernel, by decide +kernel, by decide, by decide, by decide, by decide, .inl (by decide), by decide⟩


/-! ## Interrupts, limits and escalation -/

/-- Context 5 in sequencer 0, with source 2 of class 31 pending for it. -/
def interrupted (y : Ctx) (k : Bank) : State := { running1 y k id with evc := (presenting 0 waiting).evc }

theorem boundary_of (s : State) (q : Fin 16) (b : Fin 8) (c : Nat)
    (h : (seqRuns s q && decide (running s q = some (b, c)) && !(getCtx s c).dying && decide ((s.seqs[q.val]).loads = [])
      && decide ((s.seqs[q.val]).md = none) && decide ((s.seqs[q.val]).fq = []) && !s.pages.any (·.held)) = true) : AtBoundary s q b c := by
  simp only [Bool.and_eq_true, Bool.not_eq_true', decide_eq_true_eq] at h
  obtain ⟨⟨⟨⟨⟨⟨h1, h2⟩, h3⟩, h4⟩, h5⟩, h6⟩, h7⟩ := h
  exact ⟨h1, h2, h3, h4, h5, h6, noneHeld_of s h7⟩

theorem wit_items :
    (∀ y ∈ [{ ctx with fppend := true }, { ctx with defer := true, fdepth := 3 }, { ctx with bopend := true }],
      let s := interrupted y trapBank
      s.TablesOk ∧ AtBoundary s 0 0 5 ∧ (itemsMay (getCtx s 5) (bankOf s 0 0)) ∧ getCtx s 5 = y) := by
  intro y h
  simp only [List.mem_cons, List.not_mem_nil, or_false] at h
  rcases h with rfl | rfl | rfl <;>
    exact ⟨tables_of _ (by decide +kernel), boundary_of _ _ _ _ (by decide +kernel),
      ⟨by decide +kernel, by decide +kernel, by decide +kernel, by decide +kernel⟩, by decide +kernel⟩

/-- FCSR has the flag IV and the trap enable of IV. -/
def trapping : Bank := { trapBank with lo := { trapBank.lo with fcsr := 0x402 } }

/-- An FP trap is pending beside Budget Overrun, and beside a presentable source. -/
theorem wit_fpFirst :
    ∀ y ∈ [{ ctx with bopend := true }, ctx], let s := interrupted y trapping
      s.TablesOk ∧ AtBoundary s 0 0 5 ∧ itemsMay (getCtx s 5) (bankOf s 0 0) ∧ (getCtx s 5).fppend = false ∧ (getCtx s 5).defer = false ∧
      fpCond (bankOf s 0 0).lo.fcsr = true ∧ (getCtx s 5).fpRaised = false ∧ evcUp s = true ∧ (candidate s 0).isSome = true ∧
      ¬Masked (getCtx s 5) (bankOf s 0 0) ∧ getCtx s 5 = y := by
  intro y h
  simp only [List.mem_cons, List.not_mem_nil, or_false] at h
  rcases h with rfl | rfl <;>
    exact ⟨tables_of _ (by decide +kernel), boundary_of _ _ _ _ (by decide +kernel),
      ⟨by decide +kernel, by decide +kernel, by decide +kernel, by decide +kernel⟩, by decide +kernel, by decide +kernel, by decide +kernel,
      by decide +kernel, by decide +kernel, by decide +kernel, by unfold Masked; decide +kernel, by decide +kernel⟩

/-- STAT with GM and ESC as given. -/
def gmBank (gm esc : Bool) (pl : BitVec 2) : Bank :=
  { trapBank with lo := { trapBank.lo with stat := { trapBank.lo.stat with gm := gm, esc := esc, pl := pl } } }

theorem wit_interrupts :
    (∀ gm ∈ [false, true], let s := interrupted ctx (gmBank gm false 1)
      s.TablesOk ∧ AtBoundary s 0 0 5 ∧ (getCtx s 5).fppend = false ∧ (getCtx s 5).defer = false ∧ (getCtx s 5).bopend = false ∧
      fpCond (bankOf s 0 0).lo.fcsr = false ∧ evcUp s = true ∧ candidate s 0 = some 2 ∧ (bankOf s 0 0).lo.stat.gm = gm) ∧
    ¬Masked (getCtx (interrupted ctx (gmBank false false 1)) 5) (bankOf (interrupted ctx (gmBank false false 1)) 0 0) ∧
    candidate (running1 ctx trapBank id) 0 = none := by
  refine ⟨fun gm h => ?_, ?_, by decide +kernel⟩
  · simp only [List.mem_cons, List.not_mem_nil, or_false] at h
    rcases h with rfl | rfl <;>
      exact ⟨tables_of _ (by decide +kernel), boundary_of _ _ _ _ (by decide +kernel), by decide, by decide, by decide, by decide, by decide,
        by decide +kernel, by decide⟩
  · unfold Masked; decide +kernel

theorem wit_watchdog : (run.seqs[0]).wdogEn = true ∧ (run.seqs[0]).st = 1 ∧ (run.seqs[0]).loads = [] ∧ (run.seqs[0]).held = .nothing ∧
    islandUp run (islSQ 0) = true := by decide

/-- The limit reached in escalation, with GM at PL0, with 4 frames, and with GM at PL1. -/
theorem wit_maskOverrun :
    ∀ x ∈ [(true, true, (0 : BitVec 2), (0 : BitVec 3)), (false, true, 0, 3), (false, false, 1, 4), (false, true, 1, 3)],
      let s := running1 { ctx with fdepth := x.2.2.2, maskq := 0xFFFFFFFF } (gmBank x.2.1 x.1 x.2.2.1) id
      s.TablesOk ∧ AtBoundary s 0 0 5 ∧ Masked (getCtx s 5) (bankOf s 0 0) ∧ (s.seqs[0]).masklim.active.toNat * 2000 ≤ (getCtx s 5).maskq.toNat ∧ (bankOf s 0 0).lo.stat.esc = x.1 ∧ (bankOf s 0 0).lo.stat.gm = x.2.1 ∧
      (bankOf s 0 0).lo.stat.pl = x.2.2.1 ∧ (bankOf s 0 0).lo.stat.wt = false ∧ (getCtx s 5).fdepth = x.2.2.2 ∧ (getCtx s 5).fppend = false ∧
      (getCtx s 5).defer = false ∧ (getCtx s 5).bopend = false ∧ fpCond (bankOf s 0 0).lo.fcsr = false := by
  intro x h
  simp only [List.mem_cons, List.not_mem_nil, or_false] at h
  rcases h with rfl | rfl | rfl | rfl <;>
    exact ⟨tables_of _ (by decide +kernel), boundary_of _ _ _ _ (by decide +kernel), by unfold Masked; decide +kernel, by decide, by decide,
      by decide, by decide, by decide, by decide, by decide, by decide, by decide, by decide⟩

/-- Entry 255 of the EDT names a handler at 0x100 whose code descriptor admits PL0 alone. -/
def escCode : Desc256 := mkDesc 0x200000000 0xFFFF 0x9
def escState : State :=
  let s := running1 ctx trapBank id
  let e := 0x100 + 2 ^ 48 + 2 ^ 51 + 2 ^ 64 * 0xF00000003000
  wrBytes (wrBytes s (0xF00000001000 + 8160) (bytesOf e 32)) 0xF00000003000 (bytesOf escCode.toNat 32)

theorem wit_escalate :
    (escState.TablesOk ∧ (bankOf escState 0 0).lo.stat.esc = false) ∧
    (readPriv (running1 ctx { trapBank with edtb := 0 } id) 0 8160 32 = none) ∧
    (readPriv escState 0 ((bankOf escState 0 0).edtb.toNat + 8160) 32 = some (0x100 + 2 ^ 48 + 2 ^ 51 + 2 ^ 64 * 0xF00000003000)) ∧
    (readPriv escState 0 ((0x100 + 2 ^ 48 + 2 ^ 51 + 2 ^ 64 * 0xF00000003000) / 2 ^ 64 % 2 ^ 57) 32 = some escCode.toNat) ∧
    (0x100 + 2 ^ 48 + 2 ^ 51 + 2 ^ 64 * 0xF00000003000 : Nat).testBit 51 = true ∧ descOk escCode = true ∧ dV escCode = true ∧ dX escCode = true ∧
    dPlmax escCode = 0 ∧ BitVec.ofNat 256 escCode.toNat = escCode ∧
    (∃ a, gaWrite escState (.seq 0 true) (onDieBase + 0x100000 * (0 : Fin 16).val + 0xFF000)
      (frameBytes (bankOf escState 0 0) (Exc.plain 0x0B 0 0 0 none) 0xFF 2 0x0B) = (a, none)) :=
  ⟨⟨tables_of _ (by decide +kernel), by decide +kernel⟩, by decide +kernel, by decide +kernel, by decide +kernel, by decide +kernel,
   by decide +kernel, by decide +kernel, by decide +kernel, by decide +kernel, by decide +kernel, pair_of _ (by decide +kernel)⟩

/-! ## Streams -/

/-- A descriptor of u64 elements behind s2, 8 bytes apart. -/
def sd (base count : Nat) : BitVec 512 := BitVec.ofNat 512 (base + 2 ^ 64 * 8 + 2 ^ 128 * count + 2 ^ 192 * (7 + 16 * 2 + 256))

/-- A stream that adds A and B, of three elements, on pipe 0; its block. -/
def adding (ph : StrmPhase) : Stream := { stream ph with
  segs := bank.lo.segs.set 2 (mkDesc 0xF00000000000 0xFFFF 0x237), out := sd 0x8000 3, a := sd 0x9000 3, b := sd 0xA000 3, n := 3,
  chain := BitVec.ofNat 512 (2 ^ 63 + 2 ^ 50 + 2 ^ 46 * 7 + 2 ^ 41 + 2 ^ 36 * 2) }
def blockBytes (t : Stream) : List Byte := [t.out, t.a, t.b, t.chain].flatMap (fun x => bytesOf x.toNat 64)
def withBlock (s : State) (t : Stream) : State :=
  (blockBytes t).zipIdx.foldl (fun s x => if x.1 = 0 then s else wrByte s (t.blk + x.2) x.1) (streaming s t)

def waits (be : Bool) : State :=
  { run with pipes := vset run.pipes 0 { Pipe.reset with waiting := [⟨5, be, 0⟩] } }

theorem wit_streamGrant : ∀ be : Bool, let s := waits be
    s.TablesOk ∧ pipeRuns s 0 = true ∧ firstWait s (s.pipes[0]).waiting = some ⟨5, be, 0⟩ ∧ freeEntry s 0 be = some (if be then 0 else 48) := by
  intro be
  cases be <;> exact ⟨tables_of _ (by decide +kernel), by decide +kernel, by decide +kernel, by decide +kernel⟩

/-- STRM of a block whose stream starts with element 2, and of one whose doubleword 35 is poisoned. -/
theorem wit_strmBlock :
    (let r := gaRead (streaming run (stream .held)) (.pipe 0) 0xF00000000000 1024
     readClean r = true ∧ wordOf r.bytes 32 = 0) ∧
    (let s := streaming (wrByte run 0xF00000000100 2) (stream .held)
     let r := gaRead s (.pipe 0) 0xF00000000000 1024
     AtBundle s 0 0 5 4 ∧ heldEntry s (pipeOf 0) 5 = some 0 ∧ readClean r = true ∧ wordOf r.bytes 32 = 2) ∧
    (let s := { streaming run (stream .held) with poison := [0xF00000000000 + 8 * 35] }
     AtBundle s 0 0 5 4 ∧ heldEntry s (pipeOf 0) 5 = some 0 ∧ readClean (gaRead s (.pipe (pipeOf 0)) (0xF00000000000 + 8 * 35) 8) = false) := by
  refine ⟨?_, ⟨at_of _ _ _ _ _ (by decide +kernel), ?_⟩, at_of _ _ _ _ _ (by decide +kernel), ?_⟩ <;> decide +kernel

/-- An issued stream that passes its check, one whose chain has no last step, and one whose block could not be read. -/
theorem wit_streamStart :
    (let u := adding .issued
     let s := streaming run u
     s.TablesOk ∧ pipeRuns s 0 = true ∧ getStream s 0 0 = some u ∧ u.phase = .issued ∧ u.bad = none ∧
     issueFail s u u.start u.cur.wcount = none) ∧
    (let u := { adding .issued with chain := 0x0004000000000000 }
     let s := streaming run u
     getStream s 0 0 = some u ∧ u.bad = none ∧ (issueFail s u u.start u.cur.wcount).isSome = true) ∧
    (let u := { adding .issued with bad := some 0xF00000004118 }
     getStream (streaming run u) 0 0 = some u ∧ u.phase = .issued) := by
  refine ⟨⟨tables_of _ (by decide +kernel), by decide +kernel⟩, ?_, ?_⟩ <;> decide +kernel

/-- A ready stream with a free partition; with none, before the last active one and after it. -/
def crowded (dl : BitVec 20) : State :=
  { run with
    dau := { run.dau with slot := 0 }
    pipes := vset run.pipes 0 { Pipe.reset with table := (List.range 4).foldl (fun (t : Vector (Option Stream) 64) k =>
      vset t (Fin.ofNat 64 (k + 1)) (some { adding (.active (Fin.ofNat 4 k)) with dl := 10, order := k })) (vset Pipe.reset.table 0
        (some { adding .ready with dl := dl, order := 9 })) } }

theorem wit_streamActivate :
    (let s := streaming run (adding .ready)
     s.TablesOk ∧ pipeRuns s 0 = true ∧ (readyList s 0).head? = some (0, adding .ready) ∧ freePart s 0 = some 0) ∧
    ((crowded 9).TablesOk ∧ pipeRuns (crowded 9) 0 = true ∧ (readyList (crowded 9) 0).head? = some (0, { adding .ready with dl := 9, order := 9 }) ∧
     freePart (crowded 9) 0 = none ∧ (strmList (crowded 9) 0 isActive).getLast? = some (4, { adding (.active 3) with dl := 10, order := 3 }) ∧
     strmBefore (crowded 9) (false, 9, 9) (false, 10, 3) = true ∧ atBoundary { adding (.active 3) with dl := 10, order := 3 } = true) ∧
    strmBefore (crowded 10) (false, 10, 9) (false, 10, 3) = false :=
  ⟨⟨tables_of _ (by decide +kernel), by decide +kernel, by decide +kernel, by decide +kernel⟩,
   ⟨tables_of _ (by decide +kernel), by decide +kernel, by decide +kernel, by decide +kernel, by decide +kernel, by decide +kernel, by decide +kernel⟩,
   by decide +kernel⟩

/-- The chain's step. -/
def addStep : ChainStep :=
  { word := 2 ^ 63 + 2 ^ 50 + 2 ^ 46 * 7 + 2 ^ 41 + 2 ^ 36 * 2, last := true, wmask := false, unit := 0, op := 1, ty := 7, s1 := 1, s2 := 2, s3 := 0,
    imm := 0 }

theorem wit_elements :
    (let t := adding (.active 0)
     let s := streaming run t
     chainOf t = [addStep] ∧ t.lines = [] ∧ t.lost = [] ∧ PlainOperand t.a.toNat 7 ∧ PlainOperand t.b.toNat 7 ∧ PlainOperand t.out.toNat 7 ∧
     readClean (gaRead s (.pipe 0) (elementGa t t.a.toNat 2) 8) = true ∧ readClean (gaRead s (.pipe 0) (elementGa t t.b.toNat 2) 8) = true ∧
     firstUnmapped s (.pipe 0) (elementGa t t.out.toNat 2) 8 = none ∧ elementGa t t.out.toNat 2 = 0xF00000008010 ∧
     (aluElement 1 (tyW 7) (decide (7 < 4)) 0 0).isSome = true ∧ Apart t t.a.toNat 2 ∧ Apart t t.b.toNat 2) ∧
    Apart { adding (.active 0) with a := sd 0x8000 3 } (sd 0x8000 3).toNat 2 := by
  refine ⟨⟨by decide +kernel, rfl, rfl, ?_, ?_, ?_, by decide +kernel, by decide +kernel, by decide +kernel, by decide +kernel, by decide +kernel,
    .inr ?_, .inr ?_⟩, .inl (by decide +kernel)⟩
  any_goals (unfold PlainOperand; decide +kernel)
  all_goals
    intro j h0 h1
    have h1 : j < 3 := h1
    interval_cases j <;> decide +kernel

/-- R47: an input one element behind the output overlaps it in its elements from the second on; one that coincides does not count. -/
theorem test_overlap :
    let s := streaming run (adding (.active 0))
    let behind : Stream := { adding (.active 0) with a := sd 0x7FF8 3 }
    let same : Stream := { adding (.active 0) with a := sd 0x8000 3 }
    [0, 8, 16].map (fun o => inMixed s 0 behind 0 (8 * (0xF00000007FF8 + o))) = [false, true, true] ∧
    [0, 8, 16].map (fun o => outMixed s 0 behind (8 * (0xF00000008000 + o))) = [true, true, false] ∧
    inMixed s 0 same 0 (8 * 0xF00000008000) = false ∧ outMixed s 0 same (8 * 0xF00000008000) = false := by decide +kernel

/-- A wave that may start; a strip that was worked through, with and without a fault; and one that a write ends. -/
theorem wit_strips :
    (let s := streaming run (adding (.active 0))
     s.TablesOk ∧ pipeRuns s 0 = true ∧ pipeWorks s 0 = true ∧ (waveList s 0).head? = some (0, adding (.active 0)) ∧
     0 < chainE s (adding (.active 0))) ∧
    (let u := { adding (.active 0) with next := 3, els := [⟨0, 0, 0, 0, some ⟨0xF00000008000, [1], none, true⟩⟩] }
     let s := streaming run u
     noneHeld s ∧ getStream s 0 0 = some u ∧ stripDone u = true ∧ stripCut u = u.n ∧ let l := settledEls s 0 u (stripCut u)
     ∃ a, putEls (stripSlots (drawn s) 0 u l) 0 u l = (a, none)) ∧
    (let u := { adding (.active 0) with next := 3, els := [⟨0, 0, 0, 0, some ⟨0x100000000, [1], none, true⟩⟩] }
     let s := streaming run u
     getStream s 0 0 = some u ∧ stripDone u = true ∧ let l := settledEls s 0 u (stripCut u)
     ∃ a g, putEls (stripSlots (drawn s) 0 u l) 0 u l = (a, some g)) := by
  refine ⟨⟨tables_of _ (by decide +kernel), by decide +kernel, by decide +kernel, by decide +kernel, by decide +kernel⟩,
    ⟨noneHeld_of _ (by decide +kernel), by decide +kernel, by decide +kernel, by decide +kernel, pair_of _ (by decide +kernel)⟩,
    by decide +kernel, by decide +kernel, ?_⟩
  generalize hu : ({ adding (.active 0) with next := 3, els := [⟨0, 0, 0, 0, some ⟨0x100000000, [1], none, true⟩⟩] } : Stream) = u
  rcases h : putEls (stripSlots (drawn (streaming run u)) 0 u (settledEls (streaming run u) 0 u (stripCut u))) 0 u
    (settledEls (streaming run u) 0 u (stripCut u)) with ⟨a, g⟩
  have h2 : g.isSome = true := by
    have h3 := congrArg (fun x : State × Option StrmFault => x.2.isSome) h
    simp only at h3
    rw [← h3, ← hu]; decide +kernel
  cases g with
  | none => simp at h2
  | some g => exact ⟨a, g, h⟩


/-- A stream whose one step is DPROBE on directory 0, of which element 0 waits with key 9. -/
def probes (ph : StrmPhase) : Stream := { adding ph with
  chain := BitVec.ofNat 512 (2 ^ 63 + 2 ^ 58 * 5 + 2 ^ 50 * 0x10 + 2 ^ 46 * 7 + 2 ^ 41), depth := 2, dirs := [0], next := 1,
  recs := [{ i := 0, a := 9, b := 0, aOn := true, bOn := false, om := true, skip := false, vals := [], taken := 1, ga := some 0xF00000008000,
             late := none, dir := some (9, 0), before := (0, 0) }] }
def probeState (served : Bool) : State :=
  let s := streaming run (probes (.active 0))
  { s with
    dir := { s.dir with dirs := [(0, directory)] }
    pwr := { s.pwr with islands := if served then s.pwr.islands else vmod s.pwr.islands islDR (fun x => { x with inrst := true }) } }

theorem wit_dirRetire : ∀ served : Bool, let s := probeState served
    let u := probes (.active 0)
    s.TablesOk ∧ noneHeld s ∧ dirServed s = served ∧ u.drLost = false ∧ u.lost = [] ∧
    ((strmList s 0 isActive).filter (fun y => !(unserved y.2).isEmpty && keysWhole y.2)).head? = some (0, u) ∧
    ∃ x, (chainOf u).find? isDirStep = some x ∧ x.op = 0x10 ∧
      (dirGroup s (immHandle x.imm) x.op (immVar x.imm) u.depth u.rm.toNat (decide (srcType u (chainOf u) (dirAt (chainOf u)) x.s2 = some 3))
        ((dirTurn u x).map (fun r => (⟨r.i, (r.dir.getD (0, 0)).1, (r.dir.getD (0, 0)).2⟩ : DirEl)))).bad = none ∧
      dirTurn u x ≠ [] ∧ dirCut s 0 u x [] (dirTurn u x) = (dirTurn u x, none) := by
  intro served
  cases served <;>
    exact ⟨tables_of _ (by decide +kernel), noneHeld_of _ (by decide +kernel), by decide +kernel, rfl, rfl, by decide +kernel,
      { word := 2 ^ 63 + 2 ^ 58 * 5 + 2 ^ 50 * 0x10 + 2 ^ 46 * 7 + 2 ^ 41, last := true, wmask := false, unit := 5, op := 0x10, ty := 7, s1 := 1,
        s2 := 0, s3 := 0, imm := 0 }, by decide +kernel, by decide, by decide +kernel, by decide +kernel, by decide +kernel⟩

/-- The probe's element has met a fault elsewhere. -/
theorem wit_dirCut :
    let u := { probes (.active 0) with recs := (probes (.active 0)).recs.map (fun r => { r with late := some (strmFault 0 5 3 0 0 0) }) }
    let s := { probeState true with pipes := (streaming run u).pipes }
    s.TablesOk ∧ noneHeld s ∧ ((strmList s 0 isActive).filter (fun y => !(unserved y.2).isEmpty && keysWhole y.2)).head? = some (0, u) ∧
    ∃ x, (chainOf u).find? isDirStep = some x ∧ (dirCut s 0 u x [] (dirTurn u x)).1 = [] ∧
      (dirCut s 0 u x [] (dirTurn u x)).2.isSome = true :=
  ⟨tables_of _ (by decide +kernel), noneHeld_of _ (by decide +kernel), by decide +kernel,
    { word := 2 ^ 63 + 2 ^ 58 * 5 + 2 ^ 50 * 0x10 + 2 ^ 46 * 7 + 2 ^ 41, last := true, wmask := false, unit := 5, op := 0x10, ty := 7, s1 := 1,
      s2 := 0, s3 := 0, imm := 0 }, by decide +kernel, by decide +kernel, by decide +kernel⟩

/-- A stream that ended with a fault and two fix-ups, and one that was cancelled at a strip boundary. -/
def ending (ph : StrmPhase) (f : Option StrmFault) : Stream :=
  let u := adding ph
  { u with cancel := true, fault := f, saved := { u.saved with fixn := 64, fix := [5, 6] } }

theorem wit_streamEnd :
    ∀ u ∈ [ending .ended (some (strmFault 3 5 3 0x8000 1 2)), ending .ready none], let s := streaming run u
      s.TablesOk ∧ s.MemOk ∧ islandUp s (islPP 0) = true ∧ getStream s 0 0 = some u ∧ endDue u = true ∧ noneHeld s ∧ u.lost = [] ∧
      PlainFor s (.pipe 0) (u.blk + 0x100) 576 ∧ u.saved.fix.length ≤ u.saved.fixn ∧ u.saved.fixn ≤ 64 ∧
      (∀ f, u.fault = some f → f.code = 0x0D → f.faddr = 0) ∧ (getCtx s u.ctx).st ≠ .free := by
  intro u h
  simp only [List.mem_cons, List.not_mem_nil, or_false] at h
  rcases h with rfl | rfl
  · exact ⟨tables_of _ (by decide +kernel), ⟨rfl, rfl⟩, by decide, rfl, by decide, noneHeld_of _ (by decide +kernel), rfl,
      plain_of _ _ _ _ (by decide +kernel), by decide, by decide, (fun f hf hc => by cases hf; revert hc; decide), by decide⟩
  · exact ⟨tables_of _ (by decide +kernel), ⟨rfl, rfl⟩, by decide, rfl, by decide, noneHeld_of _ (by decide +kernel), rfl,
      plain_of _ _ _ _ (by decide +kernel), by decide, by decide, nofun, by decide⟩

/-- A pipe whose lanes of the list have failed, with its spares as given. -/
def lanes (failed : Word) (sp0 sp1 : Spare) : State :=
  let s := streaming run (adding (.active 0))
  { s with pipes := vmod s.pipes 0 (fun x => { x with laneFail := failed, sp0 := sp0, sp1 := sp1 }) }
def serving : Spare := { lane := 0, used := true, fail := false }

theorem wit_lanes :
    (let s := lanes 1 serving Spare.reset
     s.TablesOk ∧ s.MemOk ∧ islandUp s (islPP 0) = true ∧ (s.pipes[0]).laneFail.getLsbD 0 = true ∧ (s.pipes[0]).laneFail.getLsbD 63 = false ∧
     (s.pipes[0]).sp0.used = true ∧ (s.pipes[0]).sp1.used = false ∧ (s.pipes[0]).sp1.fail = false) ∧
    (((lanes 0 Spare.reset Spare.reset).pipes[0]).sp0.used = false ∧ ((lanes 0 Spare.reset Spare.reset).pipes[0]).sp0.fail = false) ∧
    (let s := lanes 3 serving serving
     (s.pipes[0]).laneFail.getLsbD 63 = false ∧ (s.pipes[0]).sp0.used = true ∧ (s.pipes[0]).sp1.used = true ∧
     getStream s 0 0 = some (adding (.active 0)) ∧ isActive (adding (.active 0)) = true ∧
     ∀ q : Fin 16, ∀ l ∈ (s.seqs[q.val]).loads, l.failed = none) ∧
    (64 ≤ (65 : Fin 66).val ∧ ((lanes 0 Spare.reset Spare.reset).pipes[0]).sp1.used = false) :=
  ⟨⟨tables_of _ (by decide +kernel), ⟨rfl, rfl⟩, by decide, by decide, by decide, by decide, by decide, by decide⟩, ⟨by decide, by decide⟩,
   ⟨by decide, by decide, by decide, rfl, by decide, by decide⟩, by decide, by decide⟩

/-! ## Memories -/

/-- Controller 11 with a request of each class, scrub on at the last sector of its group, and rows to spare. -/
def stacked (repairs : Nat) (spare : BitVec 16) (rt : Option Retire) : State :=
  { up with lmcs := vset up.lmcs 11 { Lmc.reset with
      trained := true
      waiting := [⟨0, true, false⟩, ⟨256, false, false⟩]
      scrub := .init { en := true, period := 1000 }
      scrubSec := 7
      repairs := repairs
      spareFree := spare
      retire := rt } }

theorem wit_localMemory :
    (let s := stacked 0 1 none
     (s.lmcs[11]).waiting[1]? = some ⟨256, false, false⟩ ∧ lmcRuns s 11 = true ∧ (s.lmcs[11]).scrub.active.en = true ∧ (s.lmcs[11]).retire = none ∧
     32767 < 32768 ∧ (s.lmcs[11]).spareFree ≠ 0 ∧ islandUp s (islLM 11) = true) ∧
    (((stacked Config.repairRows 1 none).lmcs[11]).repairs ≥ Config.repairRows) ∧
    (∃ n, 0 < Config.repairRows → ((stacked n 1 none).lmcs[11]).repairs < Config.repairRows) ∧
    ((stacked 0 1 (some ⟨0, 0, 0, true⟩)).lmcs[11]).retire = some ⟨0, 0, 0, true⟩ ∧
    (let s := { up with lmcs := Vector.replicate 12 Lmc.reset }
     s.pwr.core = true ∧ s.lmcs.all (·.trained) = false ∧ (∀ k : Fin 12, islandUp s (islLM k) = true)) := by
  refine ⟨⟨by decide +kernel, by decide +kernel, by decide +kernel, by decide +kernel, by decide +kernel, by decide +kernel, by decide +kernel⟩, ?_, ⟨0, ?_⟩, by decide +kernel, by decide +kernel, by decide +kernel, by decide +kernel⟩
  · show Config.repairRows ≤ Config.repairRows
    exact Nat.le_refl _
  · intro h; exact h

/-- Controller 11 with a corrected sector to write back, and as many maintenance slots of its pseudo-channel in use; and a read that its
sector answers. -/
def mending (used : Nat) : State :=
  { up with lmcs := vset up.lmcs 11 { Lmc.reset with
      trained := true, correct := [2816], maint := tset 0 [] (lmPc 2816) used, scrub := .init { en := true, period := 1000 }, scrubSec := 8 } }

theorem wit_maintenance :
    (∀ n ∈ [79, 80], let s := mending n
      lmcRuns s 11 = true ∧ (s.lmcs[11]).correct = 2816 :: [] ∧ tget 0 (s.lmcs[11]).maint (lmPc 2816) = n ∧
      ¬(s.lmcs[11]).scrubSec.toNat < 8 ∧ (s.lmcs[11]).scrub.active.en = true) ∧
    up.TablesOk ∧ up.upset = [] ∧ (lmPlace 0x200000000).1 = 4 ∧ place up .mgmt 0x200000000 = some ⟨.lm, 0x200000000⟩ ∧ ReadsClean up ⟨.lm, 0x200000000⟩ ∧
    (pickReq (fun _ => 1) [] [⟨0, false, false⟩, ⟨256, false, true⟩]).map (·.ga) = some 256 := by
  refine ⟨fun n h => ?_, up_tables, rfl, by decide +kernel, by decide +kernel, by unfold ReadsClean; decide +kernel, by decide +kernel⟩
  simp only [List.mem_cons, List.not_mem_nil, or_false] at h
  rcases h with rfl | rfl <;> decide +kernel

/-- Port 5 with a link of 32 GT/s and 16 lanes, whose qualification has reached a step. -/
def ported (cur : BitVec 4) (q : Bool) (perst : BitVec 6) : State :=
  { up with
    xpts := vset up.xpts 5 { Xpt.reset with up := true, speed := 3, width := 16, qstart := q, cur := cur }
    map := { up.map with portEn := 0x20 }
    pwr := { up.pwr with perstXp := perst } }

/-- An enumeration of a port with a link of 4 lanes and no switch. -/
def enumerated (sp : Fin 4) (fl : Bool) (n : Fin 17) : Enumeration :=
  { trained := true, speed := sp, width := 4, flit := fl, count := n, switch := false, capGiB := 32768, rejected := none }

theorem wit_farMemory :
    (let s := ported 1 true 0x20
     islandUp s (islXP 5) = true ∧ (s.xpts[5]).up = true ∧ (0 : Fin 4).val < (s.xpts[5]).speed.toNat ∧ (s.xpts[5]).speed.toNat ≤ (3 : Fin 4).val ∧
     (15 : Fin 17).val < (s.xpts[5]).width.toNat ∧ (s.xpts[5]).width.toNat ≤ (16 : Fin 17).val ∧ s.map.portEn.getLsbD 5 = true ∧
     (s.xpts[5]).qstart = true ∧ 1200 < (1201 : BitVec 16).toNat ∧ (1200 : BitVec 16).toNat ≤ 1200 ∧ (s.xpts[5]).cur ≠ 15 ∧
     s.pwr.perstXp.getLsbD 5 = true ∧ s.MemOk ∧ (hdr s (.xpt 5)).held = false ∧ PortIdle s 5) ∧
    (let s := { up with pwr := { State.reset.pwr with perstXp := 0x20 } }
     islandUp s (islXP 5) = false ∧ s.pwr.perstXp.getLsbD 5 = true) ∧
    (((ported 15 true 0).xpts[5]).flit = 0 ∧ usable (enumerated 2 false 1) = true ∧ linkMode (enumerated 3 false 1) = false ∧
      usable (enumerated 3 true 2) = false) ∧
    (∃ s : State, s = modXpt (ported 15 true 0) 5 (fun x => { x with flit := 1, capG := 1 }) ∧ (s.xpts[5]).flit ≠ 0 ∧ 64 % 64 = 0 ∧
      64 + 64 ≤ fmCap s 5 ∧ fmBase 5 ≤ fmBase 5 + 64) ∧
    (((ported 15 true 0).xpts[5]).cur = 15 ∧ ((ported 0 false 0).xpts[5]).qstart = false) ∧
    (∃ b, { up with pwr := { up.pwr with prsntXp := b } }.pwr.prsntXp.getLsbD 5 = true) ∧
    (∃ b, { up with pwr := { up.pwr with prsntXp := b } }.pwr.prsntXp.getLsbD 5 = false) :=
  ⟨⟨by decide, by decide, by decide, by decide, by decide, by decide, by decide, by decide, by decide, by decide, by decide, by decide,
    ⟨rfl, rfl⟩, by decide +kernel, by unfold PortIdle; decide⟩, ⟨by decide, by decide⟩,
   ⟨by decide, by decide, by decide, by decide⟩, ⟨_, rfl, by decide, by decide, by decide +kernel, by decide⟩, ⟨by decide, by decide⟩, ⟨0x20, by decide⟩, ⟨0, by decide⟩⟩

/-- One cycle of bank 1 of scratchpad 15: a write of 8 bytes at the end of a line; accesses of port B that meet it, or do not. -/
theorem wit_bankCycle :
    up.MemOk ∧ up.TablesOk ∧ up.upset = [] ∧ islandUp up (islSQ 15) = true ∧
    InBank 1 (0x78 : Fin 1048576).val 8 ∧ PlainFor up (ownMaster up 15) (padGa 15 0x78) 8 ∧
    InBank 1 (0x40 : Fin 1048576).val (64 : Fin 65).val ∧ PlainFor up .mgmt (padGa 15 0x40) 64 ∧
    InBank 1 (0x7C : Fin 1048576).val 4 ∧ (∃ w, 0x78 / 4 ≤ w ∧ w ≤ (0x78 + 8 - 1) / 4 ∧ 0x7C / 4 ≤ w ∧ w ≤ (0x7C + 4 - 1) / 4) ∧
    (∀ e ∈ up.lms.resend, e.1 = 15 → e.2.1 ≠ 0x7C) ∧
    (let s := { up with lms := { up.lms with resend := [(15, 0x7C, [1, 2, 3, 4], 3)] } }
     s.lms.resend.find? (fun e => decide (e.1 = 15) && decide (e.2.1 = 0x7C) && decide (e.2.2.1 = [1, 2, 3, 4])) = some (15, 0x7C, [1, 2, 3, 4], 3)) :=
  ⟨⟨rfl, rfl⟩, up_tables, rfl, by decide, ⟨by decide, by decide, by decide⟩, plain_of _ _ _ _ (by decide +kernel), ⟨by decide, by decide, by decide⟩,
   plain_of _ _ _ _ (by decide +kernel), ⟨by decide, by decide, by decide⟩, ⟨31, by decide, by decide, by decide, by decide⟩, nofun, by decide⟩

/-- The vault, whose scrub stands at its last word. -/
def scrubbing (poison : List Nat) : State :=
  { up with poison := poison, lms := { up.lms with scrub := .init { en := true, period := 1 }, mems := [(26, { MemErr.reset with scrubPos := 65535 })] } }

theorem wit_scrub :
    (scrubbing []).MemOk ∧ (scrubbing []).TablesOk ∧ islandUp (scrubbing []) (memIsland 26) = true ∧ (scrubbing []).lms.scrub.active.en = true ∧
    (hdr (scrubbing []) .lms).en = true ∧ (hdr (scrubbing []) .lms).held = false ∧
    memBase 26 + 4 * (getMem (scrubbing []) 26).scrubPos ∉ (scrubbing []).poison ∧
    memBase 26 + 4 * (getMem (scrubbing []) 26).scrubPos ∈ (scrubbing [vaultKey 0 + 4 * 65535]).poison :=
  ⟨⟨rfl, rfl⟩, tables_of _ (by decide +kernel), by decide, by decide, by decide +kernel, by decide +kernel, by decide +kernel, by decide +kernel⟩

/-- A word of the vault that its read finds in error; a poisoned word that port B reads. -/
theorem wit_found : place up .mgmt 0xF00000000000 = some ⟨.scratch 0, 0xF00000000000⟩ ∧ memIndex (.scratch 0) = some (0 : Fin 27).val ∧
    islandUp up (memIsland (0 : Fin 27).val) = true ∧ ReadsClean up ⟨.scratch 0, 0xF00000000000⟩ := by
  refine ⟨by decide +kernel, by decide +kernel, by decide +kernel, by unfold ReadsClean; decide +kernel⟩

/-! ## The fabric -/

/-- A transaction from island 19, port 0: its operation, QoS, tag, address, length and data. -/
def crossing (op qos tag ga len : Nat) (bs : List Byte) (w4 : Reg32) (double : Bool) (rest : BitVec 352) : Crossing :=
  { w0 := BitVec.ofNat 32 (qos + 16 * op + 256 * 19 + 2 ^ 20 * tag), w1 := BitVec.ofNat 32 ga, w2 := BitVec.ofNat 32 (ga / 2 ^ 32),
    w3 := BitVec.ofNat 32 (len - 1), w4 := w4, rest := rest, data := bs,
    xvc := if qos = 15 then 3 else if 2 < op then 2 else if 12 ≤ qos then 0 else 1, singles := 2, double := double, own := none }

/-- Sixty-four requests of one master wait at a port; the master's next one is turned away. -/
theorem wit_outstanding : let x := crossing 1 4 7 0xF00000000000 8 (bytesOf 5 8) 0xFFFFFFFF false 0
    let s := { up with fab := { up.fab with held := tset [] [] (islSQ 0).val (List.replicate 64 ⟨x, 4, 0⟩) } }
    s.TablesOk ∧ s.MemOk ∧ ¬outstandingAt s (islSQ 0) x < 64 ∧ tget 0 s.fab.credits (creditKey (srcIsl x) (islSQ 0) 255 x.xvc) < creditsOf x.xvc := by
  refine ⟨tables_of _ (by decide +kernel), ⟨rfl, rfl⟩, ?_, ?_⟩ <;> decide +kernel

/-- A double error in the answer to the host DMA's move. -/
theorem wit_owner : let s := { up with rqe := { up.rqe with running := [⟨0, 7, false, .dma ⟨none, 5, 0x200000000, 16, []⟩⟩] } }
    ∀ x : Crossing, x = { crossing 3 4 7 0 8 [] 0 true 0 with own := some (.dma, 0x200000000) } →
      x.double = true ∧ (waitFails s .dma (0x200000000 : BitVec 57).toNat 0x0302).isSome = true := by
  intro s x h
  subst h
  exact ⟨rfl, by decide +kernel⟩

theorem wit_crossings :
    let x := crossing 1 4 7 0xF00000000000 8 (bytesOf 5 8) 0xFFFFFFFF false 0
    let k := creditKey (srcIsl x) (islSQ 0) 255 x.xvc
    up.TablesOk ∧ up.MemOk ∧ tget 0 up.fab.credits k < creditsOf x.xvc ∧ islandUp up (islSQ 0) = true ∧ islandUp State.reset (islSQ 0) = false ∧
    creditsOf x.xvc ≤ tget 0 { up with fab := { up.fab with credits := [(k, 8)] } }.fab.credits k ∧
    xSendable up x = true ∧ xSendable up { x with xvc := 0 } = false ∧ xSendable State.reset x = true ∧
    xSendable up (crossing 1 4 7 0 8 [] 0 false 1) = true ∧ xSendable up (crossing 1 4 7 0 8 [] 0 true 0) = true ∧
    x.double = false ∧ xReserved x = false ∧ xOp x ≤ 2 ∧ outstandingAt up (islSQ 0) x < 64 ∧ xReserved (crossing 1 4 7 0 8 [] 0 false 1) = true ∧
    (crossing 1 4 7 0 8 [] 0 true 0).double = true := by
  refine ⟨up_tables, ⟨rfl, rfl⟩, ?_, ?_, ?_, ?_, ?_, ?_, ?_, ?_, ?_, ?_, ?_, ?_, ?_, ?_, ?_⟩ <;> decide +kernel

/-- A port of sequencer 0's island where a read of QoS 14, a write and a FENCE of QoS 4 wait. -/
def reqs : List FabReq :=
  [⟨crossing 1 4 1 0xF00000000000 8 (bytesOf 5 8) 0xFFFFFFFF false 0, 4, 0⟩, ⟨crossing 2 4 2 0 1 [] 0 false 0, 4, 0⟩,
   ⟨crossing 0 14 3 0xF00000000000 8 [] 0 false 0, 14, 0⟩]
def porting (l : List FabReq) (unacked : List FabReq) : State :=
  { up with fab := { up.fab with ports := tset [] [] (portKey (islSQ 0) 63) l, unacked := tset [] [] (islSQ 0).val unacked } }

theorem plainRequest_of (s : State) (isl : Fin 34) (r : FabReq)
    (h : (decide (xOp r.t ≤ 2) && (decide (xOp r.t = 2) || (xServed s isl (xMemMaster r.t) r.t &&
      (List.range (xLen r.t)).all (fun i => match place s (xMemMaster r.t) (xGa r.t + i) with
        | some p => decide (p.key = xGa r.t + i) && !errorAt s p && !poisoned s p && decide (p.region ≠ .hcache) && decide (p.region ≠ .filter)
            && !fourthAnswer s ((xGa r.t + i) / 64)
        | none => false)))
      && (decide (xOp r.t ≠ 1) || (decide (r.t.data.length = xLen r.t) && (List.range 32).all r.t.w4.getLsbD))) = true) : PlainRequest s isl r := by
  simp only [Bool.and_eq_true, Bool.or_eq_true, decide_eq_true_eq] at h
  obtain ⟨⟨h1, h2⟩, h3⟩ := h
  refine ⟨h1, fun hn => ?_, fun hw => ?_⟩
  · rcases h2 with h2 | h2
    · exact absurd h2 hn
    · exact ⟨h2.1, plain_of _ _ _ _ h2.2⟩
  · rcases h3 with h3 | h3
    · exact absurd hw h3
    · exact ⟨h3.1, fun i hi => List.all_eq_true.mp h3.2 i (List.mem_range.mpr hi)⟩

theorem wit_ports :
    (let s := porting reqs []
     s.TablesOk ∧ s.MemOk ∧ portOf s (islSQ 0) (63 : Fin 64).val = reqs ∧ islandUp s (islSQ 0) = true ∧ s.upset = [] ∧ noneHeld s ∧
     grantable s (islSQ 0) reqs = reqs ∧
     (∀ r ∈ reqs, PlainRequest s (islSQ 0) r) ∧ arbitrate (tget 0 s.fab.last (portKey (islSQ 0) 63)) (grantable s (islSQ 0) reqs) = reqs[2]? ∧
     (∀ q ∈ reqs, q.qos ≠ 15) ∧ tget 0 s.fab.blocked (portKey (islSQ 0) 63) = 0 ∧
     (grantable s (islSQ 0) reqs).find? (fun q => decide (q.qos.toNat < 12)) = reqs[0]?) ∧
    (∃ q ∈ [({ (reqs.getD 0 ⟨crossing 0 0 0 0 1 [] 0 false 0, 0, 0⟩) with qos := 15 } : FabReq)], q.qos = 15) := by
  refine ⟨⟨tables_of _ (by decide +kernel), ⟨rfl, rfl⟩, by decide +kernel, by decide +kernel, rfl, noneHeld_of _ (by decide +kernel),
    by decide +kernel, ?_, by decide +kernel, by decide +kernel, by decide +kernel, by decide +kernel⟩, ?_⟩
  · intro r hr
    simp only [reqs, List.mem_cons, List.not_mem_nil, or_false] at hr
    rcases hr with rfl | rfl | rfl <;> exact plainRequest_of _ _ _ (by decide +kernel)
  · exact ⟨_, List.mem_cons_self .., rfl⟩

/-- A write alone; a FENCE behind a write of its master; a response that waits for a credit. -/
theorem wit_acknowledged : let r : FabReq := ⟨crossing 1 4 0xFFF 0xF00000000000 8 (bytesOf 5 8) 0xFFFFFFFF false 0, 4, 0⟩
    let s := porting [] [r]
    let f : FabReq := ⟨crossing 2 4 0xFFE 0 1 [] 0 false 0, 4, 0⟩
    let y : FabRsp := ⟨islSQ 0, r.t, 0, false, []⟩
    let w := { up with fab := { up.fab with rsps := [y], credits := tset 0 [] (rspCredit y) 16 } }
    (w.TablesOk ∧ w.MemOk ∧ w.fab.rsps = [y] ∧ w.fab.rsps ≠ [] ∧ up.fab.rsps = []) ∧
    ((tget [] (porting [] [r, f]).fab.unacked (islSQ 0).val).find? (fun q => decide (xTag q.t = 0xFFE)) = some f ∧ xOp f.t = 2 ∧
      (∃ z ∈ [r, f].takeWhile (fun z => z != f), xMaster z.t = xMaster f.t)) ∧
    s.TablesOk ∧ s.MemOk ∧ (tget [] s.fab.unacked (islSQ 0).val).find? (fun q => decide (xTag q.t = 0xFFF)) = some r ∧ xOp r.t = 1 ∧
    tget [] s.fab.held (islSQ 0).val = [] :=
  ⟨⟨tables_of _ (by decide +kernel), ⟨rfl, rfl⟩, rfl, by decide, rfl⟩,
   ⟨by decide +kernel, by decide +kernel, ⟨_, List.mem_cons_self .., by decide +kernel⟩⟩,
   tables_of _ (by decide +kernel), ⟨rfl, rfl⟩, by decide +kernel, by decide +kernel, by decide +kernel⟩


/-! ## Well-formedness: an ill-formed command for each check -/

theorem wf_record : Instr.wf (.evrTokenRefill 0x0100) = false ∧ Instr.wf (.evrTokenRefill 0x0101) = true := by decide
theorem wf_lanes : Instr.wf (.hostLinkReady 1 3 true) = false ∧ Instr.wf (.hostLinkReady 6 16 false) = false ∧ Instr.wf (.hostLinkReady 1 16 true) = true := by decide
theorem wf_portLanes : Instr.wf (.fmLinkDown 0 (.width 2)) = false ∧ Instr.wf (.fmLinkDown 0 (.speed 0)) = false ∧
    Instr.wf (.fmLinkDown 0 .down) = true := by decide
theorem wf_span : Instr.wf (.bar4Access (.read 0xFFF 2)) = false ∧ Instr.wf (.j9DebugAccess (.write 0 [])) = false ∧
    Instr.wf (.bar4Access (.read 0xFFF 1)) = true := by decide
theorem wf_target : Instr.wf (.registerWrite .fw (.bar0 2) 0) = false ∧ Instr.wf (.registerWrite .fw .sriov 0) = true ∧
    Instr.wf (.loRegisterRead .fw (.bar0 6)) = false ∧
    Instr.wf (.loRegisterRead .fw (.bar0Pair 4)) = false ∧ Instr.wf (.loRegisterRead (.host 0) (.bar2 0xFFF 2)) = false := by decide
theorem wf_enumeration :
    Instr.wf (.perstXpEnd 0 { trained := true, speed := 0, width := 16, flit := true, count := 1, switch := false, capGiB := 1, rejected := none })
      = false := by decide
theorem wf_crossing : Instr.wf (.crossingTransactionReceive 0 0
    { w0 := 0, w1 := 0, w2 := 0, w3 := 0, w4 := 0, rest := 0, data := List.replicate 1025 0, xvc := 0, singles := 0, double := false, own := none }) = false := by
  decide +kernel
theorem wf_bank : Instr.wf (.scratchpadBankCycle 0 1 (some (.write 0x7C [0, 0, 0, 0, 0])) none) = false ∧
    Instr.wf (.scratchpadBankCycle 0 1 none (some (.read 0x40 64 []))) = true := by decide
theorem wf_words : Instr.wf (.illegalInstruction 0 []) = false ∧ Instr.wf (.illegalInstruction 0 [0]) = true ∧
    Instr.wf (.lmRowRetireStart 0 0 0 32768) = false := by decide

/-! ## The manual's worked examples -/

/-- 02, "decoding one LM address". -/
theorem test_lmPlace : lmPlace 0x1234567800 = (6, 25, 23, 4142) := by decide +kernel

/-- 02, "an address in a 3-way set": port 1, and its direct window is unmapped. -/
def ways3 : State :=
  let v : Ilv := { baseG := 0, sizeG := 1002, members := 0x159, gran := 4, ways := 2, en := true, pbaseG := 2048 }
  { up with map := { sets := .init (Vector.replicate 4 { v with en := false } |>.set 0 v), portEn := 0x3F },
            xpts := Vector.replicate 6 { Xpt.reset with up := true, capG := 4096 } }
theorem test_interleave : place ways3 .mgmt 0x0002000000123000 = some ⟨.fm 1, 0x0001220000061000⟩ ∧
    place ways3 .mgmt 0x0001220000061000 = none := by decide +kernel

/-- 04, "ZH64 of the u8 value 0", and the two PERMB control words. -/
theorem test_zh64 : zh64 0 1 0 = 0x9D4BC38EF54BC38E := by decide +kernel
theorem test_permb : permb 0x1122334455667788 0x8080808000010203 = 0x88776655 ∧ permb 0x8000 0x4141414141410100 = 0xFFFFFFFFFFFF8000 := by
  decide +kernel

/-- 08, "encoding two bundles": both are good; with F before I0 the first syllable out of order is syllable 2. -/
theorem test_bundles :
    bundleFault (envOf run 0 0 5) [0x08022064, 0x20C8A602, 0xB083FFFD] = none ∧
    bundleFault (envOf run 0 0 5) [0x0A860008, 0x61234567, 0x4618464A, 0xE5000005] = none ∧
    (bundleFault (envOf run 0 0 5) [0x4618464A, 0x65000005, 0x0A860008, 0xE1234567]).map (fun f => (f.1.code, f.1.sub, f.1.idx)) =
      some (1, 2, 2) := by decide +kernel

/-- 05, the chain word of DINS, and the build of the join directory: the keys 0, 5, 0, 9 get 0, 1, 0, 3; key 0 lies in slot 0 of
bucket 398. -/
theorem test_chainWord : chainStep 0x9445C23000000000 =
    { word := 0x9445C23000000000, last := true, wmask := false, unit := 5, op := 0x11, ty := 7, s1 := 1, s2 := 3, s3 := 0, imm := 0 } := by decide

def join : State := { up with dir := { up.dir with dirs := [(0, { Directory.free with
  st := .ready, ktype := 4, mainLog2 := 8, mainBase := 256, ovfBase := 512, ovfCount := 256, filtLog2 := 10, cache := true, fvalid := true,
  miss := 0xFFFFFFFFFFFFFFFF })] } }
theorem test_build : let w := dirGroup join 0 0x11 0 0 0 true [⟨0, 0, 0⟩, ⟨1, 5, 1⟩, ⟨2, 0, 2⟩, ⟨3, 9, 3⟩]
    w.res.map (·.2) = [0, 1, 0, 3] ∧ (getDir w.st 0).entries = 3 ∧
    natOf ((List.range 16).map (fun i => rdByte w.st (0x100006380 + i))) = 0x8EF54BC3019D4BC3 := by decide +kernel

/-- 07, "subnormal products in TRAP mode": a product of 2 ^ -515 twice is tiny and +0 with UF and PE; a subnormal reads as zero. -/
theorem test_subnormal :
    (let r := fpMul fmt64 0 (0x1FC0000000000000 : Nat) 0x1FC0000000000000; r.val = 0 ∧ r.tiny = true ∧ r.fl = 6) := by decide +kernel

/-- 15, the bank of the store that collides, and 03, the CTRL word of an enabled input of binary64 in s5. -/
theorem test_bank : 0x20100 / 64 % 16 = 4 ∧ (padGa 5 0x20100 = 0xF00000520100) := by decide
theorem test_ctrl : sdEn (2 ^ 192 * 0x15A) = true ∧ sdType (2 ^ 192 * 0x15A) = 10 ∧ sdSeg (2 ^ 192 * 0x15A) = 5 := by decide +kernel

/-- 16, "a burst against the rate limit": a token every 125,000 µs; 17, P(34 V) is 850 W. -/
theorem test_tokens : tokenInterval up = 125000 := by decide +kernel
theorem test_supply : availMw 34000 = 850000 := by decide +kernel

/-- 18, "a refused interleave commit". -/
theorem test_commit :
    pageCheck { ways3 with map := { ways3.map with sets := { ways3.map.sets with
      stage := ways3.map.sets.active.set 0 { (ways3.map.sets.active[0]) with sizeG := 1000 } } } } .map = some ⟨3, 0x84, 0⟩ := by decide +kernel


/-! ## One step of a command -/

def nextOf (o : Host.Outcome State Fault Refusal) : State := match o with | .next s => s | _ => State.reset

/-- g1 and g2 as given. -/
def withRegs (a b : Word) : State :=
  running1 ctx { bank with lo := { bank.lo with g := (bank.lo.g.set 1 a).set 2 b } } id
def resultOf (i : Instr) (r : Fin 32) (a b : Word) : Word := rdInt (bankOf (nextOf (exec i (withRegs a b))) 0 0).lo r

/-- The sum wraps, and the source is the destination. -/
theorem test_add : resultOf (.add i1 1 1 2) 1 0xFFFFFFFFFFFFFFFF 2 = 1 := by decide +kernel
/-- A right shift brings in the sign; by 64 or more it leaves 64 copies of it (R239). -/
theorem test_sra : resultOf (.sra i1 3 1 2) 3 0x8000000000000000 1 = 0xC000000000000000 ∧
    resultOf (.sra i1 3 1 2) 3 0x8000000000000000 65 = 0xFFFFFFFFFFFFFFFF := by decide +kernel
theorem test_cmplt : resultOf (.cmplt i1 3 1 2) 3 0x8000000000000000 1 = 1 ∧ resultOf (.cmpltu i1 3 1 2) 3 0x8000000000000000 1 = 0 := by
  decide +kernel
theorem test_clz : resultOf (.clz i1 3 1) 3 0 0 = 64 := by decide +kernel
theorem test_addi : resultOf (.addi i0 3 1 (.short 0x800)) 3 0 0 = 0xFFFFFFFFFFFFF800 := by decide +kernel
theorem test_bfxs : resultOf (.bfxs i0 3 1 4 7) 3 0xF80 0 = 0xFFFFFFFFFFFFFFF8 := by decide +kernel

/-- The worked example of 10 and R197: a divide by zero gives all ones and sets FCSR.IDZ. -/
theorem test_div : let s := nextOf (exec (.muldivComplete 0) (nextOf (exec (.divu i0 3 1 2) (withRegs 7 0))))
    rdInt (bankOf s 0 0).lo 3 = 0xFFFFFFFFFFFFFFFF ∧ (bankOf s 0 0).lo.fcsr.getLsbD 15 = true := by decide +kernel

/-- A byte is stored, and read with its sign. -/
theorem test_bytes : let s := nextOf (exec (.stb pl0 1 ⟨2, 0, .short 3⟩) (withRegs 0x1F0 0))
    rdByte s 0xF00000000003 = 0xF0 ∧ rdByte s 0xF00000000004 = 0 ∧
    rdInt (bankOf (nextOf (exec (.ldbs pl0 3 ⟨2, 0, .short 3⟩) s)) 0 0).lo 3 = 0xFFFFFFFFFFFFFFF0 := by decide +kernel

/-- A branch not taken goes to the next bundle. -/
theorem test_beqz : (bankOf (nextOf (exec (.beqz pl0 1 (.short 8)) (withRegs 0 0))) 0 0).pc = 32 ∧
    (bankOf (nextOf (exec (.beqz pl0 1 (.short 8)) (withRegs 1 0))) 0 0).pc = 4 := by decide +kernel

/-- 09, "a call that overflows", once SPILLW has made room: g3 and g4 are saved, and the callee is in window 7. -/
def caller : State := running1 ctx { bank with lo := { bank.lo with
  stat := { bank.lo.stat with wres := 6, cwp := 6 }, g := ((bank.lo.g.set 15 0x4000).set 3 0x11).set 4 0x22 } } id
theorem test_call : let s := nextOf (exec (.call pl0 0x18 16) caller)
    let k := bankOf s 0 0
    k.lo.stat.cwp = 7 ∧ k.lo.stat.wres = 7 ∧ k.lo.g[15] = 0x3FF0 ∧ (k.lo.wins[7]).rmask = 0x18 ∧
    rdByte s 0xF00000003FF0 = 0x11 ∧ rdByte s 0xF00000003FF8 = 0x22 := by decide +kernel

/-- An add of two vectors of u8: elements past VL keep the destination's bytes. -/
theorem test_vadd :
    let u := { bank.up with v := (bank.up.v.set 1 0x0201FF).set 2 0x030302 }
    let s := running1 ctx { bank with up := u, lo := { bank.lo with vl := 2 } } id
    let t := nextOf (exec (.fSlotOpComplete 0) (nextOf (exec (.vadd pl0 (args 4)) s)))
    (bankOf t 0 0).up.v[3] = 0x0401 := by decide +kernel

/-- Keys 5 and 6 are entered in directory 0, and their payloads come back. -/
theorem test_dins :
    let k := { bank with lo := { bank.lo with vl := 2 }, up := { bank.up with v := (bank.up.v.set 1 (5 + 2 ^ 64 * 6)).set 2 (7 + 2 ^ 64 * 8) } }
    let s := { running1 { ctx with dirSlots := ctx.dirSlots.set 0 (some 0), depth := 2 } k id with dir := { up.dir with dirs := [(0, directory)] } }
    let t := nextOf (exec (.fSlotOpComplete 0) (nextOf (exec (.dins pl0 { args 7 with ext := some { km := 0, mz := false, bs := false, sc := false, mbz := 0, aux := 0 } }) s)))
    (bankOf t 0 0).up.v[3] = 7 + 2 ^ 64 * 8 ∧ (getDir t 0).entries = 2 := by decide +kernel

/-- The oldest command goes first. -/
theorem test_step : (nextOf (step { up with pending := [.xrstN 0, .xrstN 1] })).pending = [.xrstN 1] := by decide +kernel

end Sys2Proof.Tests
end

section
/-! The LM interleave of R31 as a bijection: the fields of an address by division and remainder, the address of given fields, and
that the two maps invert each other. -/

namespace Sys2Proof.Machine

/-! ## Rotations modulo the number of places -/

/-- The number that a rotation by `f` modulo `n` takes to `v`. -/
def unrotate (n v f : Nat) : Nat := (v + (n - f % n)) % n

theorem unrotate_lt {n : Nat} (hn : 0 < n) (v f : Nat) : unrotate n v f < n := Nat.mod_lt _ hn

/-- A rotation and its way back add up to whole turns. -/
theorem complement_add_eq_turns {n : Nat} (hn : 0 < n) (f : Nat) : n - f % n + f = n * (f / n + 1) := by
  have hr := Nat.mod_lt f hn
  have hd := Nat.div_add_mod f n
  rw [Nat.mul_add]
  omega

theorem rotate_unrotate {n v : Nat} (hv : v < n) (f : Nat) : (unrotate n v f + f) % n = v := by
  rw [unrotate, Nat.mod_add_mod, Nat.add_assoc, complement_add_eq_turns (by omega), Nat.add_mul_mod_self_left,
    Nat.mod_eq_of_lt hv]

theorem unrotate_rotate {n x : Nat} (hx : x < n) (f : Nat) : unrotate n ((x + f) % n) f = x := by
  rw [unrotate, Nat.mod_add_mod, Nat.add_assoc, Nat.add_comm f, complement_add_eq_turns (by omega),
    Nat.add_mul_mod_self_left, Nat.mod_eq_of_lt hx]

/-! ## The fields of an address -/

/-- A field of bits by division and remainder. -/
theorem bits_eq (n lo w : Nat) : bits n lo w = n / 2 ^ lo % 2 ^ w := by rw [bits, Nat.shiftRight_eq_div_pow]

/-- The exclusive or of the seven nibbles of a granule group `q`, which rotates the stacks (fs of R31). -/
def stackFold (q : Nat) : Nat :=
  q / 16 ^ 0 % 16 ^^^ q / 16 ^ 1 % 16 ^^^ q / 16 ^ 2 % 16 ^^^ q / 16 ^ 3 % 16 ^^^ q / 16 ^ 4 % 16 ^^^ q / 16 ^ 5 % 16 ^^^
    q / 16 ^ 6 % 16

/-- The exclusive or of the two lowest fields of a row, which rotates the banks (fb of R31). -/
def rowFold (row : Nat) : Nat := row % 64 ^^^ row / 64 % 64

/-- The pseudo-channel of granule group `q`. -/
def groupPc (q : Nat) : Nat := q % 32 ^^^ q / 32 % 32 ^^^ q / 1024 % 32

/-- What a granule group `q` with `u = q / 32` has in its pseudo-channel beside its lowest five bits. -/
def pcFold (u : Nat) : Nat := u % 32 ^^^ u / 32 % 32

theorem groupPc_eq (q : Nat) : groupPc q = q % 32 ^^^ pcFold (q / 32) := by
  rw [groupPc, pcFold, Nat.div_div_eq_div_mul, Nat.xor_assoc]

/-- The row of granule group `q`. -/
def groupRow (q : Nat) : Nat := q / 32 / 4 / 48

/-- The bank of granule group `q`. -/
def groupBank (q : Nat) : Nat := (q / 32 / 4 % 48 + rowFold (groupRow q)) % 48

/-- The model's mapping by division and remainder: a granule group has one place in each stack but for the rotation of the stacks. -/
theorem lmPlace_eq (a : Nat) :
    lmPlace a = ((a / 256 % 12 + stackFold (a / 256 / 12)) % 12, groupPc (a / 256 / 12), groupBank (a / 256 / 12),
      groupRow (a / 256 / 12)) := by
  simp only [lmPlace, bits_eq, Nat.shiftRight_eq_div_pow, stackFold, groupPc, groupBank, rowFold, groupRow,
    Nat.div_div_eq_div_mul, Nat.reducePow, Nat.reduceMul, Nat.div_one]

theorem lmGlobalPc_eq (a : Nat) :
    lmGlobalPc a = 32 * ((a / 256 % 12 + stackFold (a / 256 / 12)) % 12) + groupPc (a / 256 / 12) := by
  rw [lmGlobalPc, lmPlace_eq]

theorem lmCol_eq (a : Nat) : lmCol a = a / 256 / 12 / 32 % 4 := by
  simp only [lmCol, bits_eq, Nat.shiftRight_eq_div_pow, Nat.reducePow, Nat.div_one]

theorem pcFold_lt (u : Nat) : pcFold u < 32 :=
  Nat.xor_lt_two_pow (n := 5) (Nat.mod_lt _ (by decide)) (Nat.mod_lt _ (by decide))

theorem groupPc_lt (q : Nat) : groupPc q < 32 :=
  groupPc_eq q ▸ Nat.xor_lt_two_pow (n := 5) (Nat.mod_lt _ (by decide)) (pcFold_lt _)

theorem groupBank_lt (q : Nat) : groupBank q < 48 := Nat.mod_lt _ (by decide)

theorem lmBank_eq (a : Nat) : lmBank a = 48 * groupPc (a / 256 / 12) + groupBank (a / 256 / 12) := by
  rw [lmBank, lmPc, lmPlace_eq]

/-- Two addresses conflict in a bank just when their pseudo-channels and banks agree. -/
theorem lmBank_eq_iff (a b : Nat) :
    lmBank a = lmBank b ↔ (lmPlace b).2.1 = groupPc (a / 256 / 12) ∧ (lmPlace b).2.2.1 = groupBank (a / 256 / 12) := by
  have ha := groupBank_lt (a / 256 / 12)
  have hb := groupBank_lt (b / 256 / 12)
  rw [lmBank_eq, lmBank_eq, lmPlace_eq b]
  dsimp only
  omega

/-! ## The address of given fields -/

/-- The granule group at a pseudo-channel, a bank, a row and a column. -/
def groupAt (pc bank row col : Nat) : Nat :=
  let u := 4 * (48 * row + unrotate 48 bank (rowFold row)) + col
  32 * u + (pc ^^^ pcFold u)

/-- The address of a byte of a granule by its stack, pseudo-channel, bank, row and column. -/
def lmAddr (stack pc bank row col byte : Nat) : Nat :=
  let q := groupAt pc bank row col
  256 * (12 * q + unrotate 12 stack (stackFold q)) + byte

/-- The group of a group's own fields is the group itself. -/
theorem groupAt_fields (q : Nat) : groupAt (groupPc q) (groupBank q) (groupRow q) (q / 32 % 4) = q := by
  have hbank : unrotate 48 (groupBank q) (rowFold (groupRow q)) = q / 32 / 4 % 48 :=
    unrotate_rotate (Nat.mod_lt _ (by decide)) _
  have hu : 4 * (48 * groupRow q + q / 32 / 4 % 48) + q / 32 % 4 = q / 32 := by
    rw [groupRow]
    omega
  simp only [groupAt, hbank, hu, groupPc_eq, Nat.xor_xor_cancel_right, Nat.div_add_mod]

/-- The address of an address's own fields is the address itself: the mapping loses nothing. -/
theorem lmAddr_fields (a : Nat) :
    lmAddr (lmPlace a).1 (lmPlace a).2.1 (lmPlace a).2.2.1 (lmPlace a).2.2.2 (lmCol a) (a % 256) = a := by
  rw [lmPlace_eq, lmCol_eq]
  simp only [lmAddr, groupAt_fields, unrotate_rotate (Nat.mod_lt _ (by decide : 0 < 12)), Nat.div_add_mod]

/-- Stack, pseudo-channel, bank, row, column and byte determine an address. -/
theorem address_eq_of_fields_eq {a b : Nat} (hplace : lmPlace a = lmPlace b) (hcol : lmCol a = lmCol b)
    (hbyte : a % 256 = b % 256) : a = b := by
  rw [← lmAddr_fields a, ← lmAddr_fields b, hplace, hcol, hbyte]

section
variable {stack pc bank row col byte : Nat}

/-- The bits of a group above its lowest five. -/
theorem groupAt_div (hpc : pc < 32) :
    groupAt pc bank row col / 32 = 4 * (48 * row + unrotate 48 bank (rowFold row)) + col := by
  have hx := Nat.xor_lt_two_pow (n := 5) hpc (pcFold_lt (4 * (48 * row + unrotate 48 bank (rowFold row)) + col))
  simp only [groupAt]
  omega

theorem groupPc_groupAt (hpc : pc < 32) : groupPc (groupAt pc bank row col) = pc := by
  have hx := Nat.xor_lt_two_pow (n := 5) hpc (pcFold_lt (4 * (48 * row + unrotate 48 bank (rowFold row)) + col))
  rw [groupPc_eq, groupAt_div hpc, groupAt, Nat.mul_add_mod, Nat.mod_eq_of_lt hx, Nat.xor_xor_cancel_right]

theorem groupRow_groupAt (hpc : pc < 32) (hcol : col < 4) : groupRow (groupAt pc bank row col) = row := by
  have hdiv := groupAt_div (bank := bank) (row := row) (col := col) hpc
  have hlt := unrotate_lt (by decide : 0 < 48) bank (rowFold row)
  rw [groupRow]
  omega

theorem groupBank_groupAt (hpc : pc < 32) (hbank : bank < 48) (hcol : col < 4) :
    groupBank (groupAt pc bank row col) = bank := by
  have hdiv := groupAt_div (bank := bank) (row := row) (col := col) hpc
  have hlt := unrotate_lt (by decide : 0 < 48) bank (rowFold row)
  have hrot : groupAt pc bank row col / 32 / 4 % 48 = unrotate 48 bank (rowFold row) := by omega
  rw [groupBank, groupRow_groupAt hpc hcol, hrot, rotate_unrotate hbank]

theorem lmAddr_group (hbyte : byte < 256) : lmAddr stack pc bank row col byte / 256 / 12 = groupAt pc bank row col := by
  have hlt := unrotate_lt (by decide : 0 < 12) stack (stackFold (groupAt pc bank row col))
  simp only [lmAddr]
  omega

theorem lmPlace_lmAddr (hstack : stack < 12) (hpc : pc < 32) (hbank : bank < 48) (hcol : col < 4) (hbyte : byte < 256) :
    lmPlace (lmAddr stack pc bank row col byte) = (stack, pc, bank, row) := by
  have hlt := unrotate_lt (by decide : 0 < 12) stack (stackFold (groupAt pc bank row col))
  have hk : lmAddr stack pc bank row col byte / 256 % 12 = unrotate 12 stack (stackFold (groupAt pc bank row col)) := by
    simp only [lmAddr]
    omega
  rw [lmPlace_eq, lmAddr_group hbyte, hk, rotate_unrotate hstack, groupPc_groupAt hpc, groupBank_groupAt hpc hbank hcol,
    groupRow_groupAt hpc hcol]

theorem lmCol_lmAddr (hpc : pc < 32) (hcol : col < 4) (hbyte : byte < 256) :
    lmCol (lmAddr stack pc bank row col byte) = col := by
  rw [lmCol_eq, lmAddr_group hbyte, groupAt_div hpc]
  omega

theorem lmAddr_byte (hbyte : byte < 256) : lmAddr stack pc bank row col byte % 256 = byte := by
  rw [lmAddr, Nat.mul_add_mod, Nat.mod_eq_of_lt hbyte]

end

/-! ## The populated top -/

/-- The populated top in groups: 3,072 bytes of each, a granule of every stack (R2, R31). -/
theorem lmTop_eq_groups (s : State) : 2 ^ 30 * lmTopG s = 3072 * (if s.ml then 134217728 else 201326592) := by
  rw [lmTopG]
  split <;> rfl

theorem group_lt_of_lt_top {s : State} {a : Nat} (ha : a < 2 ^ 30 * lmTopG s) :
    a / 256 / 12 < if s.ml then 134217728 else 201326592 := by
  rw [lmTop_eq_groups] at ha
  omega

/-- A bank of the LX7300-ML has some of its last row only, so that it holds 21,845 or 21,846 rows. -/
theorem groupRow_lt_of_lt_top {s : State} {a : Nat} (ha : a < 2 ^ 30 * lmTopG s) :
    groupRow (a / 256 / 12) < if s.ml then 21846 else 32768 := by
  have hq := group_lt_of_lt_top ha
  rw [groupRow]
  split_ifs at hq ⊢ <;> omega

/-- The rows that every bank holds lie below the populated top. -/
theorem lmAddr_lt_top {s : State} {stack pc bank row col byte : Nat} (hpc : pc < 32)
    (hrow : row < if s.ml then 21845 else 32768) (hcol : col < 4) (hbyte : byte < 256) :
    lmAddr stack pc bank row col byte < 2 ^ 30 * lmTopG s := by
  have hgroup := lmAddr_group (stack := stack) (pc := pc) (bank := bank) (row := row) (col := col) hbyte
  have hdiv := groupAt_div (bank := bank) (row := row) (col := col) hpc
  have hlt := unrotate_lt (by decide : 0 < 48) bank (rowFold row)
  rw [lmTop_eq_groups]
  split_ifs at hrow ⊢ <;> omega

/-- Settles O56: `lmAddr` inverts the mapping on both sides, and the populated top is a whole number of granule groups. -/
theorem localMemoryAddresses : Obligations.LocalMemoryAddresses := by
  unfold Obligations.LocalMemoryAddresses
  refine ⟨fun a => ?_, fun s => ⟨fun a _ b _ => address_eq_of_fields_eq, fun a ha => ?_, ?_⟩⟩
  · exact ⟨lmPlace_eq a, lmCol_eq a, lmGlobalPc_eq a, lmBank_eq_iff a⟩
  · rw [lmPlace_eq]
    exact ⟨Nat.mod_lt _ (by decide), groupPc_lt _, groupBank_lt _, groupRow_lt_of_lt_top ha, group_lt_of_lt_top ha⟩
  · intro stack hstack pc hpc bank hbank row hrow col hcol byte hbyte
    exact ⟨lmAddr stack pc bank row col byte, lmAddr_lt_top hpc hrow hcol hbyte, lmPlace_lmAddr hstack hpc hbank hcol hbyte,
      lmCol_lmAddr hpc hcol hbyte, lmAddr_byte hbyte⟩

end Sys2Proof.Machine
end

section
/-! The candidate of a target as the first greatest element of its presentable sources, which rise with the keys of the active
table; and the frame of what a presentation does beside the bit of its target. -/

namespace Sys2Proof.Machine

/-! ## The keys of a sparse array -/

theorem above_iff_head {α : Type} {n : Nat} {t : Table α} : Above n t ↔ ∀ k ∈ (t.map (·.1)).head?, n < k := by
  cases t <;> simp [Above]

theorem keys_strictly_rise {α : Type} [DecidableEq α] {d : α} {t : Table α} (ht : twf d t = true) :
    (t.map (·.1)).Pairwise (· < ·) := by
  rw [← List.isChain_iff_pairwise]
  induction t with
  | nil => exact .nil
  | cons e t ih =>
    obtain ⟨habove, -, hrest⟩ := (twf_cons d e.1 e.2 t).1 ht
    exact List.isChain_cons.2 ⟨above_iff_head.1 habove, ih hrest⟩

theorem mem_keys_of_tget_ne {α : Type} {d : α} {t : Table α} {k : Nat} (h : tget d t k ≠ d) : k ∈ t.map (·.1) := by
  induction t with
  | nil => exact absurd rfl h
  | cons e t ih =>
    by_cases hk : k = e.1
    · exact List.mem_cons.2 (.inl hk)
    · simp only [tget, hk, if_false] at h
      exact List.mem_cons_of_mem _ (ih h)

/-- In a list that strictly rises, the places of the elements are in the order of the elements. -/
theorem idxOf_le_idxOf_iff_of_rising {l : List Nat} (hl : l.Pairwise (· < ·)) {a b : Nat} (ha : a ∈ l) (hb : b ∈ l) :
    l.idxOf a ≤ l.idxOf b ↔ a ≤ b := by
  have hmono := (List.sortedLT_iff_strictMono_get.1 hl.sortedLT).le_iff_le
    (a := ⟨l.idxOf a, List.idxOf_lt_length_of_mem ha⟩) (b := ⟨l.idxOf b, List.idxOf_lt_length_of_mem hb⟩)
  simpa using hmono.symm

/-! ## Presentable sources -/

/-- A source in service is not presentable, so that what R387 asks of a level source's pending bit beside its input falls away. -/
theorem presentable_iff (s : State) (n : Nat) :
    presentable s n = true ↔
      n ≠ 0 ∧ (srcCfg s n).en = true ∧ (if srcLevel n then (srcState s n).input = true else (srcState s n).pend = true) ∧
      (srcState s n).mask = false ∧ (srcState s n).insvc = none ∧ (getGrp s (n / 16)).hact = false := by
  by_cases hlevel : srcLevel n = true
  · simp only [presentable, srcPending, hlevel, if_true, Bool.and_eq_true, Bool.not_eq_true', decide_eq_true_eq,
      Option.isNone_iff_eq_none]
    tauto
  · simp [presentable, srcPending, hlevel, and_assoc]

/-- An enabled source has an entry in the active table, since the entry of an unlisted one is disabled. -/
theorem mem_active_of_enabled {s : State} {n : Nat} (hen : (srcCfg s n).en = true) : n ∈ s.evc.cfg.active.map (·.1) :=
  mem_keys_of_tget_ne (d := SrcCfg.reset) fun hreset => by
    rw [srcCfg, hreset] at hen
    exact absurd hen (by decide)

theorem mem_presentableOf {s : State} {k : Fin 18} {n : Nat} :
    n ∈ presentableOf s k ↔ (srcCfg s n).tgt.toNat = k.val ∧ presentable s n = true := by
  simp only [presentableOf, List.mem_filter, Bool.and_eq_true, decide_eq_true_eq, and_iff_right_iff_imp]
  rintro ⟨-, hpres⟩
  obtain ⟨-, hen, -⟩ := (presentable_iff s n).1 hpres
  exact mem_active_of_enabled hen

theorem presentableOf_strictly_rises {s : State} (hs : s.TablesOk) (k : Fin 18) : (presentableOf s k).Pairwise (· < ·) :=
  have ⟨_, hactive, _⟩ := hs.cfg
  (keys_strictly_rise hactive).filter _

/-! ## The candidate -/

/-- The priority of a source as a number. -/
def srcPrio (s : State) (n : Nat) : Nat := (srcCfg s n).prio.toNat

theorem foldl_betterSrc_eq_argmax (s : State) (n : Nat) (ns : List Nat) :
    some (ns.foldl (betterSrc s) n) = (n :: ns).argmax (srcPrio s) := by
  rw [List.argmax, List.foldl_cons]
  induction ns generalizing n with
  | nil => rfl
  | cons m ms ih =>
    rw [List.foldl_cons, List.foldl_cons, ih]
    exact congrArg (List.foldl _ · ms) (apply_ite some _ _ _)

theorem candidate_eq_argmax (s : State) (k : Fin 18) : candidate s k = (presentableOf s k).argmax (srcPrio s) := by
  rw [candidate]
  cases presentableOf s k with
  | nil => rfl
  | cons n ns => exact foldl_betterSrc_eq_argmax s n ns

/-- The first greatest source is the one that every other falls behind in priority, or follows at the same priority. -/
theorem candidate_eq_some_iff {s : State} (hs : s.TablesOk) (k : Fin 18) (n : Nat) :
    candidate s k = some n ↔ (srcCfg s n).tgt.toNat = k.val ∧ presentable s n = true ∧
      ∀ m, (srcCfg s m).tgt.toNat = k.val → presentable s m = true →
        (srcCfg s m).prio.toNat < (srcCfg s n).prio.toNat ∨ ((srcCfg s m).prio = (srcCfg s n).prio ∧ n ≤ m) := by
  have hrises := presentableOf_strictly_rises hs k
  rw [candidate_eq_argmax, List.argmax_eq_some_iff, ← and_assoc (a := _ = _), ← mem_presentableOf]
  refine and_congr_right fun hn => ⟨fun ⟨hmax, hfirst⟩ m htgt hpres => ?_, fun hbest => ⟨fun m hm => ?_, fun m hm hprio => ?_⟩⟩
  · have hm := mem_presentableOf.2 ⟨htgt, hpres⟩
    refine (hmax m hm).lt_or_eq.imp_right fun heq => ⟨BitVec.eq_of_toNat_eq heq, ?_⟩
    exact (idxOf_le_idxOf_iff_of_rising hrises hn hm).1 (hfirst m hm heq.ge)
  · obtain ⟨htgt, hpres⟩ := mem_presentableOf.1 hm
    exact (hbest m htgt hpres).elim le_of_lt fun h => (congrArg BitVec.toNat h.1).le
  · obtain ⟨htgt, hpres⟩ := mem_presentableOf.1 hm
    have hle := (hbest m htgt hpres).resolve_left hprio.not_gt
    exact (idxOf_le_idxOf_iff_of_rising hrises hn hm).2 hle.2

/-! ## What a presentation leaves of the presented targets -/

@[simp] theorem makeReady_evc (s : State) (c : Nat) : (makeReady s c).evc = s.evc := by
  simp only [makeReady, enlist, unlist]
  split <;> rfl

@[simp] theorem wakeFor_evc (s : State) (q : Fin 16) : (wakeFor s q).evc = s.evc := by
  simp only [wakeFor]
  split
  · rfl
  · split
    · rfl
    · exact makeReady_evc s _

@[simp] theorem setSrc_presented (s : State) (n : Nat) (x : SrcState) : (setSrc s n x).evc.presented = s.evc.presented := rfl

@[simp] theorem sendMsix_evc (s : State) (f : Fin 64) (v : Nat) : (sendMsix s f v).evc = s.evc := by
  simp only [sendMsix]
  split
  · rfl
  · split <;> rfl

@[simp] theorem sendHostSources_presented (s : State) : (sendHostSources s).evc.presented = s.evc.presented := by
  rw [sendHostSources]
  split
  · rfl
  · refine List.foldlRecOn (motive := fun a : State => a.evc.presented = s.evc.presented) _ _ rfl fun a ha n _ => ?_
    split
    · exact ha
    · simpa using ha

/-- The presented targets with the bit of one target written. -/
def withPresented (p : BitVec 18) (k : Fin 18) (on : Bool) : BitVec 18 :=
  if on then p ||| BitVec.ofNat 18 (2 ^ k.val) else p &&& ~~~BitVec.ofNat 18 (2 ^ k.val)

theorem getLsbD_withPresented (p : BitVec 18) (k j : Fin 18) (on : Bool) :
    (withPresented p k on).getLsbD j.val = if j = k then on else p.getLsbD j.val := by
  have hbit : (BitVec.ofNat 18 (2 ^ k.val)).getLsbD j.val = decide (j = k) := by
    rw [BitVec.getLsbD_ofNat, Nat.testBit_two_pow, decide_eq_true j.isLt, Bool.true_and]
    exact decide_eq_decide.2 (eq_comm.trans Fin.ext_iff.symm)
  cases on with
  | true =>
    rw [withPresented, if_pos rfl, BitVec.getLsbD_or, hbit]
    split_ifs with hj <;> simp [hj]
  | false =>
    rw [withPresented, if_neg Bool.false_ne_true, BitVec.getLsbD_and, BitVec.getLsbD_not, hbit]
    split_ifs with hj <;> simp [hj]

/-- Where the EVC works, a presentation writes the bit of its target; the context it wakes and the messages it sends change no other. -/
theorem evcPresentation_presented {s : State} (k : Fin 18) (hen : (hdr s .evc).en = true) (hheld : (hdr s .evc).held = false)
    (hup : evcUp s = true) : Gives (.evcPresentation k) s (fun t =>
      t.evc.presented = withPresented s.evc.presented k (candidate s k).isSome) := by
  simp only [Gives, exec_evcPresentation, execEvcPresentation, withPresented, hen, hheld, hup, Bool.not_true, Bool.or_self,
    Bool.false_eq_true, if_false]
  split
  · refine ⟨_, rfl, ?_⟩
    split
    · exact congrArg Evc.presented (wakeFor_evc _ _)
    · rfl
  · split
    · exact ⟨_, rfl, sendHostSources_presented _⟩
    · exact ⟨_, rfl, rfl⟩

/-- Settles O49: the candidate is the first greatest of the presentable sources in rising order, and a presentation writes its bit alone. -/
theorem candidatesOfATarget : Obligations.CandidatesOfATarget := by
  unfold Obligations.CandidatesOfATarget
  refine fun s k hs => ⟨presentable_iff s, candidate_eq_some_iff hs k, fun hen hheld hup => ?_⟩
  obtain ⟨t, hexec, hpresented⟩ := evcPresentation_presented k hen hheld hup
  refine ⟨t, hexec, fun j => ?_⟩
  rw [hpresented, getLsbD_withPresented]

end Sys2Proof.Machine
end
